-- ==== Sys2Proof/Word.lean ====
section
/-! DEFINITION. The word types and their plainest arithmetic: 64-bit registers, 32-bit words and bytes, fields of a word,
and the saturating counter (R105 and the other counter rules: 48-bit, saturating at 2^48 − 1). -/

namespace Sys2Proof

/-- A 64-bit register or scalar-register value. -/
abbrev Word := BitVec 64
/-- A 32-bit word: an FP32 lane, a sequence number. -/
abbrev Half := BitVec 32
/-- A byte of memory. -/
abbrev Byte := BitVec 8

/-- Bits [lo + w - 1 : lo] of a number. -/
def bitsOf (n lo w : Nat) : Nat := n / 2 ^ lo % 2 ^ w

/-- A number with bits [lo + w - 1 : lo] replaced by `v`. -/
def setBits (n lo w v : Nat) : Nat :=
  n % 2 ^ lo + (v % 2 ^ w) * 2 ^ lo + n / 2 ^ (lo + w) * 2 ^ (lo + w)

/-- The greatest value of a 48-bit counter. -/
def cntMax : Nat := 2 ^ 48 - 1

/-- A saturating 48-bit add. -/
def satAdd (n k : Nat) : Nat := min cntMax (n + k)

/-- The nearest legal value (R11). -/
def clampTo (lo hi v : Nat) : Nat := max lo (min hi v)

/-- A number read as a two's-complement value of `w` bits. -/
def toSigned (w n : Nat) : Int :=
  if n % 2 ^ w < 2 ^ (w - 1) then (n % 2 ^ w : Int) else (n % 2 ^ w : Int) - 2 ^ w

/-- An integer written in `w` bits, two's complement. -/
def ofSigned (w : Nat) (z : Int) : Nat := (z % (2 ^ w : Int)).toNat

/-- A number read little-endian from bytes, the first byte lowest (R8). -/
def leNat : List Byte → Nat
  | [] => 0
  | b :: r => b.toNat + 256 * leNat r

/-- The `n` little-endian bytes of a number (R8). -/
def leBytes : Nat → Nat → List Byte
  | 0, _ => []
  | n + 1, v => BitVec.ofNat 8 v :: leBytes n (v / 256)

/-- Sequence comparison of R27: `a` precedes `b`. -/
def seqBefore (a b : Half) : Bool := 0 < (b - a).toNat && (b - a).toNat < 2 ^ 31

/-- Sequence comparison of R27: the pair is unordered. -/
def seqUnordered (a b : Half) : Bool := (b - a).toNat = 2 ^ 31

/-- The first `n` naturals from `s` on. -/
def upFrom : Nat → Nat → List Nat
  | _, 0 => []
  | s, n + 1 => s :: upFrom (s + 1) n

end Sys2Proof
end

