-- ==== Sys2Proof/Units.lean ====
section
/-! DEFINITION. The operand types of the commands: unit numbers, the operand bits of tile instructions, agents and writers. -/

namespace Sys2Proof

/-! ### Unit numbers (R5, R6, R12, R17) -/

/-- A flat logical tile number (R6). -/
abbrev TileId := Fin 10752
/-- A flat cluster number (R17). -/
abbrev ClusterId := Fin 672
/-- A region number d × 3 + m. -/
abbrev RegionId := Fin 12
abbrev DieId := Fin 4
/-- An array number, flat tile number × 4 + array (R313). -/
abbrev ArrayId := Fin 43008
abbrev CtxId := Fin 128
/-- An update engine: regions 0 to 11, then slow-tier chiplets 12 to 17 (R479). -/
abbrev UpdId := Fin 18
/-- A DMA engine: region × 4 + engine (R483). -/
abbrev DmaId := Fin 48
/-- A Lightway port: die × 8 + port (R429). -/
abbrev PortId := Fin 32
abbrev QueueId := Fin 262144
/-- A sync memory: clusters 0 to 671, then the hub 672 (R377). -/
abbrev SyncMemId := Fin 673
/-- A package-wide counter number (R17). -/
abbrev CounterId := Fin 2818048
abbrev MailboxId := Fin 64
abbrev CoreId := Fin 16
abbrev SchedThr := Fin 256
abbrev SourceId := Fin 4096
/-- A counter bank (R582). -/
abbrev BankIdx := Fin 12235

/-! ### Tile instructions (R149 to R163): every operand bit of the word, reserved bits included -/

/-- Where an instruction issues and its guard (R149). -/
structure Hdr where
  tile : TileId
  ctx : CtxId
  neg : Bool
  pred : BitVec 3
  deriving DecidableEq, Repr

/-- Control-class operands (R151). -/
structure CtlOps where
  rd : BitVec 5
  rs1 : BitVec 5
  rs2 : BitVec 5
  pd : BitVec 3
  imm : BitVec 32
  deriving DecidableEq, Repr

/-- WLOAD operands (R152). -/
structure WloadOps where
  fmt : BitVec 4
  piece : BitVec 2
  plane : BitVec 1
  mask : BitVec 4
  sparsity : BitVec 2
  rs1 : BitVec 5
  rs2 : BitVec 5
  rsv : BitVec 27
  deriving DecidableEq, Repr

/-- MMA operands (R153). -/
structure MmaOps where
  fmt : BitVec 4
  plane : BitVec 1
  mask : BitVec 4
  mode : BitVec 2
  grouping : BitVec 2
  pass : BitVec 1
  mirror : BitVec 1
  join : BitVec 1
  rnd : BitVec 1
  rsv0 : BitVec 1
  index : BitVec 10
  mMinus1 : BitVec 5
  rs1 : BitVec 5
  rs2 : BitVec 5
  rsv1 : BitVec 7
  deriving DecidableEq, Repr

/-- READOUT operands (R155). -/
structure ReadoutOps where
  mode : BitVec 3
  index : BitVec 10
  countMinus1 : BitVec 5
  mask : BitVec 4
  target : BitVec 4
  rnd : BitVec 1
  cls : BitVec 3
  clear : BitVec 1
  dest : BitVec 1
  rs1 : BitVec 5
  rs2 : BitVec 5
  rd : BitVec 5
  rsv : BitVec 3
  deriving DecidableEq, Repr

/-- Vector-class operands (R157). -/
structure VecOps where
  vd : BitVec 4
  va : BitVec 4
  vb : BitVec 4
  vc : BitVec 4
  rs1 : BitVec 5
  rs2 : BitVec 5
  rnd : BitVec 1
  cls : BitVec 3
  fmt : BitVec 4
  imm : BitVec 16
  deriving DecidableEq, Repr

/-- Memory-class operands (R158). -/
structure MemOps where
  rd : BitVec 5
  rs1 : BitVec 5
  vd : BitVec 4
  size : BitVec 2
  signed : BitVec 1
  space : BitVec 1
  rotate : BitVec 1
  rsv : BitVec 7
  offset : BitVec 24
  deriving DecidableEq, Repr

/-- Synchronisation-class operands (R161). -/
structure SyncOps where
  rd : BitVec 5
  rs1 : BitVec 5
  rs2 : BitVec 5
  useImm : BitVec 1
  rsv : BitVec 2
  imm : BitVec 32
  deriving DecidableEq, Repr

/-- Graph-class operands (R163). -/
structure GraphOps where
  rd : BitVec 5
  rs1 : BitVec 5
  rs2 : BitVec 5
  rsv : BitVec 35
  deriving DecidableEq, Repr

/-- Beats that timing decides, counted by the array counters (R95, R108). -/
structure ArrBeats where
  beats : Nat
  feed : Nat
  acc : Nat
  wgt : Nat
  deriving DecidableEq, Repr

/-- A sweep of a gather/scatter engine: the engine, and the beats that the entry's source reads waited at their banks (R180). -/
structure GsBeat where
  engine : ClusterId
  waitOwn : Nat
  waitPort : Nat
  deriving DecidableEq, Repr

/-- The master that writes a register: who the write rules of each register chapter admit. -/
inductive Writer where
  /-- the control complex (firmware) -/
  | control
  /-- a tile's device-space ST -/
  | tile
  /-- the hub -/
  | hub
  /-- the host through BAR0 -/
  | host
  /-- the code of a customer extension, on core 15 (R491) -/
  | ext
  deriving DecidableEq, Repr

/-- Who waits on a counter (R379): the agent of a sync operation. -/
inductive Waiter where
  | thread (tile ctx rd : Nat)
  | engine (agent : Nat)
  | control (thread core : Nat)
  | host (mailbox vector : Nat) (cookie : Nat)
  deriving DecidableEq, Repr

/-- Who appends to a queue (R482). -/
inductive AppendSrc where
  | tile | firmware | host
  deriving DecidableEq, Repr

/-- What a memory access does (R315). -/
inductive MemAct where
  | read | write | add
  deriving DecidableEq, Repr

/-- A request between embedding owners of two modules (R276, R279, R282): the table descriptor and the part it concerns, the pooling,
the step, the region and bag it is for, and its entries: position within the bag, logical index, weight, and for a gradient the elements
contributed (none where the entry is not an element's winner). -/
structure EmbRemote where
  table : BitVec 52
  part : Nat
  pool : Nat
  step : BitVec 32
  region : Nat
  bag : Nat
  entries : List (Nat × Nat × Half × List (Option Half))
  deriving DecidableEq, Repr

/-- A step of a gradient request: the request of the descriptor or the message waiting here, the beats that its reads of gradient rows
waited (R180), whether the owner of another module reported a failure, the row it answered with, the entries of the request whose reads of
host memory fail (R312), by place. -/
structure EmbBeat where
  index : Nat
  waitOwn : Nat
  waitPort : Nat
  failed : Bool
  answer : List Half
  hostBad : List Nat
  deriving DecidableEq, Repr

/-- A step of a port's identity exchange (R453): whether the peer has verified this end's report. -/
structure IdentStep where
  port : PortId
  peerOk : Bool
  deriving DecidableEq, Repr

/-- An update engine, and the beats that its batch waited for a verdict. -/
structure UpdWait where
  unit : UpdId
  waited : Nat
  deriving DecidableEq, Repr

/-- A step of an update engine's apply pass: the beats that its batch waited for a verdict and that are not counted yet (R356), the blocks of
the row, by place, whose reads of host memory fail (R312, R360). -/
structure UpdBeat where
  waited : Nat
  hostBad : List Nat
  deriving DecidableEq, Repr

/-- What the meter reads off its instruments (R544, R547, R552): meter time in ns; since the reading before it the energy in mJ, the
lowest and highest input in 10 mV, the highest 1 s mean power in W, whether current left the measuring range; the mean power of the
last 1 s. -/
structure MeterReading where
  now : BitVec 64
  power : BitVec 16
  energy : BitVec 64
  vMin : BitVec 16
  vMax : BitVec 16
  peak : BitVec 16
  overload : Bool
  deriving DecidableEq, Repr

/-- A service command of the meter (R545, R549): 0 sets a parameter, 1 loads firmware (version and CRC-32), 2 restarts the meter. -/
structure MeterService where
  kind : Fin 3
  param : BitVec 32
  value : BitVec 64
  deriving DecidableEq, Repr

/-- Where a corrected error stood (R573): a 64-bit word of a tile, a granule of a stack's DRAM row, a lane within a group of 64 of the
stack interface, a cache way, a granule of an LPDDR6 row by device address, a word of another store. -/
inductive ErrLoc where
  | tileWord (tile : TileId) (store : Fin 4) (word : BitVec 18)
  | dramRow (stack : RegionId) (bank row : BitVec 32) (granule : Fin 32)
  | lane (stack : RegionId) (group : BitVec 10) (lane : Fin 64)
  | way (stack : RegionId) (way : Fin 16)
  | slowRow (addr : BitVec 52)
  | other (unit : BitVec 28) (store : Fin 13) (addr : BitVec 52)
  deriving DecidableEq, Repr

/-- A tile that is looked at for its spare (R573, R574): by its error counts, or (path) by a path test in Reel mode with the beat rate of the
slowest path and the island's median. -/
structure TileCheck where
  tile : TileId
  path : Option (Nat × Nat)
  deriving DecidableEq, Repr

/-- A re-forming of the rings (R421, R476): the entries of each level's ring that remain; of the verdict and seal packets that came while the
exchange was halted, by place, those whose sender had re-formed its rings before. -/
structure Reform where
  sizes : List Nat
  fresh : List Nat
  deriving DecidableEq, Repr

/-- What reaches an engine of a capture (R590, R591): the hub's injection, or a marker of a capture sequence on one of its data inputs. The
engine is bank b, queue q as 2^20 + q, the statistics unit of generator g as 2^21 + g. -/
structure CapArrival where
  engine : Nat
  marker : Option (BitVec 32)
  deriving DecidableEq, Repr

/-- The failing cells of an array, row and column (R101). -/
abbrev BadCells := ArrayId × List (Fin 32 × Fin 32)

/-- A unit with a fuse row: an array, or a cluster for its tile spare (R103, R577). -/
inductive FuseUnit where
  | array (arr : ArrayId)
  | cluster (n : ClusterId)
  deriving DecidableEq, Repr

end Sys2Proof
end

