-- ==== Sys2Proof/Syntax.lean ====
section
/-! DEFINITION. The commands of the block: one constructor of `Instr` per row of spec/opcode_table.json. The table gives the
rows no operand fields, so the operands are taken from the rule each row cites: unit numbers, values written, payloads, and
what the row leaves to its environment (log entries 5 and 9). -/

namespace Sys2Proof

/-- One command of the block. -/
inductive Instr where
  /-- COLD_START (R554): The 48 V input enters 40–58 V on both blocks and the pilot light begins the cold-start sequence once the interlock light and temperature conditions hold. -/
  | coldStart (light : Bool) (hottest : BitVec 10)
  /-- ROOT_OF_TRUST_VERIFY (R559): At the end of stage 1 the root of trust verifies the active firmware slot, falls back to the other slot if needed, and extends the measurement registers. -/
  | rootOfTrustVerify
  /-- CONTROL_CORE_SELF_TEST (R490): Stage 4 runs the control-core self-test, maps the spare core in place of a failed one and starts firmware. -/
  | controlCoreSelfTest (failed : List CoreId)
  /-- MEMORY_TRAINING (R554): Stage 6 trains, repairs and clears the fast and slow tiers, and marks failed regions or channel pairs absent. -/
  | memoryTraining (regions : List RegionId) (pairs : List (Fin 24))
  /-- TILE_SELF_TEST (R554): Stage 7 self-tests the tiles in Reel mode and remaps array and tile spares. -/
  | tileSelfTest (parityBad : List FuseUnit) (cells : List BadCells) (failed : List TileId)
  /-- PCIE_CONFIG_READY (R512): Configuration space becomes ready after PERST# deassertion, and Request Retry Status ends. -/
  | pcieConfigReady
  /-- INPUT_LOSS (R600): The input falls below 38.0 V for more than 20 µs, or a block is lost, and is treated as removal of the 48 V input. -/
  | inputLoss
  /-- INPUT_OVERVOLTAGE (R600): The input stays above 59.0 V for more than 10 µs, and the module disconnects it. -/
  | inputOvervoltage
  /-- INPUT_RESTORED (R600): After a loss, both blocks are within 40–58 V for 1 s, and the sequence restarts from stage 1. -/
  | inputRestored
  /-- PHASE_MARKER (R31): A marked descriptor reaches its consumer, and firmware sets the island's operating point before the descriptor starts. -/
  | phaseMarker (queue : QueueId)
  /-- ISSUE_SLOT (R142): In each beat the sequencer gives its issue slot to a READY context by priority, starvation or Reel-mode rules, or counts it empty. -/
  | issueSlot (tile : TileId)
  /-- LAUNCH (R138): The launch queue's head descriptor starts a FREE context, or waits until the named context is FREE. -/
  | launch (tile : TileId)
  /-- THREAD_DRAIN_DONE (R139): The last outstanding instruction of a DRAIN thread completes, the context becomes FREE and its completion counter gains 1. -/
  | threadDrainDone (tile : TileId) (ctx : CtxId)
  /-- IFETCH_FILL (R148): An instruction-cache line arrives after a miss and its waiting thread leaves WAIT cause 3. -/
  | ifetchFill (tile : TileId) (line : BitVec 46) (victim : Option (BitVec 46))
  /-- NOP (R151): Does nothing. -/
  | nop (h : Hdr) (o : CtlOps)
  /-- ADD (R151): rd = rs1 + rs2. -/
  | add (h : Hdr) (o : CtlOps)
  /-- ADDI (R151): rd = rs1 + sext(imm). -/
  | addi (h : Hdr) (o : CtlOps)
  /-- SUB (R151): rd = rs1 − rs2. -/
  | sub (h : Hdr) (o : CtlOps)
  /-- MUL (R151): rd = low 64 bits of rs1 × rs2. -/
  | mul (h : Hdr) (o : CtlOps)
  /-- AND (R151): Bitwise AND of rs1 and rs2. -/
  | and (h : Hdr) (o : CtlOps)
  /-- OR (R151): Bitwise OR of rs1 and rs2. -/
  | or (h : Hdr) (o : CtlOps)
  /-- XOR (R151): Bitwise XOR of rs1 and rs2. -/
  | xor (h : Hdr) (o : CtlOps)
  /-- SHL (R151): Left shift of rs1 by rs2 mod 64. -/
  | shl (h : Hdr) (o : CtlOps)
  /-- SHR (R151): Logical right shift of rs1 by rs2 mod 64. -/
  | shr (h : Hdr) (o : CtlOps)
  /-- SRA (R151): Arithmetic right shift of rs1 by rs2 mod 64. -/
  | sra (h : Hdr) (o : CtlOps)
  /-- SHLI (R151): Left shift of rs1 by imm[5:0]. -/
  | shli (h : Hdr) (o : CtlOps)
  /-- SHRI (R151): Logical right shift of rs1 by imm[5:0]. -/
  | shri (h : Hdr) (o : CtlOps)
  /-- SRAI (R151): Arithmetic right shift of rs1 by imm[5:0]. -/
  | srai (h : Hdr) (o : CtlOps)
  /-- MOVI (R151): rd = sext(imm). -/
  | movi (h : Hdr) (o : CtlOps)
  /-- MOVHI (R151): Writes imm to rd[63:32], leaving rd[31:0] unchanged. -/
  | movhi (h : Hdr) (o : CtlOps)
  /-- CMP (R151): Sets pd to the selected comparison of rs1 and rs2. -/
  | cmp (h : Hdr) (o : CtlOps)
  /-- CMPI (R151): Sets pd to the selected comparison of rs1 and a sign-extended immediate. -/
  | cmpi (h : Hdr) (o : CtlOps)
  /-- PLOG (R151): Sets pd to a logical operation on two predicates. -/
  | plog (h : Hdr) (o : CtlOps)
  /-- BR (R151): Branches PC-relative, conditionally under a guard. -/
  | br (h : Hdr) (o : CtlOps)
  /-- JR (R151): Jumps to rs1, faulting if it is unaligned. -/
  | jr (h : Hdr) (o : CtlOps)
  /-- CALL (R151): Saves PC + 8 in rd and branches PC-relative. -/
  | call (h : Hdr) (o : CtlOps)
  /-- SPAWN (R151): Starts the lowest-numbered FREE context at a PC-relative entry and returns its number. -/
  | spawn (h : Hdr) (o : CtlOps)
  /-- HALT (R139): The thread enters DRAIN. -/
  | halt (h : Hdr) (o : CtlOps)
  /-- FENCE (R151): The thread waits with cause 8 until all its earlier instructions complete. -/
  | fence (h : Hdr) (o : CtlOps)
  /-- RDTIME (R151): Reads the device time counter into rd. -/
  | rdtime (h : Hdr) (o : CtlOps)
  /-- RDID (R151): Writes the flat tile number and context number into rd. -/
  | rdid (h : Hdr) (o : CtlOps)
  /-- WLOAD (R152): Issues a weight load of one plane of each masked array from scratch, which waits while the plane is in use. -/
  | wload (h : Hdr) (o : WloadOps)
  /-- WLOAD_START (R91): A waiting weight load starts on all masked arrays once the multiply using the plane has drained. -/
  | wloadStart (tile : TileId) (op : Nat)
  /-- WLOAD_DONE (R90): A weight load's last beat completes, and the plane records its format and becomes valid. -/
  | wloadDone (tile : TileId) (op : Nat) (waitOwn waitPort : Nat)
  /-- MMA (R153): Issues a matrix multiply that streams M vectors through the masked arrays in the selected mode, grouping, pass mode and direction. -/
  | mma (h : Hdr) (o : MmaOps)
  /-- MMA_STREAM_START (R89): A waiting multiply's first stream element enters once its plane is loaded and any direction change has drained. -/
  | mmaStreamStart (tile : TileId) (op : Nat)
  /-- RESULT_GROUP_WRITE (R116): A result group's sums are added into accumulator entries under the mode's arithmetic and row-state rules. -/
  | resultGroupWrite (tile : TileId) (op : Nat) (bt : ArrBeats) (waitOwn waitPort : Nat)
  /-- READOUT (R121): Issues a readout of accumulator entries with scaling, conversion, masking and optional clear to scratch or vector registers. -/
  | readout (h : Hdr) (o : ReadoutOps)
  /-- READOUT_START (R156): A readout starts reading once no earlier accumulation to its entries is pending. -/
  | readoutStart (tile : TileId) (op : Nat)
  /-- READOUT_DONE (R125): A readout's last value is written and the instruction completes. -/
  | readoutDone (tile : TileId) (op : Nat) (waitOwn waitPort : Nat)
  /-- VADD (R157): Lane-wise FP32 addition. -/
  | vadd (h : Hdr) (o : VecOps)
  /-- VSUB (R157): Lane-wise FP32 subtraction. -/
  | vsub (h : Hdr) (o : VecOps)
  /-- VMUL (R157): Lane-wise FP32 multiplication. -/
  | vmul (h : Hdr) (o : VecOps)
  /-- VFMA (R157): Lane-wise fused multiply-add, rounded once. -/
  | vfma (h : Hdr) (o : VecOps)
  /-- VMAX (R157): Lane-wise maximum under the comparison rules of R129. -/
  | vmax (h : Hdr) (o : VecOps)
  /-- VMIN (R157): Lane-wise minimum under the comparison rules of R129. -/
  | vmin (h : Hdr) (o : VecOps)
  /-- VRSQRT (R157): Lane-wise reciprocal square root. -/
  | vrsqrt (h : Hdr) (o : VecOps)
  /-- VRCP (R157): Lane-wise reciprocal. -/
  | vrcp (h : Hdr) (o : VecOps)
  /-- VEXP2 (R157): Lane-wise power of two. -/
  | vexp2 (h : Hdr) (o : VecOps)
  /-- VLOG2 (R157): Lane-wise base-2 logarithm. -/
  | vlog2 (h : Hdr) (o : VecOps)
  /-- VBCAST (R157): Broadcasts rs1[31:0] to every lane. -/
  | vbcast (h : Hdr) (o : VecOps)
  /-- VIDX (R157): Writes rs1 plus the lane index to each lane. -/
  | vidx (h : Hdr) (o : VecOps)
  /-- VSUM (R157): Sums the 64 lanes in a fixed pairwise tree into a scalar register. -/
  | vsum (h : Hdr) (o : VecOps)
  /-- VMAXR (R157): Writes the largest lane and its index into a scalar register. -/
  | vmaxr (h : Hdr) (o : VecOps)
  /-- VCVT (R157): Converts a vector register to a format and stores it to scratch, counting statistics. -/
  | vcvt (h : Hdr) (o : VecOps)
  /-- VLDC (R157): Loads 64 stored elements from scratch and decodes them to FP32. -/
  | vldc (h : Hdr) (o : VecOps)
  /-- VACC (R128): Accumulates 64 lanes into accumulator entries with ADD, MAX or MIN. -/
  | vacc (h : Hdr) (o : VecOps)
  /-- VLEASE (R146): Requests the vector lease, which is granted at once if free or queued in issue order. -/
  | vlease (h : Hdr) (o : VecOps)
  /-- VRELEASE (R146): Releases the vector lease once the thread's vector instructions complete. -/
  | vrelease (h : Hdr) (o : VecOps)
  /-- VLEASE_HANDOVER (R146): A pending release takes effect and the lease passes to the next waiter in issue order. -/
  | vleaseHandover (tile : TileId)
  /-- LD (R158): Loads a scalar from scratch or device space into rd. -/
  | ld (h : Hdr) (o : MemOps)
  /-- ST (R158): Stores the low bytes of a register to scratch or device space. -/
  | st (h : Hdr) (o : MemOps)
  /-- VLD (R158): Loads 256 bytes from scratch into a vector register. -/
  | vld (h : Hdr) (o : MemOps)
  /-- VST (R158): Stores a vector register as 256 bytes to scratch. -/
  | vst (h : Hdr) (o : MemOps)
  /-- DMA (R328): Copies a DMA descriptor and posts it to the FIFO of the named engine of the region. -/
  | dma (h : Hdr) (o : MemOps)
  /-- DEVICE_ACCESS_DONE (R159): A device-space LD returns its value, or a device ST is accepted at its point of coherence. -/
  | deviceAccessDone (tile : TileId) (op : Nat)
  /-- SADD (R161): Requests an add of n to a sync counter. -/
  | sadd (h : Hdr) (o : SyncOps)
  /-- SSUB (R161): Requests a subtract of n from a sync counter. -/
  | ssub (h : Hdr) (o : SyncOps)
  /-- SWAIT (R161): The thread waits with cause 5 until a counter reaches N. -/
  | swait (h : Hdr) (o : SyncOps)
  /-- SREAD (R161): Reads a sync counter's value into rd. -/
  | sread (h : Hdr) (o : SyncOps)
  /-- SSIGNAL (R161): Sends a remote signal with data sequence and byte count to a counter of another module. -/
  | ssignal (h : Hdr) (o : SyncOps)
  /-- SYNC_OP_RELEASE (R162): A thread's outstanding add, subtract or remote signal takes effect once its earlier writes have completed. -/
  | syncOpRelease (tile : TileId) (op : Nat)
  /-- SMPL (R163): Posts a sample descriptor to the tile's sampler queue. -/
  | smpl (h : Hdr) (o : GraphOps)
  /-- GATH (R163): Posts a gather descriptor with SCATTER at 0 to the tile's gather/scatter queue. -/
  | gath (h : Hdr) (o : GraphOps)
  /-- SCAT (R163): Posts a scatter descriptor with SCATTER at 1 to the tile's gather/scatter queue. -/
  | scat (h : Hdr) (o : GraphOps)
  /-- EMBD (R163): Posts a lookup descriptor to the tile's embedding queue. -/
  | embd (h : Hdr) (o : GraphOps)
  /-- QPOST (R163): Posts a descriptor to any queue context. -/
  | qpost (h : Hdr) (o : GraphOps)
  /-- BANK_ACCESS (R175): A scratch access is served at its bank's port once its master owns the bank and wins the port. -/
  | bankAccess (tile : TileId) (op : Nat) (waitOwn waitPort : Nat)
  /-- BANK_OWN_WRITE (R176): A write to BANK_OWN requests a handover to the named owner, which is pending while the old owner drains. -/
  | bankOwnWrite (tile : TileId) (bank : Fin 4) (value : BitVec 32)
  /-- BANK_HANDOVER_DONE (R176): The old owner's last outstanding access completes and the new owner takes the bank. -/
  | bankHandoverDone (tile : TileId) (bank : Fin 4)
  /-- BANK_LONG_WAIT (R181): A non-owner access has waited 2^20 beats, and LONG_WAIT is set with a bank-wait event. -/
  | bankLongWait (tile : TileId) (bank : Fin 4)
  /-- ZERO_FILL_DONE (R182): The tile's wake zero-fill of scratch, accumulator and vector registers completes and waiting accesses proceed. -/
  | zeroFillDone (tile : TileId)
  /-- ARR_HOLD (R105): A write of ARR_CTRL.HOLD stops or resumes entry of new stream elements and loads. -/
  | arrHold (arr : ArrayId) (w : Writer) (hold : Bool)
  /-- ARR_CNT_CLEAR (R105): Writing ARR_CTRL.CNT_CLEAR clears the four array counters. -/
  | arrCntClear (arr : ArrayId)
  /-- ARR_REMAP_WRITE (R103): A write of ARR_REMAP changes the spare row and column remap, subject to blown fuses and HELD_SW. -/
  | arrRemapWrite (arr : ArrayId) (w : Writer) (value : BitVec 32)
  /-- ARR_FUSE_PROG (R103): A write of ARR_FUSE_PROG starts fuse programming, or is rejected. -/
  | arrFuseProg (arr : ArrayId) (w : Writer) (value : BitVec 32)
  /-- FUSE_PROG_DONE (R103): A fuse programming operation completes within 200 µs and PROG_BUSY clears. -/
  | fuseProgDone (unit : FuseUnit)
  /-- AM_CLEAR_ALL (R132): Writing AM_CTRL.CLEAR_ALL returns every row to CLEAR once earlier accesses complete. -/
  | amClearAll (tile : TileId) (w : Writer)
  /-- AM_CNT_CLEAR (R132): Writing AM_CTRL.CNT_CLEAR clears the three accumulator counters. -/
  | amCntClear (tile : TileId) (w : Writer)
  /-- FMT_CLEAR (R69): Writing FMT_CTRL.CLEAR clears the unit's 360 statistics counters. -/
  | fmtClear (unit : Nat)
  /-- SEQ_REEL (R143): A write of SEQ_CTRL.REEL switches between Reel mode and normal service at the next slot. -/
  | seqReel (tile : TileId) (w : Writer) (on : Bool)
  /-- SEQ_HALT_ISSUE (R145): A write of SEQ_CTRL.HALT_ISSUE stops or resumes all issue on the tile. -/
  | seqHaltIssue (tile : TileId) (w : Writer) (on : Bool)
  /-- SEQ_CNT_CLEAR (R167): Writing SEQ_CTRL.CNT_CLEAR clears the four sequencer counters. -/
  | seqCntClear (tile : TileId) (w : Writer)
  /-- ICINV (R167): Writing SEQ_CTRL.ICINV invalidates the instruction cache. -/
  | icinv (tile : TileId) (w : Writer)
  /-- THR_STATE_WRITE (R170): A write of THR_STATE frees a FAULTED context, or changes its priority or pin flag. -/
  | thrStateWrite (tile : TileId) (ctx : CtxId) (w : Writer) (value : BitVec 32)
  /-- BANK_CNT_CLEAR (R185): Writing BANK_CTRL.CNT_CLEAR clears the ten bank counters. -/
  | bankCntClear (tile : TileId) (w : Writer)
  /-- PRU_CNT_CLEAR (R205): Writing PRU_CTRL.CNT_CLEAR clears the pruning counters. -/
  | pruCntClear (unit : UpdId) (w : Writer)
  /-- SPK_CNT_CLEAR (R205): Writing SPK_CTRL.CNT_CLEAR clears the packer counters. -/
  | spkCntClear (unit : DmaId) (w : Writer)
  /-- QUEUE_APPEND (R482): An append from a tile, firmware or host takes the next sequence of a queue and is written to its slot, or is refused, waits or overflows. -/
  | queueAppend (q : QueueId) (src : AppendSrc) (desc : BitVec 512)
  /-- APPEND_ACCEPTED (R482): An appended descriptor's slot write is accepted and PROD advances. -/
  | appendAccepted (q : QueueId)
  /-- HOST_DOORBELL (R482): An 8-byte host doorbell sets a host-ring queue's PROD, clamped, or is discarded. -/
  | hostDoorbell (q : QueueId) (p : BitVec 32)
  /-- QUEUE_DESCRIPTOR_TAKE (R484): A consumer reads the descriptor at CONS and advances CONS. -/
  | queueDescriptorTake (q : QueueId)
  /-- SAMPLER_START (R213): The sampler starts a descriptor, checks it, reads its seed list and writes the RUNNING header or a failure header. -/
  | samplerStart (cluster : ClusterId)
  /-- SAMPLER_EXPANSION (R218): A parent takes an expansion slot and the sampler begins its dependent adjacency reads. -/
  | samplerExpansion (cluster : ClusterId)
  /-- SAMPLER_READ_RETURN (R219): An adjacency granule returns and the expansion draws and writes its records under its mode. -/
  | samplerReadReturn (cluster : ClusterId) (exp : Nat) (order : List Nat)
  /-- HOP_COMPLETE (R227): Every record of a hop has landed, HOPS_DONE is written and the progress counter gains 1. -/
  | hopComplete (cluster : ClusterId) (desc : Nat)
  /-- SMP_HOLD (R229): A write of SMP_CTRL.HOLD stops or resumes starts of descriptors and expansions. -/
  | smpHold (cluster : ClusterId) (w : Writer) (hold : Bool)
  /-- SMP_CNT_CLEAR (R233): Writing SMP_CTRL.CNT_CLEAR clears the eight sampler counters. -/
  | smpCntClear (cluster : ClusterId) (w : Writer)
  /-- GDINV (R233): Writing SMP_CTRL.GDINV invalidates the graph-descriptor cache. -/
  | gdinv (cluster : ClusterId) (w : Writer)
  /-- GS_DESCRIPTOR_START (R243): The gather/scatter engine starts a descriptor and checks it, failing it or flushing hot entries for a new step. -/
  | gsDescriptorStart (cluster : ClusterId)
  /-- GS_ADMIT (R244): One entry per beat is admitted to the window, merged, added to a hot entry, or handled as void. -/
  | gsAdmit (cluster : ClusterId) (waitOwn waitPort : Nat)
  /-- HOT_COUNT_WINDOW_END (R253): The count window of 2^WINDOW_LOG entries ends and every candidate count returns to 0. -/
  | hotCountWindowEnd (cluster : ClusterId)
  /-- GS_ISSUE (R246): The sweep issues an eligible window entry into a free request slot under bank quota. -/
  | gsIssue (cluster : GsBeat)
  /-- GATHER_READ_RETURN (R250): A gather read returns and the row and scales are written to every referenced scratch row. -/
  | gatherReadReturn (cluster : ClusterId) (entry : Nat) (waitOwn waitPort : Nat)
  /-- MEMORY_ADD (R252): A stack controller applies a scatter or reduce-at-memory add to a granule in its cache. -/
  | memoryAdd (cluster : ClusterId) (entry : Nat) (granule : BitVec 52)
  /-- SCATTER_ADD_APPLIED (R247): The owning stack controller reports an add applied and the request slot frees. -/
  | scatterAddApplied (cluster : ClusterId) (entry : Nat)
  /-- GS_FLUSH_END (R255): A FLUSH descriptor reaches the end of its admission and flushes every hot entry. -/
  | gsFlushEnd (cluster : ClusterId) (desc : Nat)
  /-- GS_PROGRESS (R257): A chunk of entries has landed in admission order and the progress counter gains 1. -/
  | gsProgress (cluster : ClusterId) (desc : Nat)
  /-- GS_DONE (R257): A gather/scatter descriptor completes, writes owner-after and signals DONE, reporting failures. -/
  | gsDone (cluster : ClusterId) (desc : Nat)
  /-- GS_HOLD (R259): A write of GS_CTRL.HOLD stops or resumes starts, admission and issue. -/
  | gsHold (cluster : ClusterId) (w : Writer) (hold : Bool)
  /-- GS_CNT_CLEAR (R262): Writing GS_CTRL.CNT_CLEAR clears the ten engine counters. -/
  | gsCntClear (cluster : ClusterId) (w : Writer)
  /-- HOT_EN_WRITE (R255): A write of GS_CTRL.HOT_EN turns promotion on, or with 0 flushes and clears the hot tables. -/
  | hotEnWrite (cluster : ClusterId) (w : Writer) (on : Bool)
  /-- HOT_FLUSH_WRITE (R255): Writing GS_CTRL.HOT_FLUSH flushes every hot entry, which stays promoted. -/
  | hotFlushWrite (cluster : ClusterId) (w : Writer)
  /-- LOOKUP_START (R278): The posting region's owner logic starts a lookup or gradient descriptor, checks it and sorts bag entries by owner. -/
  | lookupStart (region : RegionId)
  /-- OWNER_POOL (R279): An owner reads its rows of a bag, pools them into a partial with a count and returns it. -/
  | ownerPool (region : RegionId) (job index : Nat) (order : List Nat) (answer : List Half) (positions : List Half) (count : Nat) (failed : Bool) (remote : Option EmbRemote)
  /-- PARTIAL_COMBINE (R279): The posting region combines an arriving partial and writes a finished bag's result through the gather/scatter engine. -/
  | partialCombine (region : RegionId) (job index : Nat) (waitOwn waitPort : Nat)
  /-- GRADIENT_CONTRIBUTION (R282): An owner sums contributions for a row, adds them into its gradient row, and sets the touched bit and list. -/
  | gradientContribution (region : RegionId) (job : Nat) (index : EmbBeat) (order : List Nat) (remote : Option EmbRemote)
  /-- LOOKUP_DONE (R289): A lookup descriptor completes, writes owner-after and signals DONE, reporting failures. -/
  | lookupDone (region : RegionId) (job : Nat)
  /-- EMB_HOLD (R288): A write of EMB_CTRL.HOLD stops or resumes descriptor starts. -/
  | embHold (region : RegionId) (w : Writer) (hold : Bool)
  /-- EMB_CNT_CLEAR (R292): Writing EMB_CTRL.CNT_CLEAR clears the ten embedding counters. -/
  | embCntClear (region : RegionId) (w : Writer)
  /-- STACK_ACCESS (R315): A read, write or add reaches its stack cache, hits or allocates, and is served at the point of coherence. -/
  | stackAccess (addr : BitVec 52) (act : MemAct) (data : List Byte) (len : Nat)
  /-- CACHE_FILL (R318): A line fill from DRAM lands in the stack cache after victim choice and write-back. -/
  | cacheFill (stack : RegionId) (line : Nat)
  /-- PREFETCH_ISSUE (R324): An open stream issues a prefetch fill for a line not present when no demand waits on the bank. -/
  | prefetchIssue (stack : RegionId) (stream : Nat) (withheld : Bool)
  /-- PREFETCH_FILL (R325): A prefetch fill lands, applying any held writes, and the line takes the prefetched mark. -/
  | prefetchFill (stack : RegionId) (line : Nat)
  /-- SLOW_TIER_ACCESS (R311): A slow-tier chiplet controller serves a read or write, through its write buffer. -/
  | slowTierAccess (addr : BitVec 52) (write : Bool) (data : List Byte) (len drained : Nat)
  /-- HOST_WINDOW_ACCESS (R312): A host-window read or write is issued to the host as a memory request. -/
  | hostWindowAccess (addr : BitVec 52) (write : Bool) (data : List Byte)
  /-- HOST_READ_COMPLETION (R312): A host-window read completes, or ends in a completion error or timeout as an uncorrectable error. -/
  | hostReadCompletion (tag : Nat) (how : Fin 3)
  /-- DMA_START (R331): A DMA engine starts a descriptor from its FIFO or bound queue and checks it. -/
  | dmaStart (engine : DmaId)
  /-- DMA_DONE (R332): A DMA descriptor's writes are accepted, owner-after is written and DONE is signalled, reporting failures. -/
  | dmaDone (engine : DmaId) (job : Nat) (hostBad : List (BitVec 52)) (wrote : Nat) (waitOwn waitPort : Nat × Nat)
  /-- DMA_HOLD (R332): A write of DMA_CTRL.HOLD stops or resumes descriptor starts. -/
  | dmaHold (engine : DmaId) (w : Writer) (hold : Bool)
  /-- DMA_CNT_CLEAR (R339): Writing DMA_CTRL.CNT_CLEAR clears the four DMA counters. -/
  | dmaCntClear (engine : DmaId) (w : Writer)
  /-- MEM_MAP_WRITE (R307): A write of MEM_MAP.IL_GIB changes the interleave split, ignored while a job is open. -/
  | memMapWrite (w : Writer) (value : BitVec 32)
  /-- SC_CNT_CLEAR (R336): Writing SC_CTRL.CNT_CLEAR clears the ten stack-controller counters. -/
  | scCntClear (stack : RegionId) (w : Writer)
  /-- PF_EN_WRITE (R336): A write of SC_CTRL.PF_EN enables prefetch, or with 0 stops it and closes open streams. -/
  | pfEnWrite (stack : RegionId) (w : Writer) (en : Bool)
  /-- SC_PIN_WRITE (R322): A write of SC_PIN.EN changes the reflection way at the next step boundary, removing reflections when cleared. -/
  | scPinWrite (stack : RegionId) (w : Writer) (en : Bool)
  /-- UPDATE_CHECK_PASS (R355): An update engine waits on WAIT, checks the descriptor, reads its count and gradients and sets its local flag. -/
  | updateCheckPass (unit : UpdId)
  /-- UPDATE_APPLY_PASS (R357): The apply pass takes each block's first matching case and applies or skips it. -/
  | updateApplyPass (unit : UpdId) (beat : UpdBeat)
  /-- UPDATE_DONE (R360): An update descriptor's writes are accepted and DONE is signalled, reporting failures. -/
  | updateDone (unit : UpdWait)
  /-- UPD_HOLD (R374): A write of UPD_CTRL.HOLD stops or resumes descriptor and pass starts. -/
  | updHold (unit : UpdId) (w : Writer) (hold : Bool)
  /-- UPD_CNT_CLEAR (R374): Writing UPD_CTRL.CNT_CLEAR clears the 13 update counters. -/
  | updCntClear (unit : UpdId) (w : Writer)
  /-- UPD_GT_DATA_WRITE (R375): A write of UPD_GT_DATA writes the pending group-table entry, with clamping. -/
  | updGtDataWrite (unit : UpdId) (w : Writer) (word : Fin 8) (value : Word)
  /-- SYNC_OPERATION (R381): A sync memory applies an add, subtract, wait or read to a counter and releases satisfied waits. -/
  | syncOperation (who : Waiter) (op : Fin 4) (n : BitVec 32) (seq : BitVec 32) (counter : CounterId)
  /-- WAIT_RETRY (R384): An unregistered wait is presented again 1 µs after the wait table was full. -/
  | waitRetry (index : Nat)
  /-- REMOTE_SIGNAL_ARRIVE (R387): A remote signal reaches the hub and is applied or held until its data has landed. -/
  | remoteSignalArrive (module : BitVec 16) (level : Fin 4) (seq : BitVec 32) (counter : CounterId) (bytes : BitVec 32)
  /-- REMOTE_WRITE_LANDED (R386): A remote write's bytes are accepted, its landing tally rises, and a held signal may be applied. -/
  | remoteWriteLanded (module : BitVec 16) (level : Fin 4) (seq : BitVec 32) (addr : BitVec 52) (data : List Byte)
  /-- HELD_SIGNAL_LATE (R388): A held signal exceeds HOLD_LIMIT and is recorded in SYNC_ERR and reported once. -/
  | heldSignalLate (index : Nat)
  /-- SYNC_CLAIM (R389): SYNC_CMD claim sets a counter's owner, zeroes it and makes it LIVE, releasing waiters as ABANDONED. -/
  | syncClaim (m : SyncMemId) (w : Writer) (owner : BitVec 28)
  /-- SYNC_ABANDON (R390): SYNC_CMD abandon makes a counter ABANDONED and releases its waits. -/
  | syncAbandon (m : SyncMemId) (w : Writer)
  /-- SYNC_CLEAR_FLAGS (R396): SYNC_CMD clears a counter's sticky saturation flags. -/
  | syncClearFlags (m : SyncMemId) (w : Writer)
  /-- SYNC_SET_VALUE (R396): SYNC_CMD sets a counter's value and releases the waits it satisfies. -/
  | syncSetValue (m : SyncMemId) (w : Writer) (value : BitVec 32)
  /-- SYNC_SEL_WRITE (R394): A write of SYNC_SEL latches the selected counter's state into SYNC_VIEW. -/
  | syncSelWrite (m : SyncMemId) (value : BitVec 16)
  /-- SYNC_CNT_CLEAR (R394): Writing SYNC_CTRL.CNT_CLEAR clears the five sync counters. -/
  | syncCntClear (m : SyncMemId) (w : Writer)
  /-- BUCKET_POST (R403): The dispatcher takes a post and ignores, accepts or holds it by step. -/
  | bucketPost
  /-- CONTRIBUTION_READY (R404): A post's wait is satisfied and each die forms its quarter of the contribution. -/
  | contributionReady (step : BitVec 32) (bucket : Fin 256)
  /-- RS_PARTIAL_RECEIVE (R406): A reduce-scatter partial arrives, is parked or added to the member's value and forwarded or owned. -/
  | rsPartialReceive (port : PortId) (waited : Nat)
  /-- PARTIAL_UNPARK (R409): A parked partial proceeds once the member's value for it exists. -/
  | partialUnpark (step : BitVec 32) (bucket : Fin 256) (index : Nat)
  /-- AG_CHUNK_RECEIVE (R407): An all-gather chunk arrives, is written to the result buffer and forwarded. -/
  | agChunkReceive (port : PortId) (waited : Nat)
  /-- BUCKET_COMPLETE (R408): All four quarters of a bucket are written, the count is written and REDUCED is signalled. -/
  | bucketComplete (step : BitVec 32) (bucket : Fin 256)
  /-- BUCKET_DEADLINE (R410): The deadline expires with the contribution not ready, and the dispatcher decides Replace or Exclude. -/
  | bucketDeadline (step : BitVec 32) (bucket : Fin 256)
  /-- LATE_CONTRIBUTION (R411): A contribution ready after the decision is discarded or added into the carry-over buffer. -/
  | lateContribution (step : BitVec 32) (bucket : Fin 256)
  /-- BACKUP_COPY_RECEIVE (R412): A backup's contribution quarter lands in the member's backup-copy slot, or is discarded after the decision. -/
  | backupCopyReceive (port : PortId) (waited : Nat)
  /-- BACKUP_RESULT_RECEIVE (R412): A backup receives a result quarter from its member and writes it to its result buffer. -/
  | backupResultReceive (port : PortId) (waited : Nat)
  /-- VERDICT_ROUND_START (R415): Once its local flag is known, the dispatcher sends its OR to its successor at the lowest level. -/
  | verdictRoundStart (step : BitVec 32)
  /-- VERDICT_RECEIVE (R415): A verdict packet arrives, is ORed in and forwarded, or is taken as a final verdict. -/
  | verdictReceive (port : PortId)
  /-- LOCAL_SEAL (R418): All buckets, the verdict and every STEP_LAST descriptor of s are done, FR_SEAL.LOCAL becomes s and the seal round starts. -/
  | localSeal
  /-- SEAL_RECEIVE (R418): A seal packet arrives and is forwarded through the seal round. -/
  | sealReceive (port : PortId)
  /-- RING_BREAK_TIMEOUT (R420): An engine waits BREAK_MS on its predecessor with no packet and declares a ring break. -/
  | ringBreakTimeout (die : DieId) (level : Fin 3)
  /-- BREAK_RECEIVE (R441): A BREAK control packet from a neighbour is received. -/
  | breakReceive (port : PortId)
  /-- FR_HOLD (R425): A write of FR_CTRL.HOLD stops or resumes posts and chunks and pauses timers. -/
  | frHold (w : Writer) (hold : Bool)
  /-- FR_CNT_CLEAR (R425): Writing FR_CTRL.CNT_CLEAR clears the ten dispatcher counters. -/
  | frCntClear (w : Writer)
  /-- RE_CNT_CLEAR (R427): Writing RE_CTRL.CNT_CLEAR clears the seven ring-engine counters. -/
  | reCntClear (die : DieId) (w : Writer)
  /-- LW_PORT_LIGHT_LOSS (R429): A port's engine has no light on either laser input and the port goes OFF. -/
  | lwPortLightLoss (port : PortId)
  /-- LW_SEARCH_LISTEN (R432): Every 100 ms a port in SEARCH listens for its peer's training patterns. -/
  | lwSearchListen (port : PortId) (heard : Bool)
  /-- LW_TRAINING_DONE (R432): Training ends with at least 4 good wavelengths and the port enters ATTESTING, or returns to SEARCH. -/
  | lwTrainingDone (port : PortId) (good : BitVec 9) (nonce : BitVec 256)
  /-- LW_WAVELENGTH_FAIL (R433): A wavelength loses signal or shows too many uncorrectable codewords in 1 ms and is spared, dropped or takes the port down. -/
  | lwWavelengthFail (port : PortId) (w : Fin 9)
  /-- LW_SPARE_SWITCH (R433): Both ends move a failed wavelength onto the spare at one frame boundary. -/
  | lwSpareSwitch (port : PortId)
  /-- LW_PORT_DOWN (R435): A port goes down, discarding unacknowledged flits and setting DOWN_SEEN. -/
  | lwPortDown (port : PortId)
  /-- LW_FRAME_RECEIVE (R435): A frame is received, checked by CRC and sequence, accepted or NAKed, and its ACK and credit are taken. -/
  | lwFrameReceive (port : PortId) (flit : List Byte) (trailer : BitVec 128) (corrected lost : Nat)
  /-- LW_REPLAY (R435): On a NAK the sender replays from ACK + 1 in the original order. -/
  | lwReplay (port : PortId)
  /-- LW_RETRY_TIMEOUT (R435): Data is outstanding for 100 µs without ACK progress, or a flit is replayed 16 times, and the port goes down. -/
  | lwRetryTimeout (port : PortId)
  /-- LW_FRAME_SEND (R434): Each flit time the port sends a data, idle or timing frame when it holds credit. -/
  | lwFrameSend (port : PortId) (turn : Fin 5) (credit : Fin 10)
  /-- LW_PACKET_RECEIVE (R447): A whole packet is received and delivered locally, forwarded toward its destination or dropped. -/
  | lwPacketReceive (port : PortId) (cls : Fin 5)
  /-- LW_READ_REQUEST (R439): A read request packet at its target reads memory and sends a read response. -/
  | lwReadRequest (port : PortId)
  /-- LW_READ_RESPONSE (R439): A read response packet returns data and status to the requesting control complex. -/
  | lwReadResponse (port : PortId)
  /-- REMOTE_WRITE_DESCRIPTOR (R448): A Lightway transmit engine takes a remote-write descriptor, checks it and sends write packets. -/
  | remoteWriteDescriptor (die : DieId) (waitOwn waitPort : Nat)
  /-- REMOTE_WRITE_DONE (R449): Every packet of a remote-write descriptor is accepted by its port and DONE is signalled. -/
  | remoteWriteDone (die : DieId) (seq : BitVec 32)
  /-- IDENT_RECEIVE (R453): An IDENT challenge is answered with a report, or a response is verified and the port goes UP or is quarantined. -/
  | identReceive (port : IdentStep)
  /-- ATTEST_RETRY (R453): A port quarantined for attestation sends another report every 10 s. -/
  | attestRetry (port : PortId) (nonce : BitVec 256)
  /-- MAP_ID_RECEIVE (R454): A MAP_ID packet is compared with the port entry and the port takes its role or is quarantined. -/
  | mapIdReceive (port : PortId)
  /-- MAP_CHECK_END (R454): The map check ends when every mapped port has matched or 10 s after map load, and the result is reported. -/
  | mapCheckEnd
  /-- TOKEN_SEND (R455): Position 0, ready at a level, sends a check-pass token, or a validate token when the first returns. -/
  | tokenSend (level : Fin 3)
  /-- TOKEN_RECEIVE (R455): A member takes a token, holds it until ready, checks and forwards it, or sets its level descriptor valid. -/
  | tokenReceive (port : PortId)
  /-- TOKEN_RETRY (R455): A check pass has not returned within 1 s and position 0 sends a new attempt. -/
  | tokenRetry (level : Fin 3)
  /-- RING_FORM_TIMEOUT (R455): A ring has not formed 10 s after its members were ready and RING_ERR is set and reported. -/
  | ringFormTimeout (level : Fin 3)
  /-- TIMING_FRAME_SEND (R451): Every 1 ms each end of an upstream link sends a timing frame with its stamps. -/
  | timingFrameSend (port : PortId) (frac : Fin 16)
  /-- TIMING_FRAME_RECEIVE (R451): A timing frame is received and the downstream module computes its offset and steps or slews its counter. -/
  | timingFrameReceive (port : PortId) (t1 t3 t4 : BitVec 64) (flags hops : BitVec 8) (frac : Fin 16)
  /-- LW_EN_WRITE (R459): A write of LW_CTRL.EN turns a port OFF or lets it search. -/
  | lwEnWrite (port : PortId) (w : Writer) (on : Bool)
  /-- LW_RETRAIN (R432): Writing LW_CTRL.RETRAIN takes an up port down and back to SEARCH. -/
  | lwRetrain (port : PortId) (w : Writer)
  /-- LW_CNT_CLEAR (R459): Writing LW_CTRL.CNT_CLEAR clears the port's nine counters. -/
  | lwCntClear (port : PortId) (w : Writer)
  /-- MAILBOX_GO (R466): The host writes GO, the mailbox becomes BUSY and firmware takes the command in acceptance order. -/
  | mailboxGo (mailbox : MailboxId) (irq : Bool)
  /-- MAILBOX_RESPONSE (R466): Firmware writes the response and MB_RSP, sets DONE and raises the mailbox vector. -/
  | mailboxResponse (mailbox : MailboxId) (status : BitVec 16) (payload : List Byte)
  /-- PING (R470): Returns the firmware version and job state. -/
  | ping (mailbox : MailboxId)
  /-- EVENT_RING_SET (R484): Names the host event ring's address and size. -/
  | eventRingSet (mailbox : MailboxId)
  /-- MAP_LOAD (R446): Checks and loads a topology map, restarting map checks and ring formation. -/
  | mapLoad (mailbox : MailboxId)
  /-- JOB_OPEN (R472): Checks and opens a job, binding queues, claiming counters and setting seeds, rings and buckets. -/
  | jobOpen (mailbox : MailboxId)
  /-- JOB_SUSPEND (R473): Holds every engine and halts tile issue, answering once all are held. -/
  | jobSuspend (mailbox : MailboxId)
  /-- JOB_RESUME (R473): Clears the holds that suspension set. -/
  | jobResume (mailbox : MailboxId)
  /-- JOB_CLOSE (R474): Aborts descriptors, applies every job-close effect, empties and unbinds queues and closes the job. -/
  | jobClose (mailbox : MailboxId)
  /-- RESEED (R475): Names a new seed to take effect at a given step, or refuses it. -/
  | reseed (mailbox : MailboxId)
  /-- RING_REFORM (R421): Installs a new ring order, restarting rounds and rerunning exchanges of steps without a verdict. -/
  | ringReform (mailbox : MailboxId) (order : Reform)
  /-- QUEUE_BIND (R483): Binds a queue context's ring, mode and consumer, or refuses. -/
  | queueBind (mailbox : MailboxId)
  /-- COUNTER_OP (R477): Applies a list of counter operations as the host agent and returns completion words. -/
  | counterOp (mailbox : MailboxId)
  /-- COUNTER_WAIT (R478): Registers a host wait on a counter with a vector and cookie. -/
  | counterWait (mailbox : MailboxId)
  /-- RANGE_SET (R479): Writes address-range descriptors of a region. -/
  | rangeSet (mailbox : MailboxId)
  /-- GROUP_WRITE (R479): Writes entries of an engine's pending parameter-group table. -/
  | groupWrite (mailbox : MailboxId)
  /-- REFLECT_ADD (R479): Requests reflections of owned rows, applied at the next local seal. -/
  | reflectAdd (mailbox : MailboxId)
  /-- REFLECT_REMOVE (R479): Requests removal of reflections, applied at the next local seal. -/
  | reflectRemove (mailbox : MailboxId)
  /-- REG_READ (R480): Reads a list of registers with the control complex's authority. -/
  | regRead (mailbox : MailboxId)
  /-- REG_WRITE (R480): Writes a list of registers with the control complex's authority, denying protected ones. -/
  | regWrite (mailbox : MailboxId)
  /-- EVENT_CONSUMED_WRITE (R487): The host writes its consumed count, clamped, freeing ring space and flushing kept events with an OVERFLOW record. -/
  | eventConsumedWrite (count : BitVec 32)
  /-- Q_SEL_WRITE (R488): A write of Q_SEL latches a queue context into Q_VIEW. -/
  | qSelWrite (die : DieId) (w : Writer) (value : BitVec 16)
  /-- Q_VIEW_WRITE (R488): A write of Q_VIEW word 0 or 1 changes the selected queue's binding fields without refusals. -/
  | qViewWrite (die : DieId) (w : Writer) (word : Fin 6) (value : BitVec 64)
  /-- TS_CREATE (R496): Makes a FREE scheduler thread READY with a priority and home core. -/
  | tsCreate (core : CoreId) (thread : SchedThr) (prio : Fin 32) (home : CoreId)
  /-- TS_EXIT (R496): Frees a thread and withdraws its sync wait. -/
  | tsExit (core : CoreId) (thread : SchedThr)
  /-- TS_DELAY (R496): Puts a thread in the delay list until a device time. -/
  | tsDelay (core : CoreId) (thread : SchedThr) (arg : BitVec 64)
  /-- TS_BLOCK (R496): Blocks a thread on a sync counter or a wake, with an optional timeout. -/
  | tsBlock (core : CoreId) (thread : SchedThr) (arg : BitVec 64) (timeout : BitVec 11)
  /-- TS_WAKE (R496): Makes a BLOCKED or DELAYED thread READY with result WOKEN. -/
  | tsWake (core : CoreId) (thread : SchedThr)
  /-- TS_SUSPEND (R496): Holds a thread SUSPENDED, keeping its wake time and wait. -/
  | tsSuspend (core : CoreId) (thread : SchedThr)
  /-- TS_RESUME (R496): Returns a suspended thread to the state it left. -/
  | tsResume (core : CoreId) (thread : SchedThr)
  /-- TS_SET (R496): Sets a thread's priority and home core for its next ready-list entry. -/
  | tsSet (core : CoreId) (thread : SchedThr) (prio : Fin 32) (home : CoreId)
  /-- TS_YIELD (R496): Moves the running thread to the tail of its priority. -/
  | tsYield (core : CoreId) (thread : SchedThr)
  /-- SCHED_TICK (R495): At each tick expired wake times make threads READY or TIMED_OUT, and time slicing rotates threads. -/
  | schedTick
  /-- THREAD_SWITCH (R494): A core switches to a higher-priority ready thread at its next instruction boundary outside a handler. -/
  | threadSwitch (core : CoreId)
  /-- SCHED_SYNC_RELEASE (R497): A blocked thread's sync wait is released and it becomes READY with result SYNC. -/
  | schedSyncRelease (thread : SchedThr)
  /-- CORE_HUNG (R490): A logical core makes no switch or idle entry for 100 ms and is retired and remapped to the spare. -/
  | coreHung (core : CoreId) (mailboxes : List MailboxId)
  /-- EXTENSION_FAULT (R492): An extension's illegal access, exception or 10 ms run unloads it and reports event 0x0014. -/
  | extensionFault (cause : Fin 3)
  /-- TS_TICK_WRITE (R495): A write of TS_CTRL.TICK_US changes the tick from the next tick. -/
  | tsTickWrite (w : Writer) (us : BitVec 10)
  /-- IRQ_ASSERT (R499): An interrupt source asserts, setting or coalescing PENDING and counting toward its storm window. -/
  | irqAssert (source : SourceId) (high : Bool)
  /-- IC_CLAIM (R500): A core's claim read returns the winning source, pushes its priority and sets ACTIVE. -/
  | icClaim (core : CoreId)
  /-- IC_EOI (R500): An EOI write pops the named source, or handles a priority-stack fault. -/
  | icEoi (core : CoreId) (source : SourceId)
  /-- STORM_WINDOW_END (R502): A storm window ends and assertion counts restart. -/
  | stormWindowEnd
  /-- IRQ_STUCK (R502): A level source stays asserted past STUCK_US and is masked with STUCK and event 0x0011. -/
  | irqStuck (source : SourceId)
  /-- IC_SRC_UNMASK (R502): Writing 1 to STORM or STUCK clears it and unmasks the source when both are clear. -/
  | icSrcUnmask (w : Writer) (source : SourceId) (storm stuck : Bool)
  /-- IC_SWSET (R498): A write of IC_SWSET asserts a software source. -/
  | icSwset (core : CoreId) (source : SourceId)
  /-- IC_CNT_CLEAR (R507): Writing IC_CTRL.CNT_CLEAR clears the five interrupt counters. -/
  | icCntClear (w : Writer)
  /-- PILOT_LIGHT_WAKE (R504): A covered assertion or fixed cause brings the control complex from HOLD to ON within 300 µs. -/
  | pilotLightWake (entry : Option (Fin 32))
  /-- PERST_ASSERT (R511): PERST# asserts, or sideband light is lost for 1 ms, and a warm reset starts. -/
  | perstAssert
  /-- PERST_DEASSERT (R512): PERST# deasserts and configuration space readiness begins. -/
  | perstDeassert
  /-- FUNCTION_LEVEL_RESET (R512): A function-level reset on the host link applies its effects within 100 ms. -/
  | functionLevelReset
  /-- HOST_LINK_TRAINED (R509): The host link completes training or retraining, reporting event 0x0015 when degraded or restored. -/
  | hostLinkTrained (rate : Fin 4) (lanes : Fin 4)
  /-- D3HOT_ENTRY (R510): The function enters D3hot and stops BAR decoding, affecting no island. -/
  | d3hotEntry (pmeEn : Bool)
  /-- WAKE_PME (R511): In D3hot with PME_En a covered wake asserts WAKE# and sends a PME message. -/
  | wakePme (entry : Fin 32)
  /-- BAR0_ACCESS (R514): A host access to BAR0 reaches a mailbox, doorbell, MSI-X, meter window or snapshot, or reads zero. -/
  | bar0Access (off : BitVec 28) (write : Bool) (len : BitVec 7) (data : List Byte)
  /-- BAR2_ACCESS (R515): A host access through BAR2 reaches device memory, or is aborted or discarded. -/
  | bar2Access (off : BitVec 36) (write poisoned : Bool) (len : BitVec 13) (data : List Byte)
  /-- HL_BAR2_WRITE (R520): A write of HL_BAR2 moves the aperture base, clamped to the BAR2 size. -/
  | hlBar2Write (w : Writer) (value : BitVec 64)
  /-- BAR2_RESIZE (R518): A Resizable BAR control write changes the BAR2 size and clamps its base. -/
  | bar2Resize (log : Fin 7)
  /-- MSIX_UNMASK (R516): Unmasking a vector sends its pending message. -/
  | msixUnmask (vector : Fin 2048)
  /-- PTM_REQUEST (R517): Every 10 ms the function issues a PTM request. -/
  | ptmRequest
  /-- PTM_RESULT (R517): A PTM result steps, slews or only records the device time counter. -/
  | ptmResult (offset : BitVec 72)
  /-- HL_CNT_CLEAR (R520): Writing HL_CTRL.CNT_CLEAR clears the four host-link counters. -/
  | hlCntClear (w : Writer)
  /-- ISLAND_SET (R524): Commands islands and clocked domains to ON, HOLD or OFF, refusing dependency violations. -/
  | islandSet (mailbox : MailboxId)
  /-- ISLAND_STATE_CHANGE (R523): An island completes its change of state in the order and bound given. -/
  | islandStateChange (island : Fin 714)
  /-- DEVICE_STATE (R525): Sets RUN, STANDBY or PARK with the island states each implies. -/
  | deviceState (mailbox : MailboxId)
  /-- OPP_WRITE (R526): Writes operating-point table entries, clamping fields and ramping islands that use them. -/
  | oppWrite (mailbox : MailboxId)
  /-- PHASE_MAP (R527): Writes the phase map, changing the operating points of islands it alters. -/
  | phaseMap (mailbox : MailboxId)
  /-- POWER_LIMIT (R533): Sets the module power limit, clamped to 1,800–4,400 W. -/
  | powerLimit (mailbox : MailboxId)
  /-- POWER_READ (R541): Returns the images of PM_STATUS, PM_EST and PM_TRIP. -/
  | powerRead (mailbox : MailboxId)
  /-- DROOP_DETECT (R528): An island's supply falls below its threshold and array issue is held for 50 ns. -/
  | droopDetect (island : Fin 689)
  /-- DROOP_HOLD_END (R528): The 50 ns droop hold expires and array issue and any deferred ramp step resume. -/
  | droopHoldEnd (island : Fin 689)
  /-- RAMP_STEP (R529): A 10 mV voltage step of a ramp starts or completes, moving the droop threshold. -/
  | rampStep (island : Fin 689)
  /-- POWER_ESTIMATE (R530): Every 2 µs each island forms its power estimate and its counters restart. -/
  | powerEstimate (island : Fin 689) (counts : List Nat)
  /-- MODULE_SHARE_UPDATE (R533): Every 2 µs the power manager updates the module share T from P and A. -/
  | moduleShareUpdate
  /-- ISLAND_CAP_UPDATE (R534): Every 2 µs an island with a cap steps its own share against its 100 µs mean. -/
  | islandCapUpdate (island : Fin 689)
  /-- GAIN_TRIM (R531): Every 1 ms the power manager moves g toward telemetry, clamping it. -/
  | gainTrim (core other : BitVec 16)
  /-- THERMAL_READ (R535): Every 10 µs each island reads its junction sensor. -/
  | thermalRead (island : Fin 689) (temp : BitVec 10)
  /-- THERMAL_SHARE_STEP (R535): Every 100 µs the thermal share falls above 105 °C or rises below 103 °C. -/
  | thermalShareStep (island : Fin 689)
  /-- AGEING_MEASURE (R537): Every 100 ms an island measures its replica path and warns when slowing exceeds the threshold. -/
  | ageingMeasure (island : Fin 689) (ppm : BitVec 20)
  /-- INTERLOCK_TRIP (R538): Interlock light stays below trip level for 20 µs and every regulator enable drops. -/
  | interlockTrip
  /-- INTERLOCK_WARNING (R538): Interlock light falls within 6 dB of the trip level and source 3,207 asserts. -/
  | interlockWarning
  /-- THERMAL_TRIP (R539): A junction reading reaches 115 °C and the pilot light drops every regulator enable. -/
  | thermalTrip (temp : BitVec 10)
  /-- TRIP_RESTART (R540): After a trip, a cold start begins once interlock light is present and sensors read 85 °C or less. -/
  | tripRestart (light : Bool) (hottest : BitVec 10)
  /-- REGULATOR_PHASE_SPARE (R571): A regulator replaces a faulty phase with a spare within 10 µs. -/
  | regulatorPhaseSpare (rail : Nat)
  /-- RAIL_SHUTDOWN (R572): A rail that has lost three phases shuts, its islands go OFF and their counters are abandoned. -/
  | railShutdown (rail : Nat) (feeds : List (Fin 689))
  /-- PM_CNT_CLEAR (R543): Writing PM_CTRL.CNT_CLEAR clears the power-manager and island counters. -/
  | pmCntClear (w : Writer)
  /-- METER_TAG (R546): Sets a new interval tag, closing the open interval and forming its record. -/
  | meterTag (mailbox : MailboxId) (reading : MeterReading)
  /-- METER_READ (R551): Returns a stored signed meter record. -/
  | meterRead (mailbox : MailboxId)
  /-- METER_ACK (R548): Acknowledges meter records up to a number, freeing their storage. -/
  | meterAck (mailbox : MailboxId)
  /-- METER_IDENT (R551): Returns the meter's public key or its certificate. -/
  | meterIdent (mailbox : MailboxId)
  /-- METER_AUDIT (R549): Returns entries of the meter's audit log. -/
  | meterAudit (mailbox : MailboxId)
  /-- APPORTION_READ (R553): Returns each island's scaled estimated energy over a record's interval. -/
  | apportionRead (mailbox : MailboxId)
  /-- METER_MAX_LENGTH (R546): An interval reaches its maximum length and closes with MAXLEN under the same tag. -/
  | meterMaxLength (reading : MeterReading)
  /-- METER_OUTAGE (R546): Loss and return of 48 V input closes the interval and flags the next record OUTAGE. -/
  | meterOutage (back beyond : Bool) (reading : MeterReading)
  /-- METER_SERVICE_COMMAND (R545): A parameter change signed by Affemar's service key closes an interval with PARAM and is audited. -/
  | meterServiceCommand (cmd : MeterService) (signature : List Byte) (reading : MeterReading)
  /-- METER_SELF_CHECK (R550): At power-on and every 10 s the meter checks itself and enters FAULT on failure. -/
  | meterSelfCheck (cause : Fin 5) (reading : MeterReading)
  /-- ATTEST (R563): Returns a signed attestation report over a nonce. -/
  | attest (mailbox : MailboxId)
  /-- IDENT_READ (R566): Returns the device public key or its certificate. -/
  | identRead (mailbox : MailboxId)
  /-- FW_LOAD (R559): Verifies an image and writes it to the inactive firmware slot or loads an extension. -/
  | fwLoad (mailbox : MailboxId)
  /-- FW_COMMIT (R560): Blows rollback fuses up to the running image's rollback level. -/
  | fwCommit (mailbox : MailboxId)
  /-- KEY_ENROL (R565): Checks a signed request and enrols a customer key. -/
  | keyEnrol (mailbox : MailboxId)
  /-- KEY_REMOVE (R565): Checks a signed request and removes a customer key, unloading its extension. -/
  | keyRemove (mailbox : MailboxId)
  /-- EXT_UNLOAD (R566): Unloads the customer extension. -/
  | extUnload (mailbox : MailboxId)
  /-- RESET (R567): Starts a warm, function-level, job or unit reset at the level given. -/
  | reset (mailbox : MailboxId)
  /-- BOOT_QUERY (R566): Returns the BOOT_STATUS image. -/
  | bootQuery (mailbox : MailboxId)
  /-- WARM_RESET (R568): A warm reset writes back caches, clears its items and restarts firmware from stage 3. -/
  | warmReset
  /-- JOB_RESET (R568): A job reset applies job close within 200 ms, optionally clearing tiers. -/
  | jobReset
  /-- UNIT_RESET (R568): A unit reset clears a tile, cluster, region or die and abandons its counters. -/
  | unitReset
  /-- CORRECTED_ERROR (R573): A corrected error is counted per location, and a location reaching its threshold becomes due for a spare. -/
  | correctedError (loc : ErrLoc) (n : Nat)
  /-- ERROR_COUNT_EXPIRY (R573): Corrected-error counts older than 24 h are discarded. -/
  | errorCountExpiry
  /-- UNCORRECTABLE_ERROR (R578): A read delivers zeros, an error record is written or merged and event 0x000E is reported. -/
  | uncorrectableError (unit : BitVec 28) (store : Fin 13) (addr : BitVec 52) (access : Fin 6) (agent seq step : BitVec 32) (dirty : Bool)
  /-- TILE_DUE (R574): A tile due for a spare during a job has its contexts freed and stops taking launches. -/
  | tileDue (check : TileCheck)
  /-- LANE_REPAIR (R575): A stack bond lane moves onto its spare at one burst boundary. -/
  | laneRepair (stack : RegionId) (group : BitVec 10)
  /-- DRAM_ROW_REPAIR (R575): A DRAM row's granules are copied to a spare row and its address remapped. -/
  | dramRowRepair (stack : RegionId) (bank row : BitVec 32)
  /-- CACHE_WAY_DISABLE (R575): A stack cache way stops filling, is written back and invalidated, or the region fails. -/
  | cacheWayDisable (stack : RegionId) (way : Fin 16)
  /-- SYNC_ROW_REMAP (R576): An uncorrectable sync-memory row is remapped to a spare and its counters are abandoned. -/
  | syncRowRemap (counter : CounterId)
  /-- PATROL_SCRUB (R578): A stack controller scrubs its DRAM and cache die in idle cycles every SCRUB_H hours. -/
  | patrolScrub (stack : RegionId) (corrected : List ErrLoc)
  /-- CL_SPARE_WRITE (R577): A write of CL_SPARE remaps the cluster's spare tile, or is rejected while a job is open. -/
  | clSpareWrite (cluster : ClusterId) (w : Writer) (value : BitVec 32)
  /-- CL_SPARE_PROG (R577): A write of CL_SPARE_PROG starts spare-tile fuse programming, or is rejected. -/
  | clSpareProg (cluster : ClusterId) (w : Writer) (value : BitVec 32)
  /-- ERR_CNT_CLEAR (R581): Writing ERR_CTRL.CNT_CLEAR clears the three error counters. -/
  | errCntClear (w : Writer)
  /-- CAPTURE (R590): Starts a shadow capture of a scope, answering with the header at READY. -/
  | capture (mailbox : MailboxId)
  /-- CAPTURE_INJECTION (R590): An injection or same-sequence marker reaches an engine, which copies its counters and forwards the marker. -/
  | captureInjection (arrival : CapArrival)
  /-- CAPTURE_READY (R595): The hub swaps the gathered buffer into the snapshot area in one handshake. -/
  | captureReady
  /-- BANK_MODE (R584): Sets the mode of a range of counter banks, clearing them. -/
  | bankMode (mailbox : MailboxId)
  /-- BANK_CLEAR (R596): Clears a range of counter banks. -/
  | bankClear (mailbox : MailboxId)
  /-- CB_MODE_WRITE (R584): A write of CB_CTRL.MODE changes a bank's mode and clears its counters. -/
  | cbModeWrite (bank : BankIdx) (w : Writer) (mode : Bool)
  /-- CB_CNT_CLEAR (R597): Writing CB_CTRL.CNT_CLEAR clears a bank's 16 counters. -/
  | cbCntClear (bank : BankIdx) (w : Writer)
  /-- MGMT_FRAME (R604): A management frame arrives and is answered by the pilot light or the meter, in arrival order. -/
  | mgmtFrame (frame : List Byte) (reading : MeterReading)
  /-- TRAY_RESTART (R540): Restarts the module after a trip, honoured only while the rails are off. -/
  | trayRestart
  /-- REGISTER_WRITE (R9): A write to a register without a row of its own stores fields per their access codes, with clamping. -/
  | registerWrite (w : Writer) (addr : BitVec 52) (wide : Bool) (value : BitVec 64)
  /-- LASER_LIGHT_RETURN (R429): Light returns on at least one laser input of an optical engine whose port was OFF for lack of light, and the port leaves OFF to search and train. -/
  | laserLightReturn (port : PortId)
  /-- D0_RETURN (R511): The function returns from D3hot to D0, BAR decoding resumes and WAKE# is released. -/
  | d0Return
  /-- INTERLOCK_LIGHT_RESTORED (R538): Interlock light rises back above 6 dB over the trip level and hub source 3,207 deasserts. -/
  | interlockLightRestored
  /-- VECTOR_RESULT (R157): A vector-unit instruction's result lands in its destination after its latency, clearing the pending write and its outstanding count. -/
  | vectorResult (tile : TileId) (op : Nat) (waited : Nat)
  /-- HOST_LINK_DOWN (R520): The host link goes down without PERST#, for example on loss of host-port laser light, and HL_STATUS.SPEED reads 0. -/
  | hostLinkDown
  deriving DecidableEq, Repr

end Sys2Proof
end

