-- ==== Sys2Proof/WellFormed.lean ====
section
/-! DEFINITION. Well-formed commands: the limits between a command's operands that their types do not carry. -/

namespace Sys2Proof

/-- A transfer of a master: a write carries 1 to `most` bytes and no length, a read a length of 1 to `most` and no data. -/
def transferOk (write : Bool) (data : List Byte) (len most : Nat) : Bool :=
  if write then 1 ≤ data.length && data.length ≤ most else data.isEmpty && 1 ≤ len && len ≤ most

/-- A command a sender may put in the queue: a converting unit that exists (R58); transfers no larger than a cache line (R317), the widest
BAR0 access (R514), or 4,096 bytes;
flits of 256 bytes (R434); response payloads that a mailbox holds (R464); frames that Ethernet carries (R604). Every
meaning is total: one that is not well-formed still has an outcome. -/
def Instr.wf : Instr → Bool
  | .fmtClear unit => unit < 10770
  | .stackAccess _ act data len => transferOk (act != .read) data len 128
  | .slowTierAccess _ write data len _ => transferOk write data len 4096
  | .hostWindowAccess _ write data => !write || decide (1 ≤ data.length ∧ data.length ≤ 4096)
  | .bar0Access _ write len data => transferOk write data len.toNat 64
  | .bar2Access _ write _ len data => transferOk write data len.toNat 4096
  | .remoteWriteLanded _ _ _ _ data => decide (1 ≤ data.length)
  | .lwFrameReceive _ flit _ _ _ => flit.length == 256
  | .mailboxResponse _ _ payload => payload.length ≤ 4032
  | .mgmtFrame frame _ => 8 ≤ frame.length && frame.length ≤ 1500
  | _ => true

end Sys2Proof
end

