-- ==== Sys2Proof/Decode.lean ====
section
/-! DEFINITION. Decoding. No row of the opcode table has bits, so `decodeTableWord` reads none (log entry 10). The block does hold
one decoder of its own, the tile sequencer's 64-bit instruction word (R149 to R163): its decoder, its encoder and its decode
checks (R150) stand here. -/

namespace Sys2Proof

/-- The command a table word spells: the table gives no row bits. -/
def decodeTableWord (_nbits _w : Nat) : Option Instr := none

/-- The word of a class, guard, opcode and operand bits (R149). -/
def tileWord (cls : Nat) (h : Hdr) (opc operands : Nat) : Nat :=
  cls * 2 ^ 61 + (if h.neg then 2 ^ 60 else 0) + h.pred.toNat * 2 ^ 57 + opc * 2 ^ 50 + operands

/-- The class of a word (R149). -/
def wordClass (w : Nat) : Nat := bitsOf w 61 3
/-- The opcode of a word (R149). -/
def wordOpcode (w : Nat) : Nat := bitsOf w 50 7
/-- The header of a word that issues in a context (R149). -/
def wordHdr (t : TileId) (c : CtxId) (w : Nat) : Hdr := ⟨t, c, bitsOf w 60 1 == 1, BitVec.ofNat 3 (bitsOf w 57 3)⟩

/-- The operand bits of CtlOps. -/
def CtlOps.bits (o : CtlOps) : Nat :=
  o.rd.toNat * 2 ^ 45 + o.rs1.toNat * 2 ^ 40 + o.rs2.toNat * 2 ^ 35 + o.pd.toNat * 2 ^ 32 + o.imm.toNat
/-- CtlOps read from a word. -/
def CtlOps.ofWord (w : Nat) : CtlOps :=
  ⟨BitVec.ofNat 5 (bitsOf w 45 5), BitVec.ofNat 5 (bitsOf w 40 5), BitVec.ofNat 5 (bitsOf w 35 5), BitVec.ofNat 3 (bitsOf w 32 3), BitVec.ofNat 32 (bitsOf w 0 32)⟩

/-- The operand bits of WloadOps. -/
def WloadOps.bits (o : WloadOps) : Nat :=
  o.fmt.toNat * 2 ^ 46 + o.piece.toNat * 2 ^ 44 + o.plane.toNat * 2 ^ 43 + o.mask.toNat * 2 ^ 39 + o.sparsity.toNat * 2 ^ 37 + o.rs1.toNat * 2 ^ 32 + o.rs2.toNat * 2 ^ 27 + o.rsv.toNat
/-- WloadOps read from a word. -/
def WloadOps.ofWord (w : Nat) : WloadOps :=
  ⟨BitVec.ofNat 4 (bitsOf w 46 4), BitVec.ofNat 2 (bitsOf w 44 2), BitVec.ofNat 1 (bitsOf w 43 1), BitVec.ofNat 4 (bitsOf w 39 4), BitVec.ofNat 2 (bitsOf w 37 2), BitVec.ofNat 5 (bitsOf w 32 5), BitVec.ofNat 5 (bitsOf w 27 5), BitVec.ofNat 27 (bitsOf w 0 27)⟩

/-- The operand bits of MmaOps. -/
def MmaOps.bits (o : MmaOps) : Nat :=
  o.fmt.toNat * 2 ^ 46 + o.plane.toNat * 2 ^ 45 + o.mask.toNat * 2 ^ 41 + o.mode.toNat * 2 ^ 39 + o.grouping.toNat * 2 ^ 37 + o.pass.toNat * 2 ^ 36 + o.mirror.toNat * 2 ^ 35 + o.join.toNat * 2 ^ 34 + o.rnd.toNat * 2 ^ 33 + o.rsv0.toNat * 2 ^ 32 + o.index.toNat * 2 ^ 22 + o.mMinus1.toNat * 2 ^ 17 + o.rs1.toNat * 2 ^ 12 + o.rs2.toNat * 2 ^ 7 + o.rsv1.toNat
/-- MmaOps read from a word. -/
def MmaOps.ofWord (w : Nat) : MmaOps :=
  ⟨BitVec.ofNat 4 (bitsOf w 46 4), BitVec.ofNat 1 (bitsOf w 45 1), BitVec.ofNat 4 (bitsOf w 41 4), BitVec.ofNat 2 (bitsOf w 39 2), BitVec.ofNat 2 (bitsOf w 37 2), BitVec.ofNat 1 (bitsOf w 36 1), BitVec.ofNat 1 (bitsOf w 35 1), BitVec.ofNat 1 (bitsOf w 34 1), BitVec.ofNat 1 (bitsOf w 33 1), BitVec.ofNat 1 (bitsOf w 32 1), BitVec.ofNat 10 (bitsOf w 22 10), BitVec.ofNat 5 (bitsOf w 17 5), BitVec.ofNat 5 (bitsOf w 12 5), BitVec.ofNat 5 (bitsOf w 7 5), BitVec.ofNat 7 (bitsOf w 0 7)⟩

/-- The operand bits of ReadoutOps. -/
def ReadoutOps.bits (o : ReadoutOps) : Nat :=
  o.mode.toNat * 2 ^ 47 + o.index.toNat * 2 ^ 37 + o.countMinus1.toNat * 2 ^ 32 + o.mask.toNat * 2 ^ 28 + o.target.toNat * 2 ^ 24 + o.rnd.toNat * 2 ^ 23 + o.cls.toNat * 2 ^ 20 + o.clear.toNat * 2 ^ 19 + o.dest.toNat * 2 ^ 18 + o.rs1.toNat * 2 ^ 13 + o.rs2.toNat * 2 ^ 8 + o.rd.toNat * 2 ^ 3 + o.rsv.toNat
/-- ReadoutOps read from a word. -/
def ReadoutOps.ofWord (w : Nat) : ReadoutOps :=
  ⟨BitVec.ofNat 3 (bitsOf w 47 3), BitVec.ofNat 10 (bitsOf w 37 10), BitVec.ofNat 5 (bitsOf w 32 5), BitVec.ofNat 4 (bitsOf w 28 4), BitVec.ofNat 4 (bitsOf w 24 4), BitVec.ofNat 1 (bitsOf w 23 1), BitVec.ofNat 3 (bitsOf w 20 3), BitVec.ofNat 1 (bitsOf w 19 1), BitVec.ofNat 1 (bitsOf w 18 1), BitVec.ofNat 5 (bitsOf w 13 5), BitVec.ofNat 5 (bitsOf w 8 5), BitVec.ofNat 5 (bitsOf w 3 5), BitVec.ofNat 3 (bitsOf w 0 3)⟩

/-- The operand bits of VecOps. -/
def VecOps.bits (o : VecOps) : Nat :=
  o.vd.toNat * 2 ^ 46 + o.va.toNat * 2 ^ 42 + o.vb.toNat * 2 ^ 38 + o.vc.toNat * 2 ^ 34 + o.rs1.toNat * 2 ^ 29 + o.rs2.toNat * 2 ^ 24 + o.rnd.toNat * 2 ^ 23 + o.cls.toNat * 2 ^ 20 + o.fmt.toNat * 2 ^ 16 + o.imm.toNat
/-- VecOps read from a word. -/
def VecOps.ofWord (w : Nat) : VecOps :=
  ⟨BitVec.ofNat 4 (bitsOf w 46 4), BitVec.ofNat 4 (bitsOf w 42 4), BitVec.ofNat 4 (bitsOf w 38 4), BitVec.ofNat 4 (bitsOf w 34 4), BitVec.ofNat 5 (bitsOf w 29 5), BitVec.ofNat 5 (bitsOf w 24 5), BitVec.ofNat 1 (bitsOf w 23 1), BitVec.ofNat 3 (bitsOf w 20 3), BitVec.ofNat 4 (bitsOf w 16 4), BitVec.ofNat 16 (bitsOf w 0 16)⟩

/-- The operand bits of MemOps. -/
def MemOps.bits (o : MemOps) : Nat :=
  o.rd.toNat * 2 ^ 45 + o.rs1.toNat * 2 ^ 40 + o.vd.toNat * 2 ^ 36 + o.size.toNat * 2 ^ 34 + o.signed.toNat * 2 ^ 33 + o.space.toNat * 2 ^ 32 + o.rotate.toNat * 2 ^ 31 + o.rsv.toNat * 2 ^ 24 + o.offset.toNat
/-- MemOps read from a word. -/
def MemOps.ofWord (w : Nat) : MemOps :=
  ⟨BitVec.ofNat 5 (bitsOf w 45 5), BitVec.ofNat 5 (bitsOf w 40 5), BitVec.ofNat 4 (bitsOf w 36 4), BitVec.ofNat 2 (bitsOf w 34 2), BitVec.ofNat 1 (bitsOf w 33 1), BitVec.ofNat 1 (bitsOf w 32 1), BitVec.ofNat 1 (bitsOf w 31 1), BitVec.ofNat 7 (bitsOf w 24 7), BitVec.ofNat 24 (bitsOf w 0 24)⟩

/-- The operand bits of SyncOps. -/
def SyncOps.bits (o : SyncOps) : Nat :=
  o.rd.toNat * 2 ^ 45 + o.rs1.toNat * 2 ^ 40 + o.rs2.toNat * 2 ^ 35 + o.useImm.toNat * 2 ^ 34 + o.rsv.toNat * 2 ^ 32 + o.imm.toNat
/-- SyncOps read from a word. -/
def SyncOps.ofWord (w : Nat) : SyncOps :=
  ⟨BitVec.ofNat 5 (bitsOf w 45 5), BitVec.ofNat 5 (bitsOf w 40 5), BitVec.ofNat 5 (bitsOf w 35 5), BitVec.ofNat 1 (bitsOf w 34 1), BitVec.ofNat 2 (bitsOf w 32 2), BitVec.ofNat 32 (bitsOf w 0 32)⟩

/-- The operand bits of GraphOps. -/
def GraphOps.bits (o : GraphOps) : Nat :=
  o.rd.toNat * 2 ^ 45 + o.rs1.toNat * 2 ^ 40 + o.rs2.toNat * 2 ^ 35 + o.rsv.toNat
/-- GraphOps read from a word. -/
def GraphOps.ofWord (w : Nat) : GraphOps :=
  ⟨BitVec.ofNat 5 (bitsOf w 45 5), BitVec.ofNat 5 (bitsOf w 40 5), BitVec.ofNat 5 (bitsOf w 35 5), BitVec.ofNat 35 (bitsOf w 0 35)⟩

/-- The instruction a word spells, reserved classes and opcodes refused (R149 to R163). -/
def decodeTile (t : TileId) (c : CtxId) (w : Nat) : Option Instr :=
  let h := wordHdr t c w
  match wordClass w, wordOpcode w with
  | 0, 0x0 => some (.nop h (CtlOps.ofWord w))
  | 0, 0x1 => some (.add h (CtlOps.ofWord w))
  | 0, 0x2 => some (.addi h (CtlOps.ofWord w))
  | 0, 0x3 => some (.sub h (CtlOps.ofWord w))
  | 0, 0x4 => some (.mul h (CtlOps.ofWord w))
  | 0, 0x5 => some (.and h (CtlOps.ofWord w))
  | 0, 0x6 => some (.or h (CtlOps.ofWord w))
  | 0, 0x7 => some (.xor h (CtlOps.ofWord w))
  | 0, 0x8 => some (.shl h (CtlOps.ofWord w))
  | 0, 0x9 => some (.shr h (CtlOps.ofWord w))
  | 0, 0xA => some (.sra h (CtlOps.ofWord w))
  | 0, 0xC => some (.shli h (CtlOps.ofWord w))
  | 0, 0xD => some (.shri h (CtlOps.ofWord w))
  | 0, 0xE => some (.srai h (CtlOps.ofWord w))
  | 0, 0x10 => some (.movi h (CtlOps.ofWord w))
  | 0, 0x11 => some (.movhi h (CtlOps.ofWord w))
  | 0, 0x14 => some (.cmp h (CtlOps.ofWord w))
  | 0, 0x15 => some (.cmpi h (CtlOps.ofWord w))
  | 0, 0x16 => some (.plog h (CtlOps.ofWord w))
  | 0, 0x18 => some (.br h (CtlOps.ofWord w))
  | 0, 0x19 => some (.jr h (CtlOps.ofWord w))
  | 0, 0x1A => some (.call h (CtlOps.ofWord w))
  | 0, 0x20 => some (.spawn h (CtlOps.ofWord w))
  | 0, 0x21 => some (.halt h (CtlOps.ofWord w))
  | 0, 0x22 => some (.fence h (CtlOps.ofWord w))
  | 0, 0x23 => some (.rdtime h (CtlOps.ofWord w))
  | 0, 0x24 => some (.rdid h (CtlOps.ofWord w))
  | 1, 0x0 => some (.wload h (WloadOps.ofWord w))
  | 1, 0x1 => some (.mma h (MmaOps.ofWord w))
  | 1, 0x2 => some (.readout h (ReadoutOps.ofWord w))
  | 2, 0x0 => some (.vadd h (VecOps.ofWord w))
  | 2, 0x1 => some (.vsub h (VecOps.ofWord w))
  | 2, 0x2 => some (.vmul h (VecOps.ofWord w))
  | 2, 0x3 => some (.vfma h (VecOps.ofWord w))
  | 2, 0x4 => some (.vmax h (VecOps.ofWord w))
  | 2, 0x5 => some (.vmin h (VecOps.ofWord w))
  | 2, 0x8 => some (.vrsqrt h (VecOps.ofWord w))
  | 2, 0x9 => some (.vrcp h (VecOps.ofWord w))
  | 2, 0xA => some (.vexp2 h (VecOps.ofWord w))
  | 2, 0xB => some (.vlog2 h (VecOps.ofWord w))
  | 2, 0x10 => some (.vbcast h (VecOps.ofWord w))
  | 2, 0x11 => some (.vidx h (VecOps.ofWord w))
  | 2, 0x12 => some (.vsum h (VecOps.ofWord w))
  | 2, 0x13 => some (.vmaxr h (VecOps.ofWord w))
  | 2, 0x18 => some (.vcvt h (VecOps.ofWord w))
  | 2, 0x19 => some (.vldc h (VecOps.ofWord w))
  | 2, 0x1C => some (.vacc h (VecOps.ofWord w))
  | 2, 0x1D => some (.vlease h (VecOps.ofWord w))
  | 2, 0x1E => some (.vrelease h (VecOps.ofWord w))
  | 3, 0x0 => some (.ld h (MemOps.ofWord w))
  | 3, 0x1 => some (.st h (MemOps.ofWord w))
  | 3, 0x2 => some (.vld h (MemOps.ofWord w))
  | 3, 0x3 => some (.vst h (MemOps.ofWord w))
  | 3, 0x8 => some (.dma h (MemOps.ofWord w))
  | 4, 0x0 => some (.sadd h (SyncOps.ofWord w))
  | 4, 0x1 => some (.ssub h (SyncOps.ofWord w))
  | 4, 0x2 => some (.swait h (SyncOps.ofWord w))
  | 4, 0x3 => some (.sread h (SyncOps.ofWord w))
  | 4, 0x4 => some (.ssignal h (SyncOps.ofWord w))
  | 5, 0x0 => some (.smpl h (GraphOps.ofWord w))
  | 5, 0x1 => some (.gath h (GraphOps.ofWord w))
  | 5, 0x2 => some (.scat h (GraphOps.ofWord w))
  | 5, 0x3 => some (.embd h (GraphOps.ofWord w))
  | 5, 0x4 => some (.qpost h (GraphOps.ofWord w))
  | _, _ => none

/-- The word of a tile instruction; none for every other command. -/
def encodeTile : Instr → Option Nat
  | .nop h o => some (tileWord 0 h 0x0 o.bits)
  | .add h o => some (tileWord 0 h 0x1 o.bits)
  | .addi h o => some (tileWord 0 h 0x2 o.bits)
  | .sub h o => some (tileWord 0 h 0x3 o.bits)
  | .mul h o => some (tileWord 0 h 0x4 o.bits)
  | .and h o => some (tileWord 0 h 0x5 o.bits)
  | .or h o => some (tileWord 0 h 0x6 o.bits)
  | .xor h o => some (tileWord 0 h 0x7 o.bits)
  | .shl h o => some (tileWord 0 h 0x8 o.bits)
  | .shr h o => some (tileWord 0 h 0x9 o.bits)
  | .sra h o => some (tileWord 0 h 0xA o.bits)
  | .shli h o => some (tileWord 0 h 0xC o.bits)
  | .shri h o => some (tileWord 0 h 0xD o.bits)
  | .srai h o => some (tileWord 0 h 0xE o.bits)
  | .movi h o => some (tileWord 0 h 0x10 o.bits)
  | .movhi h o => some (tileWord 0 h 0x11 o.bits)
  | .cmp h o => some (tileWord 0 h 0x14 o.bits)
  | .cmpi h o => some (tileWord 0 h 0x15 o.bits)
  | .plog h o => some (tileWord 0 h 0x16 o.bits)
  | .br h o => some (tileWord 0 h 0x18 o.bits)
  | .jr h o => some (tileWord 0 h 0x19 o.bits)
  | .call h o => some (tileWord 0 h 0x1A o.bits)
  | .spawn h o => some (tileWord 0 h 0x20 o.bits)
  | .halt h o => some (tileWord 0 h 0x21 o.bits)
  | .fence h o => some (tileWord 0 h 0x22 o.bits)
  | .rdtime h o => some (tileWord 0 h 0x23 o.bits)
  | .rdid h o => some (tileWord 0 h 0x24 o.bits)
  | .wload h o => some (tileWord 1 h 0x0 o.bits)
  | .mma h o => some (tileWord 1 h 0x1 o.bits)
  | .readout h o => some (tileWord 1 h 0x2 o.bits)
  | .vadd h o => some (tileWord 2 h 0x0 o.bits)
  | .vsub h o => some (tileWord 2 h 0x1 o.bits)
  | .vmul h o => some (tileWord 2 h 0x2 o.bits)
  | .vfma h o => some (tileWord 2 h 0x3 o.bits)
  | .vmax h o => some (tileWord 2 h 0x4 o.bits)
  | .vmin h o => some (tileWord 2 h 0x5 o.bits)
  | .vrsqrt h o => some (tileWord 2 h 0x8 o.bits)
  | .vrcp h o => some (tileWord 2 h 0x9 o.bits)
  | .vexp2 h o => some (tileWord 2 h 0xA o.bits)
  | .vlog2 h o => some (tileWord 2 h 0xB o.bits)
  | .vbcast h o => some (tileWord 2 h 0x10 o.bits)
  | .vidx h o => some (tileWord 2 h 0x11 o.bits)
  | .vsum h o => some (tileWord 2 h 0x12 o.bits)
  | .vmaxr h o => some (tileWord 2 h 0x13 o.bits)
  | .vcvt h o => some (tileWord 2 h 0x18 o.bits)
  | .vldc h o => some (tileWord 2 h 0x19 o.bits)
  | .vacc h o => some (tileWord 2 h 0x1C o.bits)
  | .vlease h o => some (tileWord 2 h 0x1D o.bits)
  | .vrelease h o => some (tileWord 2 h 0x1E o.bits)
  | .ld h o => some (tileWord 3 h 0x0 o.bits)
  | .st h o => some (tileWord 3 h 0x1 o.bits)
  | .vld h o => some (tileWord 3 h 0x2 o.bits)
  | .vst h o => some (tileWord 3 h 0x3 o.bits)
  | .dma h o => some (tileWord 3 h 0x8 o.bits)
  | .sadd h o => some (tileWord 4 h 0x0 o.bits)
  | .ssub h o => some (tileWord 4 h 0x1 o.bits)
  | .swait h o => some (tileWord 4 h 0x2 o.bits)
  | .sread h o => some (tileWord 4 h 0x3 o.bits)
  | .ssignal h o => some (tileWord 4 h 0x4 o.bits)
  | .smpl h o => some (tileWord 5 h 0x0 o.bits)
  | .gath h o => some (tileWord 5 h 0x1 o.bits)
  | .scat h o => some (tileWord 5 h 0x2 o.bits)
  | .embd h o => some (tileWord 5 h 0x3 o.bits)
  | .qpost h o => some (tileWord 5 h 0x4 o.bits)
  | _ => none

/-- The header of a tile instruction. -/
def Instr.hdr? : Instr → Option Hdr
  | .nop h _ | .add h _ | .addi h _ | .sub h _ | .mul h _ | .and h _ | .or h _ | .xor h _ | .shl h _ | .shr h _ | .sra h _ | .shli h _ | .shri h _ | .srai h _ | .movi h _ | .movhi h _ | .cmp h _ | .cmpi h _ | .plog h _ | .br h _ | .jr h _ | .call h _ | .spawn h _ | .halt h _ | .fence h _ | .rdtime h _ | .rdid h _ => some h
  | .wload h _ => some h
  | .mma h _ => some h
  | .readout h _ => some h
  | .vadd h _ | .vsub h _ | .vmul h _ | .vfma h _ | .vmax h _ | .vmin h _ | .vrsqrt h _ | .vrcp h _ | .vexp2 h _ | .vlog2 h _ | .vbcast h _ | .vidx h _ | .vsum h _ | .vmaxr h _ | .vcvt h _ | .vldc h _ | .vacc h _ | .vlease h _ | .vrelease h _ => some h
  | .ld h _ | .st h _ | .vld h _ | .vst h _ | .dma h _ => some h
  | .sadd h _ | .ssub h _ | .swait h _ | .sread h _ | .ssignal h _ => some h
  | .smpl h _ | .gath h _ | .scat h _ | .embd h _ | .qpost h _ => some h
  | _ => none

/-! ### Decode checks (R150): reserved field values and non-zero bits of fields an instruction does not use -/

/-- Which of rd, rs1, rs2, pd and imm a control instruction uses; the others must be zero (R151). -/
def ctlUnused (rd rs1 rs2 pd imm : Bool) (o : CtlOps) : Bool :=
  (!rd && o.rd != 0) || (!rs1 && o.rs1 != 0) || (!rs2 && o.rs2 != 0) || (!pd && o.pd != 0) || (!imm && o.imm != 0)

/-- Pieces of a weight format (R92). -/
def fmtPieces (f : Nat) : Nat := if f = 7 then 2 else if f = 8 then 3 else 1

/-- The word holds a reserved field value or a non-zero reserved bit: fault code 1, whatever the guard (R150). -/
def Instr.reserved : Instr → Bool
  | .nop _ o | .halt _ o | .fence _ o => ctlUnused false false false false false o
  | .add _ o | .sub _ o | .mul _ o | .and _ o | .or _ o | .xor _ o | .shl _ o | .shr _ o | .sra _ o =>
    ctlUnused true true true false false o
  | .addi _ o => ctlUnused true true false false true o
  | .shli _ o | .shri _ o | .srai _ o => ctlUnused true true false false true o || decide (64 ≤ o.imm.toNat)
  | .movi _ o | .movhi _ o => ctlUnused true false false false true o
  | .cmp _ o => ctlUnused false true true true true o || decide (6 ≤ o.imm.toNat)
  | .cmpi _ o => ctlUnused false true false true true o || decide (6 ≤ o.imm.toNat % 8)
  | .plog _ o => ctlUnused false true true true true o || decide (8 ≤ o.rs1.toNat) || decide (8 ≤ o.rs2.toNat) || decide (4 ≤ o.imm.toNat)
  | .br _ o => ctlUnused false false false false true o
  | .jr _ o => ctlUnused false true false false false o
  | .call _ o => ctlUnused true false false false true o
  | .spawn _ o => ctlUnused true true false false true o
  | .rdtime _ o | .rdid _ o => ctlUnused true false false false false o
  | .wload _ o =>
    decide (8 < o.fmt.toNat) || decide (fmtPieces o.fmt.toNat ≤ o.piece.toNat) || o.sparsity == 3 || o.rsv != 0
      || (o.sparsity != 0 && decide (7 ≤ o.fmt.toNat))
  | .mma _ o =>
    decide (8 < o.fmt.toNat) || o.mode == 3 || o.grouping == 3 || (o.join == 1 && o.mirror == 0)
      || (o.rnd == 1 && o.mode == 2) || (o.mode == 2 && decide (16 ≤ o.mMinus1.toNat)) || o.rsv0 != 0 || o.rsv1 != 0
  | .readout _ o =>
    decide (4 < o.mode.toNat) || decide (8 < o.target.toNat) || (decide (3 ≤ o.mode.toNat) && decide (o.target.toNat < 6))
      || (o.mode == 2 && decide (16 ≤ o.countMinus1.toNat)) || o.rsv != 0
  | .vcvt _ o => decide (8 < o.fmt.toNat)
  | .vldc _ o => decide (8 < o.fmt.toNat) || o.rnd != 0
  | .vacc _ o =>
    decide (0x2000 ≤ o.imm.toNat) || bitsOf o.imm.toNat 10 2 == 3 || (bitsOf o.imm.toNat 10 2 != 0 && o.rnd != 0)
  | .vadd _ o | .vsub _ o | .vmul _ o | .vfma _ o | .vmax _ o | .vmin _ o | .vrsqrt _ o | .vrcp _ o | .vexp2 _ o
  | .vlog2 _ o | .vbcast _ o | .vidx _ o | .vsum _ o | .vmaxr _ o | .vlease _ o | .vrelease _ o => o.rnd != 0
  | .ld _ o | .st _ o | .dma _ o => o.rotate != 0 || o.rsv != 0
  | .vld _ o | .vst _ o => o.rsv != 0
  | .sadd _ o | .ssub _ o | .swait _ o | .sread _ o => o.rsv != 0
  | .ssignal _ o => o.rsv != 0 || decide (0x40000 ≤ o.imm.toNat)
  | .smpl _ o | .gath _ o | .scat _ o | .embd _ o | .qpost _ o => o.rsv != 0
  | _ => false

end Sys2Proof
end

