-- ==== Sys2Proof/Config.lean ====
section
/-! DEFINITION. What an implementation fixes and the free values: constants without a body, so that nothing can be proved
about the value (log entries 6, 7 and 13). -/

namespace Sys2Proof.Config

/-- A fresh open value: the n-th value the device leaves open (the bits of an X entry after an overflow, R119). -/
opaque freeWord : Nat → Word

/-- Which of the values within 1 ulp VRSQRT and VRCP deliver for an operand (R157). -/
opaque rsqrtPick : Half → Nat
opaque rcpPick : Half → Nat
/-- Which of the values within 1 ulp an update engine forms for a power of a coefficient (R361). -/
opaque powPick : Half → Nat → Nat
/-- Which of the values within 2 ulp VEXP2 and VLOG2 deliver for an operand (R157). -/
opaque exp2Pick : Half → Nat
opaque log2Pick : Half → Nat

/-- A SHAKE256 digest of a byte string, as a number of the given count of bytes (R548, R561). -/
opaque shake256 : (bytes : Nat) → List Byte → Nat
/-- An ML-DSA-65 signature by a key of the device over a byte string (R547, R563). -/
opaque mlDsaSign : (key : Nat) → List Byte → List Byte
/-- Whether an ML-DSA-65 signature verifies under a public key over a byte string (R442, R559, R565). -/
opaque mlDsaVerify : (key msg sig : List Byte) → Bool
/-- ML-DSA-65 keys and certificates (R442, R545, R551, R559, R562): 0 the device public key, 1 its certificate, 2 Affemar's certification
key, 3 its firmware key, 4 the meter's public key, 5 its certificate, 6 Affemar's service key. -/
opaque deviceKey : (which : Nat) → List Byte

/-- What the payload of an owner-logic write holds, which R439 does not lay out: a request, and a reply with its elements, winner
positions, count and whether it failed (log entry 102). -/
opaque ownerRequest : EmbRemote → List Byte
opaque ownerReply : EmbRemote → (vals idxs : List Half) → (n : Nat) → (failed : Bool) → List Byte

/-- The firmware image that a slot of the module holds from manufacture (R559). -/
opaque factoryImage : (slot : Nat) → List Byte

/-- The revision of the stepping (R513). -/
opaque revision : Nat

/-- The spare lanes of a stack's interface, two for each 64 lanes, whose number the spec does not give (R571, R579; log entry 121). -/
opaque spareLanes : Nat

/-- The leakage model and the activity weights fused into an island at test (R530): µW at a voltage in mV and a temperature in
0.25 °C; µW per count at 1 V. -/
opaque leakage : (island mv temp : Nat) → Nat
opaque weight : (island k : Nat) → Nat

end Sys2Proof.Config
end

