-- ==== Sys2Proof/Machine/RegMap.lean ====
section
/-! DEFINITION. The register map: every register of the spec with its block, offset, width and writer (R68, R104, R131,
R166, R183, R204, R232, R261, R291, R334, R373, R393, R424, R458, R488, R505, R519, R542, R552, R570, R580, R583) and every
field with its bits, access code, reset value and clamp limits (R9, R11 and the field tables). Names are the spec's. -/

namespace Sys2Proof.Machine

/-- The access codes of R9 that the register map uses. -/
inductive Access where
  | RW | RO | WO | W1C | RC
  deriving DecidableEq, Repr

/-- Whose writes a register accepts. -/
inductive WriteRule where
  | any | controlOnly | hubOnly | hostAndControl | nobody
  deriving DecidableEq, Repr

/-- The kinds of register block in which a register stands (R313 and the register chapters). -/
inductive BlkClass where
  | anyUnit | package | hub | die | region | cluster | tile | array | stackCtl | updEng | dma | ringLevel
  | cores | sched | intr | pilot | hostLink | power | boot | errors | meter | conv | syncMem | island | bank
  deriving DecidableEq, Repr

/-- Every register name of the spec. -/
inductive Reg where
  | UD | FMT_CTRL | SR_CTR | FMT_STAT | ARR_CTRL | ARR_STATUS | ARR_REMAP | ARR_FUSE
  | ARR_FUSE_PROG | ARR_BEATS | ARR_BUB_FEED | ARR_BUB_ACC | ARR_BUB_WGT | AM_CTRL | AM_STATUS | AM_MODE
  | AM_OVF | AM_NF_IN | AM_VEC_WAIT | SEQ_CTRL | SEQ_STATUS | SEQ_VLEASE | SEQ_ISSUED | SEQ_EMPTY
  | SEQ_STARVE | SEQ_FAULTS | THR_STATE | THR_PC | THR_XREG | BANK_OWN | BANK_CTRL | BANK_STATUS
  | BANK_WAIT_OWN | BANK_WAIT_PORT | PRU_CTRL | PRU_MASK_IN | PRU_GROUP_CHG | SPK_CTRL | SPK_DROPPED | SPK_DENSE
  | SMP_CTRL | SMP_STATUS | SMP_ERR | SMP_RECORDS | SMP_VOID | SMP_CLAMP | SMP_BADROW | SMP_TRUNC
  | SMP_RESTART | SMP_DEADEND | SMP_VARIATES | GS_CTRL | GS_STATUS | GS_QUOTA | GS_HOT | GS_ERR
  | GS_ROWS | GS_MERGED | GS_VOID | GS_CLAMP | GS_QUOTA_STALL | GS_MEM_ADDS | GS_HOT_PROMOTE | GS_HOT_ADDS
  | GS_HOT_FLUSH | GS_HOT_FULL | EMB_CTRL | EMB_STATUS | EMB_ERR | EMB_TIER_FAST | EMB_TIER_SLOW | EMB_TIER_HOST
  | EMB_REFL_HIT | EMB_REFL_STALE | EMB_CLAMP | EMB_GRAD_ROWS | EMB_LATE | EMB_LIST_FULL | EMB_REMOTE | MEM_MAP
  | HW_MAP | SC_CTRL | SC_STATUS | SC_PIN | PF_CTRL | SC_CLASS | SC_RANGE_LO | SC_RANGE_HI
  | SC_HIT | SC_MISS | SC_WB | SC_DEAD_EVICT | SC_RAM_ADDS | PF_ISSUED | PF_USED | PF_LATE
  | PF_UNUSED | PF_OVERTAKEN | DMA_CTRL | DMA_STATUS | DMA_ERR | DMA_DESC | DMA_RD_BYTES | DMA_WR_BYTES
  | DMA_CLAMPS | UPD_CTRL | UPD_STATUS | UPD_VERDICT | UPD_ERR | UPD_GT_SEL | UPD_GT_DATA | UPD_APPLIED
  | UPD_FROZEN | UPD_NF_STEP | UPD_NOCONTRIB | UPD_STAMP_SKIP | UPD_STAMP_AHEAD | UPD_NF_BLOCK | UPD_CLIPPED | UPD_CURVE_ESC
  | UPD_CURVE_FALLBACK | UPD_RESTORED | UPD_WC_MISMATCH | UPD_VERDICT_WAIT | SYNC_CTRL | SYNC_STATUS | SYNC_SEL | SYNC_VIEW
  | SYNC_CMD | SYNC_ERR | SYNC_OPS | SYNC_SAT | SYNC_ABANDON_REL | SYNC_WAITFULL | SYNC_RX_HELD | FR_CTRL
  | FR_STATUS | FR_SEAL | FR_NF_FIRST | FR_BREAK | FR_POSTS | FR_POST_IGNORED | FR_DEADLINE_MISS | FR_BACKUP_USED
  | FR_CARRIED | FR_LATE_DROP | FR_NF_BUCKETS | FR_VERDICT_NF | FR_JOB_SEALS | FR_RERUNS | RE_CTRL | RE_STATUS
  | RE_CHUNK_TX | RE_CHUNK_RX | RE_PARKED | RE_ADD_ELEMS | RE_CREDIT_WAIT | RE_TX_BYTES | RE_RX_BYTES | RL_POS
  | RL_BACKUP | LW_CTRL | LW_STATUS | LW_PEER | LW_TX_FLITS | LW_RX_FLITS | LW_CRC_ERR | LW_REPLAYS
  | LW_FEC_CORR | LW_FEC_UNCORR | LW_CREDIT_WAIT | LW_SPARE_SWITCH | LW_DROPPED | LW_ID | LW_DISC | LW_TIME
  | LW_TOKEN_RETRY | LW_ATTEST_FAIL | LW_MAP_MISMATCH | Q_SEL | Q_VIEW | CC_CORE | TS_CTRL | TS_ARG
  | TS_CMD | TS_RSP | TS_CORE | TS_THR | IC_CTRL | IC_CLAIM | IC_EOI | IC_CORE
  | IC_SWSET | IC_DELIVERED | IC_COALESCED | IC_STORM | IC_STUCK | IC_STACK_FAULT | IC_SRC | PL_STATUS
  | PL_WAKE | HL_CTRL | HL_STATUS | HL_BAR2 | HL_PTM | HL_BAR2_BAD | HL_CPL_TIMEOUT | HL_RETRAIN
  | HL_POISON_RX | PM_CTRL | PM_STATUS | PM_LIMIT | PM_EST | PM_PHASEMAP | PM_TRIP | PM_OPP
  | PM_THROTTLE_INT | ISL_STATUS | ISL_AGE | ISL_DROOPS | ISL_RAMPS | MTR_ID | MTR_VERSION | MTR_STATUS
  | MTR_ENERGY | MTR_POWER | MTR_RECORDS | MTR_EVENTS | MTR_TAG | MTR_TIME | BOOT_STATUS | RT_MEAS
  | ERR_CTRL | ERR_STATUS | ERR_CE | ERR_UE | ERR_MERGED | ERR_LOG | SC_REPAIR | CL_SPARE
  | CL_SPARE_FUSE | CL_SPARE_PROG | CL_SPARE_STATUS | CB_CTRL | CB_STATUS | CB_CNT | CB_SHADOW
  deriving DecidableEq, Repr

/-- A field of a register: bits [lo + w - 1 : lo]. -/
structure Fld where
  reg : Reg
  lo : Nat
  w : Nat
  deriving DecidableEq, Repr

/-- A row of a field table: the field, its access code, its reset value and the least and greatest legal value (R11). -/
structure FieldRow where
  fld : Fld
  acc : Access
  rst : Nat
  least : Nat
  most : Nat
  /-- the word of a register of several words that holds the field; none where every instance has it -/
  word : Option Nat
  deriving DecidableEq, Repr

/-- A field with every value legal. -/
def fr (f : Fld) (a : Access) (r : Nat) : FieldRow := ⟨f, a, r, 0, 2 ^ f.w - 1, none⟩
/-- A field whose legal values run from `lo` to `hi`. -/
def frc (f : Fld) (a : Access) (r lo hi : Nat) : FieldRow := ⟨f, a, r, lo, hi, none⟩
/-- A field of word `k` of a register of several words. -/
def frw (f : Fld) (a : Access) (r k : Nat) : FieldRow := ⟨f, a, r, 0, 2 ^ f.w - 1, some k⟩

/-- A row of a register table: block kind, offset of the first instance, distance of instances, number of instances,
width, whose writes are accepted, and for a counter the control register whose bit 0 (`CNT_EN`, `STATS_EN`) enables it. -/
structure RegRow where
  cls : BlkClass
  base : Nat
  stride : Nat
  count : Nat
  width : Nat
  wr : WriteRule
  en : Option Reg
  deriving DecidableEq, Repr

/-- The register tables. -/
def Reg.row : Reg → RegRow
  | .UD => ⟨.anyUnit, 0x0, 8, 8, 64, .nobody, none⟩
  | .FMT_CTRL => ⟨.conv, 0x100, 8, 1, 32, .any, none⟩
  | .SR_CTR => ⟨.conv, 0x108, 8, 1, 64, .nobody, none⟩
  | .FMT_STAT => ⟨.conv, 0x1000, 8, 360, 64, .nobody, some .FMT_CTRL⟩
  | .ARR_CTRL => ⟨.array, 0x200, 8, 1, 32, .any, none⟩
  | .ARR_STATUS => ⟨.array, 0x208, 8, 1, 32, .any, none⟩
  | .ARR_REMAP => ⟨.array, 0x210, 8, 1, 32, .controlOnly, none⟩
  | .ARR_FUSE => ⟨.array, 0x218, 8, 1, 32, .nobody, none⟩
  | .ARR_FUSE_PROG => ⟨.array, 0x220, 8, 1, 32, .controlOnly, none⟩
  | .ARR_BEATS => ⟨.array, 0x228, 8, 1, 64, .nobody, some .ARR_CTRL⟩
  | .ARR_BUB_FEED => ⟨.array, 0x230, 8, 1, 64, .nobody, some .ARR_CTRL⟩
  | .ARR_BUB_ACC => ⟨.array, 0x238, 8, 1, 64, .nobody, some .ARR_CTRL⟩
  | .ARR_BUB_WGT => ⟨.array, 0x240, 8, 1, 64, .nobody, some .ARR_CTRL⟩
  | .AM_CTRL => ⟨.tile, 0x300, 8, 1, 32, .controlOnly, none⟩
  | .AM_STATUS => ⟨.tile, 0x308, 8, 1, 32, .any, none⟩
  | .AM_MODE => ⟨.tile, 0x310, 8, 1, 32, .any, none⟩
  | .AM_OVF => ⟨.tile, 0x318, 8, 1, 64, .nobody, some .AM_CTRL⟩
  | .AM_NF_IN => ⟨.tile, 0x320, 8, 1, 64, .nobody, some .AM_CTRL⟩
  | .AM_VEC_WAIT => ⟨.tile, 0x328, 8, 1, 64, .nobody, some .AM_CTRL⟩
  | .SEQ_CTRL => ⟨.tile, 0x400, 8, 1, 32, .controlOnly, none⟩
  | .SEQ_STATUS => ⟨.tile, 0x408, 8, 1, 32, .nobody, none⟩
  | .SEQ_VLEASE => ⟨.tile, 0x410, 8, 1, 32, .nobody, none⟩
  | .SEQ_ISSUED => ⟨.tile, 0x418, 8, 1, 64, .nobody, some .SEQ_CTRL⟩
  | .SEQ_EMPTY => ⟨.tile, 0x420, 8, 1, 64, .nobody, some .SEQ_CTRL⟩
  | .SEQ_STARVE => ⟨.tile, 0x428, 8, 1, 64, .nobody, some .SEQ_CTRL⟩
  | .SEQ_FAULTS => ⟨.tile, 0x430, 8, 1, 64, .nobody, some .SEQ_CTRL⟩
  | .THR_STATE => ⟨.tile, 0x800, 8, 128, 64, .controlOnly, none⟩
  | .THR_PC => ⟨.tile, 0xC00, 8, 128, 64, .nobody, none⟩
  | .THR_XREG => ⟨.tile, 0x4000, 8, 4096, 64, .nobody, none⟩
  | .BANK_OWN => ⟨.tile, 0x500, 8, 4, 32, .any, none⟩
  | .BANK_CTRL => ⟨.tile, 0x520, 8, 1, 32, .controlOnly, none⟩
  | .BANK_STATUS => ⟨.tile, 0x528, 8, 1, 32, .any, none⟩
  | .BANK_WAIT_OWN => ⟨.tile, 0x540, 8, 5, 64, .nobody, some .BANK_CTRL⟩
  | .BANK_WAIT_PORT => ⟨.tile, 0x580, 8, 5, 64, .nobody, some .BANK_CTRL⟩
  | .PRU_CTRL => ⟨.updEng, 0x600, 8, 1, 32, .controlOnly, none⟩
  | .PRU_MASK_IN => ⟨.updEng, 0x608, 8, 1, 64, .nobody, some .PRU_CTRL⟩
  | .PRU_GROUP_CHG => ⟨.updEng, 0x610, 8, 1, 64, .nobody, some .PRU_CTRL⟩
  | .SPK_CTRL => ⟨.dma, 0x600, 8, 1, 32, .controlOnly, none⟩
  | .SPK_DROPPED => ⟨.dma, 0x608, 8, 1, 64, .nobody, some .SPK_CTRL⟩
  | .SPK_DENSE => ⟨.dma, 0x610, 8, 1, 64, .nobody, some .SPK_CTRL⟩
  | .SMP_CTRL => ⟨.cluster, 0x700, 8, 1, 32, .controlOnly, none⟩
  | .SMP_STATUS => ⟨.cluster, 0x708, 8, 1, 32, .any, none⟩
  | .SMP_ERR => ⟨.cluster, 0x710, 8, 1, 64, .nobody, none⟩
  | .SMP_RECORDS => ⟨.cluster, 0x718, 8, 1, 64, .nobody, some .SMP_CTRL⟩
  | .SMP_VOID => ⟨.cluster, 0x720, 8, 1, 64, .nobody, some .SMP_CTRL⟩
  | .SMP_CLAMP => ⟨.cluster, 0x728, 8, 1, 64, .nobody, some .SMP_CTRL⟩
  | .SMP_BADROW => ⟨.cluster, 0x730, 8, 1, 64, .nobody, some .SMP_CTRL⟩
  | .SMP_TRUNC => ⟨.cluster, 0x738, 8, 1, 64, .nobody, some .SMP_CTRL⟩
  | .SMP_RESTART => ⟨.cluster, 0x740, 8, 1, 64, .nobody, some .SMP_CTRL⟩
  | .SMP_DEADEND => ⟨.cluster, 0x748, 8, 1, 64, .nobody, some .SMP_CTRL⟩
  | .SMP_VARIATES => ⟨.cluster, 0x750, 8, 1, 64, .nobody, some .SMP_CTRL⟩
  | .GS_CTRL => ⟨.cluster, 0x800, 8, 1, 32, .controlOnly, none⟩
  | .GS_STATUS => ⟨.cluster, 0x808, 8, 1, 32, .any, none⟩
  | .GS_QUOTA => ⟨.cluster, 0x810, 8, 1, 32, .controlOnly, none⟩
  | .GS_HOT => ⟨.cluster, 0x818, 8, 1, 32, .controlOnly, none⟩
  | .GS_ERR => ⟨.cluster, 0x820, 8, 1, 64, .nobody, none⟩
  | .GS_ROWS => ⟨.cluster, 0x828, 8, 1, 64, .nobody, some .GS_CTRL⟩
  | .GS_MERGED => ⟨.cluster, 0x830, 8, 1, 64, .nobody, some .GS_CTRL⟩
  | .GS_VOID => ⟨.cluster, 0x838, 8, 1, 64, .nobody, some .GS_CTRL⟩
  | .GS_CLAMP => ⟨.cluster, 0x840, 8, 1, 64, .nobody, some .GS_CTRL⟩
  | .GS_QUOTA_STALL => ⟨.cluster, 0x848, 8, 1, 64, .nobody, some .GS_CTRL⟩
  | .GS_MEM_ADDS => ⟨.cluster, 0x850, 8, 1, 64, .nobody, some .GS_CTRL⟩
  | .GS_HOT_PROMOTE => ⟨.cluster, 0x858, 8, 1, 64, .nobody, some .GS_CTRL⟩
  | .GS_HOT_ADDS => ⟨.cluster, 0x860, 8, 1, 64, .nobody, some .GS_CTRL⟩
  | .GS_HOT_FLUSH => ⟨.cluster, 0x868, 8, 1, 64, .nobody, some .GS_CTRL⟩
  | .GS_HOT_FULL => ⟨.cluster, 0x870, 8, 1, 64, .nobody, some .GS_CTRL⟩
  | .EMB_CTRL => ⟨.region, 0x900, 8, 1, 32, .controlOnly, none⟩
  | .EMB_STATUS => ⟨.region, 0x908, 8, 1, 32, .any, none⟩
  | .EMB_ERR => ⟨.region, 0x910, 8, 1, 64, .nobody, none⟩
  | .EMB_TIER_FAST => ⟨.region, 0x918, 8, 1, 64, .nobody, some .EMB_CTRL⟩
  | .EMB_TIER_SLOW => ⟨.region, 0x920, 8, 1, 64, .nobody, some .EMB_CTRL⟩
  | .EMB_TIER_HOST => ⟨.region, 0x928, 8, 1, 64, .nobody, some .EMB_CTRL⟩
  | .EMB_REFL_HIT => ⟨.region, 0x930, 8, 1, 64, .nobody, some .EMB_CTRL⟩
  | .EMB_REFL_STALE => ⟨.region, 0x938, 8, 1, 64, .nobody, some .EMB_CTRL⟩
  | .EMB_CLAMP => ⟨.region, 0x940, 8, 1, 64, .nobody, some .EMB_CTRL⟩
  | .EMB_GRAD_ROWS => ⟨.region, 0x948, 8, 1, 64, .nobody, some .EMB_CTRL⟩
  | .EMB_LATE => ⟨.region, 0x950, 8, 1, 64, .nobody, some .EMB_CTRL⟩
  | .EMB_LIST_FULL => ⟨.region, 0x958, 8, 1, 64, .nobody, some .EMB_CTRL⟩
  | .EMB_REMOTE => ⟨.region, 0x960, 8, 1, 64, .nobody, some .EMB_CTRL⟩
  | .MEM_MAP => ⟨.package, 0xA00, 8, 1, 32, .controlOnly, none⟩
  | .HW_MAP => ⟨.package, 0xA08, 8, 1, 64, .controlOnly, none⟩
  | .SC_CTRL => ⟨.stackCtl, 0xA00, 8, 1, 32, .controlOnly, none⟩
  | .SC_STATUS => ⟨.stackCtl, 0xA08, 8, 1, 32, .nobody, none⟩
  | .SC_PIN => ⟨.stackCtl, 0xA10, 8, 1, 32, .controlOnly, none⟩
  | .PF_CTRL => ⟨.stackCtl, 0xA18, 8, 1, 32, .controlOnly, none⟩
  | .SC_CLASS => ⟨.stackCtl, 0xA40, 8, 8, 32, .controlOnly, none⟩
  | .SC_RANGE_LO => ⟨.stackCtl, 0xB00, 16, 64, 64, .controlOnly, none⟩
  | .SC_RANGE_HI => ⟨.stackCtl, 0xB08, 16, 64, 64, .controlOnly, none⟩
  | .SC_HIT => ⟨.stackCtl, 0xF00, 8, 1, 64, .nobody, some .SC_CTRL⟩
  | .SC_MISS => ⟨.stackCtl, 0xF08, 8, 1, 64, .nobody, some .SC_CTRL⟩
  | .SC_WB => ⟨.stackCtl, 0xF10, 8, 1, 64, .nobody, some .SC_CTRL⟩
  | .SC_DEAD_EVICT => ⟨.stackCtl, 0xF18, 8, 1, 64, .nobody, some .SC_CTRL⟩
  | .SC_RAM_ADDS => ⟨.stackCtl, 0xF20, 8, 1, 64, .nobody, some .SC_CTRL⟩
  | .PF_ISSUED => ⟨.stackCtl, 0xF28, 8, 1, 64, .nobody, some .SC_CTRL⟩
  | .PF_USED => ⟨.stackCtl, 0xF30, 8, 1, 64, .nobody, some .SC_CTRL⟩
  | .PF_LATE => ⟨.stackCtl, 0xF38, 8, 1, 64, .nobody, some .SC_CTRL⟩
  | .PF_UNUSED => ⟨.stackCtl, 0xF40, 8, 1, 64, .nobody, some .SC_CTRL⟩
  | .PF_OVERTAKEN => ⟨.stackCtl, 0xF48, 8, 1, 64, .nobody, some .SC_CTRL⟩
  | .DMA_CTRL => ⟨.dma, 0xA00, 8, 1, 32, .controlOnly, none⟩
  | .DMA_STATUS => ⟨.dma, 0xA08, 8, 1, 32, .any, none⟩
  | .DMA_ERR => ⟨.dma, 0xA10, 8, 1, 64, .nobody, none⟩
  | .DMA_DESC => ⟨.dma, 0xA18, 8, 1, 64, .nobody, some .DMA_CTRL⟩
  | .DMA_RD_BYTES => ⟨.dma, 0xA20, 8, 1, 64, .nobody, some .DMA_CTRL⟩
  | .DMA_WR_BYTES => ⟨.dma, 0xA28, 8, 1, 64, .nobody, some .DMA_CTRL⟩
  | .DMA_CLAMPS => ⟨.dma, 0xA30, 8, 1, 64, .nobody, some .DMA_CTRL⟩
  | .UPD_CTRL => ⟨.updEng, 0xC00, 8, 1, 32, .controlOnly, none⟩
  | .UPD_STATUS => ⟨.updEng, 0xC08, 8, 1, 32, .any, none⟩
  | .UPD_VERDICT => ⟨.updEng, 0xC10, 8, 1, 64, .hubOnly, none⟩
  | .UPD_ERR => ⟨.updEng, 0xC18, 8, 1, 64, .nobody, none⟩
  | .UPD_GT_SEL => ⟨.updEng, 0xC20, 8, 1, 32, .controlOnly, none⟩
  | .UPD_GT_DATA => ⟨.updEng, 0xC40, 8, 8, 64, .controlOnly, none⟩
  | .UPD_APPLIED => ⟨.updEng, 0xD00, 8, 1, 64, .nobody, some .UPD_CTRL⟩
  | .UPD_FROZEN => ⟨.updEng, 0xD08, 8, 1, 64, .nobody, some .UPD_CTRL⟩
  | .UPD_NF_STEP => ⟨.updEng, 0xD10, 8, 1, 64, .nobody, some .UPD_CTRL⟩
  | .UPD_NOCONTRIB => ⟨.updEng, 0xD18, 8, 1, 64, .nobody, some .UPD_CTRL⟩
  | .UPD_STAMP_SKIP => ⟨.updEng, 0xD20, 8, 1, 64, .nobody, some .UPD_CTRL⟩
  | .UPD_STAMP_AHEAD => ⟨.updEng, 0xD28, 8, 1, 64, .nobody, some .UPD_CTRL⟩
  | .UPD_NF_BLOCK => ⟨.updEng, 0xD30, 8, 1, 64, .nobody, some .UPD_CTRL⟩
  | .UPD_CLIPPED => ⟨.updEng, 0xD38, 8, 1, 64, .nobody, some .UPD_CTRL⟩
  | .UPD_CURVE_ESC => ⟨.updEng, 0xD40, 8, 1, 64, .nobody, some .UPD_CTRL⟩
  | .UPD_CURVE_FALLBACK => ⟨.updEng, 0xD48, 8, 1, 64, .nobody, some .UPD_CTRL⟩
  | .UPD_RESTORED => ⟨.updEng, 0xD50, 8, 1, 64, .nobody, some .UPD_CTRL⟩
  | .UPD_WC_MISMATCH => ⟨.updEng, 0xD58, 8, 1, 64, .nobody, some .UPD_CTRL⟩
  | .UPD_VERDICT_WAIT => ⟨.updEng, 0xD60, 8, 1, 64, .nobody, some .UPD_CTRL⟩
  | .SYNC_CTRL => ⟨.syncMem, 0xE00, 8, 1, 32, .controlOnly, none⟩
  | .SYNC_STATUS => ⟨.syncMem, 0xE08, 8, 1, 32, .any, none⟩
  | .SYNC_SEL => ⟨.syncMem, 0xE10, 8, 1, 32, .any, none⟩
  | .SYNC_VIEW => ⟨.syncMem, 0xE18, 8, 5, 64, .nobody, none⟩
  | .SYNC_CMD => ⟨.syncMem, 0xE40, 8, 1, 64, .controlOnly, none⟩
  | .SYNC_ERR => ⟨.syncMem, 0xE48, 8, 1, 64, .nobody, none⟩
  | .SYNC_OPS => ⟨.syncMem, 0xE80, 8, 1, 64, .nobody, some .SYNC_CTRL⟩
  | .SYNC_SAT => ⟨.syncMem, 0xE88, 8, 1, 64, .nobody, some .SYNC_CTRL⟩
  | .SYNC_ABANDON_REL => ⟨.syncMem, 0xE90, 8, 1, 64, .nobody, some .SYNC_CTRL⟩
  | .SYNC_WAITFULL => ⟨.syncMem, 0xE98, 8, 1, 64, .nobody, some .SYNC_CTRL⟩
  | .SYNC_RX_HELD => ⟨.syncMem, 0xEA0, 8, 1, 64, .nobody, some .SYNC_CTRL⟩
  | .FR_CTRL => ⟨.hub, 0x1000, 8, 1, 32, .controlOnly, none⟩
  | .FR_STATUS => ⟨.hub, 0x1008, 8, 1, 32, .any, none⟩
  | .FR_SEAL => ⟨.hub, 0x1010, 8, 1, 64, .nobody, none⟩
  | .FR_NF_FIRST => ⟨.hub, 0x1018, 8, 1, 64, .any, none⟩
  | .FR_BREAK => ⟨.hub, 0x1020, 8, 1, 64, .any, none⟩
  | .FR_POSTS => ⟨.hub, 0x1040, 8, 1, 64, .nobody, some .FR_CTRL⟩
  | .FR_POST_IGNORED => ⟨.hub, 0x1048, 8, 1, 64, .nobody, some .FR_CTRL⟩
  | .FR_DEADLINE_MISS => ⟨.hub, 0x1050, 8, 1, 64, .nobody, some .FR_CTRL⟩
  | .FR_BACKUP_USED => ⟨.hub, 0x1058, 8, 1, 64, .nobody, some .FR_CTRL⟩
  | .FR_CARRIED => ⟨.hub, 0x1060, 8, 1, 64, .nobody, some .FR_CTRL⟩
  | .FR_LATE_DROP => ⟨.hub, 0x1068, 8, 1, 64, .nobody, some .FR_CTRL⟩
  | .FR_NF_BUCKETS => ⟨.hub, 0x1070, 8, 1, 64, .nobody, some .FR_CTRL⟩
  | .FR_VERDICT_NF => ⟨.hub, 0x1078, 8, 1, 64, .nobody, some .FR_CTRL⟩
  | .FR_JOB_SEALS => ⟨.hub, 0x1080, 8, 1, 64, .nobody, some .FR_CTRL⟩
  | .FR_RERUNS => ⟨.hub, 0x1088, 8, 1, 64, .nobody, some .FR_CTRL⟩
  | .RE_CTRL => ⟨.die, 0x1000, 8, 1, 32, .controlOnly, none⟩
  | .RE_STATUS => ⟨.die, 0x1008, 8, 1, 32, .nobody, none⟩
  | .RE_CHUNK_TX => ⟨.die, 0x1040, 8, 1, 64, .nobody, some .RE_CTRL⟩
  | .RE_CHUNK_RX => ⟨.die, 0x1048, 8, 1, 64, .nobody, some .RE_CTRL⟩
  | .RE_PARKED => ⟨.die, 0x1050, 8, 1, 64, .nobody, some .RE_CTRL⟩
  | .RE_ADD_ELEMS => ⟨.die, 0x1058, 8, 1, 64, .nobody, some .RE_CTRL⟩
  | .RE_CREDIT_WAIT => ⟨.die, 0x1060, 8, 1, 64, .nobody, some .RE_CTRL⟩
  | .RE_TX_BYTES => ⟨.die, 0x1068, 8, 1, 64, .nobody, some .RE_CTRL⟩
  | .RE_RX_BYTES => ⟨.die, 0x1070, 8, 1, 64, .nobody, some .RE_CTRL⟩
  | .RL_POS => ⟨.ringLevel, 0x1000, 8, 1, 64, .nobody, none⟩
  | .RL_BACKUP => ⟨.ringLevel, 0x1008, 8, 1, 64, .nobody, none⟩
  | .LW_CTRL => ⟨.die, 0x2000, 256, 8, 32, .controlOnly, none⟩
  | .LW_STATUS => ⟨.die, 0x2008, 256, 8, 32, .any, none⟩
  | .LW_PEER => ⟨.die, 0x2010, 256, 8, 64, .nobody, none⟩
  | .LW_TX_FLITS => ⟨.die, 0x2040, 256, 8, 64, .nobody, some .LW_CTRL⟩
  | .LW_RX_FLITS => ⟨.die, 0x2048, 256, 8, 64, .nobody, some .LW_CTRL⟩
  | .LW_CRC_ERR => ⟨.die, 0x2050, 256, 8, 64, .nobody, some .LW_CTRL⟩
  | .LW_REPLAYS => ⟨.die, 0x2058, 256, 8, 64, .nobody, some .LW_CTRL⟩
  | .LW_FEC_CORR => ⟨.die, 0x2060, 256, 8, 64, .nobody, some .LW_CTRL⟩
  | .LW_FEC_UNCORR => ⟨.die, 0x2068, 256, 8, 64, .nobody, some .LW_CTRL⟩
  | .LW_CREDIT_WAIT => ⟨.die, 0x2070, 256, 8, 64, .nobody, some .LW_CTRL⟩
  | .LW_SPARE_SWITCH => ⟨.die, 0x2078, 256, 8, 64, .nobody, some .LW_CTRL⟩
  | .LW_DROPPED => ⟨.die, 0x2080, 256, 8, 64, .nobody, some .LW_CTRL⟩
  | .LW_ID => ⟨.hub, 0x1200, 8, 1, 32, .nobody, none⟩
  | .LW_DISC => ⟨.hub, 0x1208, 8, 1, 32, .any, none⟩
  | .LW_TIME => ⟨.hub, 0x1210, 8, 1, 64, .nobody, none⟩
  | .LW_TOKEN_RETRY => ⟨.hub, 0x1240, 8, 1, 64, .nobody, none⟩
  | .LW_ATTEST_FAIL => ⟨.hub, 0x1248, 8, 1, 64, .nobody, none⟩
  | .LW_MAP_MISMATCH => ⟨.hub, 0x1250, 8, 1, 64, .nobody, none⟩
  | .Q_SEL => ⟨.die, 0x1400, 8, 1, 32, .controlOnly, none⟩
  | .Q_VIEW => ⟨.die, 0x1408, 8, 6, 64, .controlOnly, none⟩
  | .CC_CORE => ⟨.cores, 0x100, 8, 16, 32, .nobody, none⟩
  | .TS_CTRL => ⟨.sched, 0x0, 8, 1, 32, .controlOnly, none⟩
  | .TS_ARG => ⟨.sched, 0x100, 32, 16, 64, .controlOnly, none⟩
  | .TS_CMD => ⟨.sched, 0x108, 32, 16, 32, .controlOnly, none⟩
  | .TS_RSP => ⟨.sched, 0x110, 32, 16, 32, .nobody, none⟩
  | .TS_CORE => ⟨.sched, 0x400, 8, 16, 64, .nobody, none⟩
  | .TS_THR => ⟨.sched, 0x800, 8, 1024, 64, .controlOnly, none⟩
  | .IC_CTRL => ⟨.intr, 0x0, 8, 1, 64, .controlOnly, none⟩
  | .IC_CLAIM => ⟨.intr, 0x100, 32, 16, 32, .nobody, none⟩
  | .IC_EOI => ⟨.intr, 0x108, 32, 16, 32, .controlOnly, none⟩
  | .IC_CORE => ⟨.intr, 0x110, 32, 16, 32, .controlOnly, none⟩
  | .IC_SWSET => ⟨.intr, 0x500, 8, 1, 32, .controlOnly, none⟩
  | .IC_DELIVERED => ⟨.intr, 0x600, 8, 1, 64, .nobody, some .IC_CTRL⟩
  | .IC_COALESCED => ⟨.intr, 0x608, 8, 1, 64, .nobody, some .IC_CTRL⟩
  | .IC_STORM => ⟨.intr, 0x610, 8, 1, 64, .nobody, some .IC_CTRL⟩
  | .IC_STUCK => ⟨.intr, 0x618, 8, 1, 64, .nobody, some .IC_CTRL⟩
  | .IC_STACK_FAULT => ⟨.intr, 0x620, 8, 1, 64, .nobody, some .IC_CTRL⟩
  | .IC_SRC => ⟨.intr, 0x8000, 8, 4096, 64, .controlOnly, none⟩
  | .PL_STATUS => ⟨.pilot, 0x0, 8, 1, 64, .nobody, none⟩
  | .PL_WAKE => ⟨.pilot, 0x100, 8, 32, 32, .controlOnly, none⟩
  | .HL_CTRL => ⟨.hostLink, 0x0, 8, 1, 32, .controlOnly, none⟩
  | .HL_STATUS => ⟨.hostLink, 0x8, 8, 1, 32, .nobody, none⟩
  | .HL_BAR2 => ⟨.hostLink, 0x10, 8, 1, 64, .hostAndControl, none⟩
  | .HL_PTM => ⟨.hostLink, 0x18, 8, 1, 64, .nobody, none⟩
  | .HL_BAR2_BAD => ⟨.hostLink, 0x40, 8, 1, 64, .nobody, some .HL_CTRL⟩
  | .HL_CPL_TIMEOUT => ⟨.hostLink, 0x48, 8, 1, 64, .nobody, some .HL_CTRL⟩
  | .HL_RETRAIN => ⟨.hostLink, 0x50, 8, 1, 64, .nobody, some .HL_CTRL⟩
  | .HL_POISON_RX => ⟨.hostLink, 0x58, 8, 1, 64, .nobody, some .HL_CTRL⟩
  | .PM_CTRL => ⟨.power, 0x0, 8, 1, 32, .controlOnly, none⟩
  | .PM_STATUS => ⟨.power, 0x8, 8, 1, 64, .controlOnly, none⟩
  | .PM_LIMIT => ⟨.power, 0x10, 8, 1, 32, .controlOnly, none⟩
  | .PM_EST => ⟨.power, 0x18, 8, 1, 64, .nobody, none⟩
  | .PM_PHASEMAP => ⟨.power, 0x20, 8, 1, 32, .controlOnly, none⟩
  | .PM_TRIP => ⟨.power, 0x28, 8, 1, 32, .controlOnly, none⟩
  | .PM_OPP => ⟨.power, 0x100, 8, 16, 64, .controlOnly, none⟩
  | .PM_THROTTLE_INT => ⟨.power, 0x200, 8, 1, 64, .nobody, some .PM_CTRL⟩
  | .ISL_STATUS => ⟨.island, 0x1800, 8, 1, 64, .nobody, none⟩
  | .ISL_AGE => ⟨.island, 0x1808, 8, 1, 32, .controlOnly, none⟩
  | .ISL_DROOPS => ⟨.island, 0x1810, 8, 1, 64, .nobody, some .PM_CTRL⟩
  | .ISL_RAMPS => ⟨.island, 0x1818, 8, 1, 64, .nobody, some .PM_CTRL⟩
  | .MTR_ID => ⟨.meter, 0x0, 8, 1, 64, .nobody, none⟩
  | .MTR_VERSION => ⟨.meter, 0x8, 8, 1, 64, .nobody, none⟩
  | .MTR_STATUS => ⟨.meter, 0x10, 8, 1, 32, .nobody, none⟩
  | .MTR_ENERGY => ⟨.meter, 0x18, 8, 1, 64, .nobody, none⟩
  | .MTR_POWER => ⟨.meter, 0x20, 8, 1, 32, .nobody, none⟩
  | .MTR_RECORDS => ⟨.meter, 0x28, 8, 1, 64, .nobody, none⟩
  | .MTR_EVENTS => ⟨.meter, 0x30, 8, 1, 32, .nobody, none⟩
  | .MTR_TAG => ⟨.meter, 0x38, 8, 1, 64, .nobody, none⟩
  | .MTR_TIME => ⟨.meter, 0x40, 8, 1, 64, .nobody, none⟩
  | .BOOT_STATUS => ⟨.boot, 0x0, 8, 1, 64, .controlOnly, none⟩
  | .RT_MEAS => ⟨.boot, 0x100, 8, 64, 64, .nobody, none⟩
  | .ERR_CTRL => ⟨.errors, 0x0, 8, 1, 32, .controlOnly, none⟩
  | .ERR_STATUS => ⟨.errors, 0x8, 8, 1, 64, .nobody, none⟩
  | .ERR_CE => ⟨.errors, 0x40, 8, 1, 64, .nobody, some .ERR_CTRL⟩
  | .ERR_UE => ⟨.errors, 0x48, 8, 1, 64, .nobody, some .ERR_CTRL⟩
  | .ERR_MERGED => ⟨.errors, 0x50, 8, 1, 64, .nobody, some .ERR_CTRL⟩
  | .ERR_LOG => ⟨.errors, 0x1000, 8, 1024, 64, .nobody, none⟩
  | .SC_REPAIR => ⟨.stackCtl, 0xA80, 8, 1, 64, .nobody, none⟩
  | .CL_SPARE => ⟨.cluster, 0xC00, 8, 1, 32, .controlOnly, none⟩
  | .CL_SPARE_FUSE => ⟨.cluster, 0xC08, 8, 1, 32, .nobody, none⟩
  | .CL_SPARE_PROG => ⟨.cluster, 0xC10, 8, 1, 32, .controlOnly, none⟩
  | .CL_SPARE_STATUS => ⟨.cluster, 0xC18, 8, 1, 32, .controlOnly, none⟩
  | .CB_CTRL => ⟨.bank, 0x0, 8, 1, 32, .controlOnly, none⟩
  | .CB_STATUS => ⟨.bank, 0x8, 8, 1, 64, .nobody, none⟩
  | .CB_CNT => ⟨.bank, 0x40, 8, 16, 64, .nobody, some .CB_CTRL⟩
  | .CB_SHADOW => ⟨.bank, 0x80, 8, 16, 64, .nobody, none⟩

namespace Fld

def FMT_CTRL_STATS_EN : Fld := ⟨.FMT_CTRL, 0, 1⟩
def FMT_CTRL_SR_ALLOW : Fld := ⟨.FMT_CTRL, 1, 1⟩
def FMT_CTRL_CLEAR : Fld := ⟨.FMT_CTRL, 2, 1⟩
def FMT_CTRL_NAN_SEEN : Fld := ⟨.FMT_CTRL, 3, 1⟩
def FMT_CTRL_SAT_SEEN : Fld := ⟨.FMT_CTRL, 4, 1⟩
def SR_CTR_COUNT : Fld := ⟨.SR_CTR, 0, 64⟩
def FMT_STAT_VALUE : Fld := ⟨.FMT_STAT, 0, 48⟩
def ARR_CTRL_CNT_EN : Fld := ⟨.ARR_CTRL, 0, 1⟩
def ARR_CTRL_HOLD : Fld := ⟨.ARR_CTRL, 1, 1⟩
def ARR_CTRL_CNT_CLEAR : Fld := ⟨.ARR_CTRL, 2, 1⟩
def ARR_STATUS_BUSY : Fld := ⟨.ARR_STATUS, 0, 1⟩
def ARR_STATUS_A_VALID : Fld := ⟨.ARR_STATUS, 1, 1⟩
def ARR_STATUS_B_VALID : Fld := ⟨.ARR_STATUS, 2, 1⟩
def ARR_STATUS_LOADING : Fld := ⟨.ARR_STATUS, 3, 1⟩
def ARR_STATUS_MIRROR : Fld := ⟨.ARR_STATUS, 4, 1⟩
def ARR_STATUS_HELD_SW : Fld := ⟨.ARR_STATUS, 5, 1⟩
def ARR_STATUS_HELD_DROOP : Fld := ⟨.ARR_STATUS, 6, 1⟩
def ARR_STATUS_PROG_BUSY : Fld := ⟨.ARR_STATUS, 7, 1⟩
def ARR_STATUS_PROG_REJECT : Fld := ⟨.ARR_STATUS, 8, 1⟩
def ARR_STATUS_A_FMT : Fld := ⟨.ARR_STATUS, 9, 4⟩
def ARR_STATUS_B_FMT : Fld := ⟨.ARR_STATUS, 13, 4⟩
def ARR_REMAP_ROW_FOR : Fld := ⟨.ARR_REMAP, 0, 5⟩
def ARR_FUSE_ROW_FOR : Fld := ⟨.ARR_FUSE, 0, 5⟩
def ARR_FUSE_PROG_ROW_FOR : Fld := ⟨.ARR_FUSE_PROG, 0, 5⟩
def ARR_REMAP_ROW_EN : Fld := ⟨.ARR_REMAP, 5, 1⟩
def ARR_FUSE_ROW_EN : Fld := ⟨.ARR_FUSE, 5, 1⟩
def ARR_FUSE_PROG_ROW_EN : Fld := ⟨.ARR_FUSE_PROG, 5, 1⟩
def ARR_REMAP_COL_FOR : Fld := ⟨.ARR_REMAP, 6, 5⟩
def ARR_FUSE_COL_FOR : Fld := ⟨.ARR_FUSE, 6, 5⟩
def ARR_FUSE_PROG_COL_FOR : Fld := ⟨.ARR_FUSE_PROG, 6, 5⟩
def ARR_REMAP_COL_EN : Fld := ⟨.ARR_REMAP, 11, 1⟩
def ARR_FUSE_COL_EN : Fld := ⟨.ARR_FUSE, 11, 1⟩
def ARR_FUSE_PROG_COL_EN : Fld := ⟨.ARR_FUSE_PROG, 11, 1⟩
def ARR_BEATS_VALUE : Fld := ⟨.ARR_BEATS, 0, 48⟩
def ARR_BUB_FEED_VALUE : Fld := ⟨.ARR_BUB_FEED, 0, 48⟩
def ARR_BUB_ACC_VALUE : Fld := ⟨.ARR_BUB_ACC, 0, 48⟩
def ARR_BUB_WGT_VALUE : Fld := ⟨.ARR_BUB_WGT, 0, 48⟩
def AM_CTRL_CNT_EN : Fld := ⟨.AM_CTRL, 0, 1⟩
def AM_CTRL_CLEAR_ALL : Fld := ⟨.AM_CTRL, 1, 1⟩
def AM_CTRL_CNT_CLEAR : Fld := ⟨.AM_CTRL, 2, 1⟩
def AM_STATUS_BUSY : Fld := ⟨.AM_STATUS, 0, 1⟩
def AM_STATUS_CLEARING : Fld := ⟨.AM_STATUS, 1, 1⟩
def AM_STATUS_OVF_SEEN : Fld := ⟨.AM_STATUS, 2, 1⟩
def AM_STATUS_NF_SEEN : Fld := ⟨.AM_STATUS, 3, 1⟩
def AM_STATUS_STATE_FAULT : Fld := ⟨.AM_STATUS, 4, 1⟩
def AM_MODE_ROW : Fld := ⟨.AM_MODE, 0, 9⟩
def AM_MODE_A0_STATE : Fld := ⟨.AM_MODE, 9, 3⟩
def AM_MODE_A1_STATE : Fld := ⟨.AM_MODE, 12, 3⟩
def AM_MODE_A2_STATE : Fld := ⟨.AM_MODE, 15, 3⟩
def AM_MODE_A3_STATE : Fld := ⟨.AM_MODE, 18, 3⟩
def AM_MODE_LO_LIVE : Fld := ⟨.AM_MODE, 21, 4⟩
def AM_MODE_HI_LIVE : Fld := ⟨.AM_MODE, 25, 4⟩
def AM_OVF_VALUE : Fld := ⟨.AM_OVF, 0, 48⟩
def AM_NF_IN_VALUE : Fld := ⟨.AM_NF_IN, 0, 48⟩
def AM_VEC_WAIT_VALUE : Fld := ⟨.AM_VEC_WAIT, 0, 48⟩
def SEQ_CTRL_CNT_EN : Fld := ⟨.SEQ_CTRL, 0, 1⟩
def SEQ_CTRL_REEL : Fld := ⟨.SEQ_CTRL, 1, 1⟩
def SEQ_CTRL_HALT_ISSUE : Fld := ⟨.SEQ_CTRL, 2, 1⟩
def SEQ_CTRL_CNT_CLEAR : Fld := ⟨.SEQ_CTRL, 3, 1⟩
def SEQ_CTRL_ICINV : Fld := ⟨.SEQ_CTRL, 4, 1⟩
def SEQ_STATUS_ACTIVE : Fld := ⟨.SEQ_STATUS, 0, 8⟩
def SEQ_STATUS_READY : Fld := ⟨.SEQ_STATUS, 8, 8⟩
def SEQ_STATUS_FAULTED : Fld := ⟨.SEQ_STATUS, 16, 8⟩
def SEQ_STATUS_REEL_ON : Fld := ⟨.SEQ_STATUS, 24, 1⟩
def SEQ_STATUS_ISSUE_HALTED : Fld := ⟨.SEQ_STATUS, 25, 1⟩
def SEQ_STATUS_ISA_LEVEL : Fld := ⟨.SEQ_STATUS, 28, 4⟩
def SEQ_VLEASE_HOLDER : Fld := ⟨.SEQ_VLEASE, 0, 7⟩
def SEQ_VLEASE_HELD : Fld := ⟨.SEQ_VLEASE, 7, 1⟩
def SEQ_VLEASE_WAITERS : Fld := ⟨.SEQ_VLEASE, 8, 8⟩
def THR_STATE_STATE : Fld := ⟨.THR_STATE, 0, 3⟩
def THR_STATE_PRIO : Fld := ⟨.THR_STATE, 3, 2⟩
def THR_STATE_PIN : Fld := ⟨.THR_STATE, 5, 1⟩
def THR_STATE_PRED : Fld := ⟨.THR_STATE, 6, 8⟩
def THR_STATE_WAIT_CAUSE : Fld := ⟨.THR_STATE, 14, 4⟩
def THR_STATE_FAULT : Fld := ⟨.THR_STATE, 18, 4⟩
def THR_STATE_OUTSTANDING : Fld := ⟨.THR_STATE, 22, 4⟩
def THR_STATE_LEASE : Fld := ⟨.THR_STATE, 26, 1⟩
def THR_STATE_LAUNCHED : Fld := ⟨.THR_STATE, 27, 1⟩
def THR_PC_PC : Fld := ⟨.THR_PC, 0, 52⟩
def THR_XREG_VALUE : Fld := ⟨.THR_XREG, 0, 64⟩
def SEQ_ISSUED_VALUE : Fld := ⟨.SEQ_ISSUED, 0, 48⟩
def SEQ_EMPTY_VALUE : Fld := ⟨.SEQ_EMPTY, 0, 48⟩
def SEQ_STARVE_VALUE : Fld := ⟨.SEQ_STARVE, 0, 48⟩
def SEQ_FAULTS_VALUE : Fld := ⟨.SEQ_FAULTS, 0, 48⟩
def BANK_OWN_OWNER : Fld := ⟨.BANK_OWN, 0, 3⟩
def BANK_OWN_THREAD_EN : Fld := ⟨.BANK_OWN, 3, 1⟩
def BANK_OWN_THREAD : Fld := ⟨.BANK_OWN, 4, 7⟩
def BANK_OWN_PENDING : Fld := ⟨.BANK_OWN, 11, 1⟩
def BANK_OWN_CUR_OWNER : Fld := ⟨.BANK_OWN, 12, 3⟩
def BANK_OWN_CUR_THREAD_EN : Fld := ⟨.BANK_OWN, 15, 1⟩
def BANK_OWN_CUR_THREAD : Fld := ⟨.BANK_OWN, 16, 7⟩
def BANK_CTRL_CNT_EN : Fld := ⟨.BANK_CTRL, 0, 1⟩
def BANK_CTRL_CNT_CLEAR : Fld := ⟨.BANK_CTRL, 1, 1⟩
def BANK_STATUS_CLEARING : Fld := ⟨.BANK_STATUS, 0, 1⟩
def BANK_STATUS_LONG_WAIT : Fld := ⟨.BANK_STATUS, 1, 4⟩
def BANK_WAIT_OWN_VALUE : Fld := ⟨.BANK_WAIT_OWN, 0, 48⟩
def BANK_WAIT_PORT_VALUE : Fld := ⟨.BANK_WAIT_PORT, 0, 48⟩
def PRU_CTRL_CNT_EN : Fld := ⟨.PRU_CTRL, 0, 1⟩
def SPK_CTRL_CNT_EN : Fld := ⟨.SPK_CTRL, 0, 1⟩
def PRU_CTRL_CNT_CLEAR : Fld := ⟨.PRU_CTRL, 1, 1⟩
def SPK_CTRL_CNT_CLEAR : Fld := ⟨.SPK_CTRL, 1, 1⟩
def PRU_MASK_IN_VALUE : Fld := ⟨.PRU_MASK_IN, 0, 48⟩
def PRU_GROUP_CHG_VALUE : Fld := ⟨.PRU_GROUP_CHG, 0, 48⟩
def SPK_DROPPED_VALUE : Fld := ⟨.SPK_DROPPED, 0, 48⟩
def SPK_DENSE_VALUE : Fld := ⟨.SPK_DENSE, 0, 48⟩
def SMP_CTRL_CNT_EN : Fld := ⟨.SMP_CTRL, 0, 1⟩
def SMP_CTRL_HOLD : Fld := ⟨.SMP_CTRL, 1, 1⟩
def SMP_CTRL_CNT_CLEAR : Fld := ⟨.SMP_CTRL, 2, 1⟩
def SMP_CTRL_GDINV : Fld := ⟨.SMP_CTRL, 3, 1⟩
def SMP_STATUS_BUSY : Fld := ⟨.SMP_STATUS, 0, 1⟩
def SMP_STATUS_ACTIVE : Fld := ⟨.SMP_STATUS, 1, 3⟩
def SMP_STATUS_INFLIGHT : Fld := ⟨.SMP_STATUS, 4, 6⟩
def SMP_STATUS_HELD : Fld := ⟨.SMP_STATUS, 10, 1⟩
def SMP_STATUS_ERR_SEEN : Fld := ⟨.SMP_STATUS, 11, 1⟩
def SMP_STATUS_GDC_VALID : Fld := ⟨.SMP_STATUS, 12, 4⟩
def SMP_ERR_STATUS : Fld := ⟨.SMP_ERR, 0, 8⟩
def SMP_ERR_QUEUE : Fld := ⟨.SMP_ERR, 8, 4⟩
def SMP_ERR_SEQ : Fld := ⟨.SMP_ERR, 12, 32⟩
def SMP_RECORDS_VALUE : Fld := ⟨.SMP_RECORDS, 0, 48⟩
def SMP_VOID_VALUE : Fld := ⟨.SMP_VOID, 0, 48⟩
def SMP_CLAMP_VALUE : Fld := ⟨.SMP_CLAMP, 0, 48⟩
def SMP_BADROW_VALUE : Fld := ⟨.SMP_BADROW, 0, 48⟩
def SMP_TRUNC_VALUE : Fld := ⟨.SMP_TRUNC, 0, 48⟩
def SMP_RESTART_VALUE : Fld := ⟨.SMP_RESTART, 0, 48⟩
def SMP_DEADEND_VALUE : Fld := ⟨.SMP_DEADEND, 0, 48⟩
def SMP_VARIATES_VALUE : Fld := ⟨.SMP_VARIATES, 0, 48⟩
def GS_CTRL_CNT_EN : Fld := ⟨.GS_CTRL, 0, 1⟩
def GS_CTRL_HOLD : Fld := ⟨.GS_CTRL, 1, 1⟩
def GS_CTRL_CNT_CLEAR : Fld := ⟨.GS_CTRL, 2, 1⟩
def GS_CTRL_HOT_EN : Fld := ⟨.GS_CTRL, 3, 1⟩
def GS_CTRL_HOT_FLUSH : Fld := ⟨.GS_CTRL, 4, 1⟩
def GS_STATUS_BUSY : Fld := ⟨.GS_STATUS, 0, 1⟩
def GS_STATUS_ACTIVE : Fld := ⟨.GS_STATUS, 1, 3⟩
def GS_STATUS_SLOTS : Fld := ⟨.GS_STATUS, 4, 11⟩
def GS_STATUS_WINDOW : Fld := ⟨.GS_STATUS, 15, 13⟩
def GS_STATUS_HELD : Fld := ⟨.GS_STATUS, 28, 1⟩
def GS_STATUS_ERR_SEEN : Fld := ⟨.GS_STATUS, 29, 1⟩
def GS_QUOTA_QUOTA : Fld := ⟨.GS_QUOTA, 0, 11⟩
def GS_HOT_THRESH : Fld := ⟨.GS_HOT, 0, 16⟩
def GS_HOT_WINDOW_LOG : Fld := ⟨.GS_HOT, 16, 5⟩
def GS_HOT_VALID : Fld := ⟨.GS_HOT, 21, 7⟩
def GS_ERR_STATUS : Fld := ⟨.GS_ERR, 0, 8⟩
def GS_ERR_QUEUE : Fld := ⟨.GS_ERR, 8, 4⟩
def GS_ERR_SEQ : Fld := ⟨.GS_ERR, 12, 32⟩
def GS_ERR_SCATTER : Fld := ⟨.GS_ERR, 44, 1⟩
def GS_ROWS_VALUE : Fld := ⟨.GS_ROWS, 0, 48⟩
def GS_MERGED_VALUE : Fld := ⟨.GS_MERGED, 0, 48⟩
def GS_VOID_VALUE : Fld := ⟨.GS_VOID, 0, 48⟩
def GS_CLAMP_VALUE : Fld := ⟨.GS_CLAMP, 0, 48⟩
def GS_QUOTA_STALL_VALUE : Fld := ⟨.GS_QUOTA_STALL, 0, 48⟩
def GS_MEM_ADDS_VALUE : Fld := ⟨.GS_MEM_ADDS, 0, 48⟩
def GS_HOT_PROMOTE_VALUE : Fld := ⟨.GS_HOT_PROMOTE, 0, 48⟩
def GS_HOT_ADDS_VALUE : Fld := ⟨.GS_HOT_ADDS, 0, 48⟩
def GS_HOT_FLUSH_VALUE : Fld := ⟨.GS_HOT_FLUSH, 0, 48⟩
def GS_HOT_FULL_VALUE : Fld := ⟨.GS_HOT_FULL, 0, 48⟩
def EMB_CTRL_CNT_EN : Fld := ⟨.EMB_CTRL, 0, 1⟩
def EMB_CTRL_HOLD : Fld := ⟨.EMB_CTRL, 1, 1⟩
def EMB_CTRL_CNT_CLEAR : Fld := ⟨.EMB_CTRL, 2, 1⟩
def EMB_STATUS_BUSY : Fld := ⟨.EMB_STATUS, 0, 1⟩
def EMB_STATUS_ACTIVE : Fld := ⟨.EMB_STATUS, 1, 5⟩
def EMB_STATUS_HELD : Fld := ⟨.EMB_STATUS, 6, 1⟩
def EMB_STATUS_ERR_SEEN : Fld := ⟨.EMB_STATUS, 7, 1⟩
def EMB_STATUS_REFL_VALID : Fld := ⟨.EMB_STATUS, 8, 15⟩
def EMB_ERR_STATUS : Fld := ⟨.EMB_ERR, 0, 8⟩
def EMB_ERR_QUEUE : Fld := ⟨.EMB_ERR, 8, 10⟩
def EMB_ERR_SEQ : Fld := ⟨.EMB_ERR, 18, 32⟩
def EMB_ERR_BACKWARD : Fld := ⟨.EMB_ERR, 50, 1⟩
def EMB_TIER_FAST_VALUE : Fld := ⟨.EMB_TIER_FAST, 0, 48⟩
def EMB_TIER_SLOW_VALUE : Fld := ⟨.EMB_TIER_SLOW, 0, 48⟩
def EMB_TIER_HOST_VALUE : Fld := ⟨.EMB_TIER_HOST, 0, 48⟩
def EMB_REFL_HIT_VALUE : Fld := ⟨.EMB_REFL_HIT, 0, 48⟩
def EMB_REFL_STALE_VALUE : Fld := ⟨.EMB_REFL_STALE, 0, 48⟩
def EMB_CLAMP_VALUE : Fld := ⟨.EMB_CLAMP, 0, 48⟩
def EMB_GRAD_ROWS_VALUE : Fld := ⟨.EMB_GRAD_ROWS, 0, 48⟩
def EMB_LATE_VALUE : Fld := ⟨.EMB_LATE, 0, 48⟩
def EMB_LIST_FULL_VALUE : Fld := ⟨.EMB_LIST_FULL, 0, 48⟩
def EMB_REMOTE_VALUE : Fld := ⟨.EMB_REMOTE, 0, 48⟩
def MEM_MAP_IL_GIB : Fld := ⟨.MEM_MAP, 0, 6⟩
def MEM_MAP_PRESENT : Fld := ⟨.MEM_MAP, 6, 12⟩
def HW_MAP_BASE : Fld := ⟨.HW_MAP, 12, 52⟩
def SC_CTRL_CNT_EN : Fld := ⟨.SC_CTRL, 0, 1⟩
def SC_CTRL_CNT_CLEAR : Fld := ⟨.SC_CTRL, 1, 1⟩
def SC_CTRL_PF_EN : Fld := ⟨.SC_CTRL, 2, 1⟩
def SC_STATUS_WAYS : Fld := ⟨.SC_STATUS, 0, 5⟩
def SC_STATUS_STREAMS : Fld := ⟨.SC_STATUS, 5, 7⟩
def SC_STATUS_WB_ACTIVE : Fld := ⟨.SC_STATUS, 12, 1⟩
def SC_PIN_EN : Fld := ⟨.SC_PIN, 0, 1⟩
def PF_CTRL_DIST : Fld := ⟨.PF_CTRL, 0, 7⟩
def SC_CLASS_PRIO : Fld := ⟨.SC_CLASS, 0, 2⟩
def SC_CLASS_DAR : Fld := ⟨.SC_CLASS, 2, 1⟩
def SC_CLASS_WALLOC : Fld := ⟨.SC_CLASS, 3, 1⟩
def SC_CLASS_PF : Fld := ⟨.SC_CLASS, 4, 1⟩
def SC_RANGE_LO_BASE : Fld := ⟨.SC_RANGE_LO, 12, 40⟩
def SC_RANGE_LO_CLASS : Fld := ⟨.SC_RANGE_LO, 52, 3⟩
def SC_RANGE_LO_VALID : Fld := ⟨.SC_RANGE_LO, 63, 1⟩
def SC_RANGE_HI_LIMIT : Fld := ⟨.SC_RANGE_HI, 12, 40⟩
def SC_HIT_VALUE : Fld := ⟨.SC_HIT, 0, 48⟩
def SC_MISS_VALUE : Fld := ⟨.SC_MISS, 0, 48⟩
def SC_WB_VALUE : Fld := ⟨.SC_WB, 0, 48⟩
def SC_DEAD_EVICT_VALUE : Fld := ⟨.SC_DEAD_EVICT, 0, 48⟩
def SC_RAM_ADDS_VALUE : Fld := ⟨.SC_RAM_ADDS, 0, 48⟩
def PF_ISSUED_VALUE : Fld := ⟨.PF_ISSUED, 0, 48⟩
def PF_USED_VALUE : Fld := ⟨.PF_USED, 0, 48⟩
def PF_LATE_VALUE : Fld := ⟨.PF_LATE, 0, 48⟩
def PF_UNUSED_VALUE : Fld := ⟨.PF_UNUSED, 0, 48⟩
def PF_OVERTAKEN_VALUE : Fld := ⟨.PF_OVERTAKEN, 0, 48⟩
def DMA_CTRL_CNT_EN : Fld := ⟨.DMA_CTRL, 0, 1⟩
def DMA_CTRL_HOLD : Fld := ⟨.DMA_CTRL, 1, 1⟩
def DMA_CTRL_CNT_CLEAR : Fld := ⟨.DMA_CTRL, 2, 1⟩
def DMA_STATUS_ACTIVE : Fld := ⟨.DMA_STATUS, 0, 2⟩
def DMA_STATUS_FIFO : Fld := ⟨.DMA_STATUS, 2, 7⟩
def DMA_STATUS_HELD : Fld := ⟨.DMA_STATUS, 9, 1⟩
def DMA_STATUS_ERR_SEEN : Fld := ⟨.DMA_STATUS, 10, 1⟩
def DMA_ERR_STATUS : Fld := ⟨.DMA_ERR, 0, 8⟩
def DMA_ERR_SEQ : Fld := ⟨.DMA_ERR, 8, 32⟩
def DMA_ERR_FROM_QUEUE : Fld := ⟨.DMA_ERR, 40, 1⟩
def DMA_DESC_VALUE : Fld := ⟨.DMA_DESC, 0, 48⟩
def DMA_RD_BYTES_VALUE : Fld := ⟨.DMA_RD_BYTES, 0, 48⟩
def DMA_WR_BYTES_VALUE : Fld := ⟨.DMA_WR_BYTES, 0, 48⟩
def DMA_CLAMPS_VALUE : Fld := ⟨.DMA_CLAMPS, 0, 48⟩
def UPD_CTRL_CNT_EN : Fld := ⟨.UPD_CTRL, 0, 1⟩
def UPD_CTRL_HOLD : Fld := ⟨.UPD_CTRL, 1, 1⟩
def UPD_CTRL_CNT_CLEAR : Fld := ⟨.UPD_CTRL, 2, 1⟩
def UPD_STATUS_BUSY : Fld := ⟨.UPD_STATUS, 0, 1⟩
def UPD_STATUS_HELD : Fld := ⟨.UPD_STATUS, 1, 1⟩
def UPD_STATUS_ERR_SEEN : Fld := ⟨.UPD_STATUS, 2, 1⟩
def UPD_STATUS_NF_SEEN : Fld := ⟨.UPD_STATUS, 3, 1⟩
def UPD_STATUS_VERDICT_WAIT : Fld := ⟨.UPD_STATUS, 4, 1⟩
def UPD_STATUS_WALKING : Fld := ⟨.UPD_STATUS, 5, 1⟩
def UPD_GT_SEL_INDEX : Fld := ⟨.UPD_GT_SEL, 0, 12⟩
def UPD_GT_SEL_BANK : Fld := ⟨.UPD_GT_SEL, 12, 1⟩
def UPD_VERDICT_STEP : Fld := ⟨.UPD_VERDICT, 0, 32⟩
def UPD_VERDICT_CODE : Fld := ⟨.UPD_VERDICT, 32, 2⟩
def UPD_VERDICT_LOCAL_NF : Fld := ⟨.UPD_VERDICT, 34, 1⟩
def UPD_VERDICT_REPORTED : Fld := ⟨.UPD_VERDICT, 35, 1⟩
def UPD_ERR_STATUS : Fld := ⟨.UPD_ERR, 0, 8⟩
def UPD_ERR_SEQ : Fld := ⟨.UPD_ERR, 8, 32⟩
def UPD_APPLIED_VALUE : Fld := ⟨.UPD_APPLIED, 0, 48⟩
def UPD_FROZEN_VALUE : Fld := ⟨.UPD_FROZEN, 0, 48⟩
def UPD_NF_STEP_VALUE : Fld := ⟨.UPD_NF_STEP, 0, 48⟩
def UPD_NOCONTRIB_VALUE : Fld := ⟨.UPD_NOCONTRIB, 0, 48⟩
def UPD_STAMP_SKIP_VALUE : Fld := ⟨.UPD_STAMP_SKIP, 0, 48⟩
def UPD_STAMP_AHEAD_VALUE : Fld := ⟨.UPD_STAMP_AHEAD, 0, 48⟩
def UPD_NF_BLOCK_VALUE : Fld := ⟨.UPD_NF_BLOCK, 0, 48⟩
def UPD_CLIPPED_VALUE : Fld := ⟨.UPD_CLIPPED, 0, 48⟩
def UPD_CURVE_ESC_VALUE : Fld := ⟨.UPD_CURVE_ESC, 0, 48⟩
def UPD_CURVE_FALLBACK_VALUE : Fld := ⟨.UPD_CURVE_FALLBACK, 0, 48⟩
def UPD_RESTORED_VALUE : Fld := ⟨.UPD_RESTORED, 0, 48⟩
def UPD_WC_MISMATCH_VALUE : Fld := ⟨.UPD_WC_MISMATCH, 0, 48⟩
def UPD_VERDICT_WAIT_VALUE : Fld := ⟨.UPD_VERDICT_WAIT, 0, 48⟩
def SYNC_CTRL_CNT_EN : Fld := ⟨.SYNC_CTRL, 0, 1⟩
def SYNC_CTRL_CNT_CLEAR : Fld := ⟨.SYNC_CTRL, 1, 1⟩
def SYNC_CTRL_HOLD_LIMIT : Fld := ⟨.SYNC_CTRL, 2, 8⟩
def SYNC_STATUS_WAITS : Fld := ⟨.SYNC_STATUS, 0, 13⟩
def SYNC_STATUS_HELD : Fld := ⟨.SYNC_STATUS, 13, 9⟩
def SYNC_STATUS_HOLD_LATE : Fld := ⟨.SYNC_STATUS, 22, 1⟩
def SYNC_SEL_COUNTER : Fld := ⟨.SYNC_SEL, 0, 16⟩
def SYNC_VIEW0_VALUE : Fld := ⟨.SYNC_VIEW, 0, 32⟩
def SYNC_VIEW0_SAT_HI : Fld := ⟨.SYNC_VIEW, 32, 1⟩
def SYNC_VIEW0_SAT_LO : Fld := ⟨.SYNC_VIEW, 33, 1⟩
def SYNC_VIEW0_ABANDONED : Fld := ⟨.SYNC_VIEW, 34, 1⟩
def SYNC_VIEW0_WAITERS : Fld := ⟨.SYNC_VIEW, 35, 13⟩
def SYNC_VIEW1_OWNER : Fld := ⟨.SYNC_VIEW, 0, 28⟩
def SYNC_VIEW1_LAST_SIGNALLER : Fld := ⟨.SYNC_VIEW, 32, 32⟩
def SYNC_VIEW2_LAST_SEQ : Fld := ⟨.SYNC_VIEW, 0, 32⟩
def SYNC_VIEW3_WAITER0 : Fld := ⟨.SYNC_VIEW, 0, 32⟩
def SYNC_VIEW3_WAITER1 : Fld := ⟨.SYNC_VIEW, 32, 32⟩
def SYNC_VIEW4_WAITER2 : Fld := ⟨.SYNC_VIEW, 0, 32⟩
def SYNC_VIEW4_WAITER3 : Fld := ⟨.SYNC_VIEW, 32, 32⟩
def SYNC_CMD_OP : Fld := ⟨.SYNC_CMD, 0, 3⟩
def SYNC_CMD_ARG : Fld := ⟨.SYNC_CMD, 32, 32⟩
def SYNC_ERR_MODULE : Fld := ⟨.SYNC_ERR, 0, 16⟩
def SYNC_ERR_LEVEL : Fld := ⟨.SYNC_ERR, 16, 2⟩
def SYNC_ERR_SEQ : Fld := ⟨.SYNC_ERR, 18, 32⟩
def SYNC_OPS_VALUE : Fld := ⟨.SYNC_OPS, 0, 48⟩
def SYNC_SAT_VALUE : Fld := ⟨.SYNC_SAT, 0, 48⟩
def SYNC_ABANDON_REL_VALUE : Fld := ⟨.SYNC_ABANDON_REL, 0, 48⟩
def SYNC_WAITFULL_VALUE : Fld := ⟨.SYNC_WAITFULL, 0, 48⟩
def SYNC_RX_HELD_VALUE : Fld := ⟨.SYNC_RX_HELD, 0, 48⟩
def FR_CTRL_CNT_EN : Fld := ⟨.FR_CTRL, 0, 1⟩
def FR_CTRL_CNT_CLEAR : Fld := ⟨.FR_CTRL, 1, 1⟩
def FR_CTRL_HOLD : Fld := ⟨.FR_CTRL, 2, 1⟩
def FR_CTRL_BREAK_MS : Fld := ⟨.FR_CTRL, 3, 13⟩
def FR_CTRL_DEADLINE_US : Fld := ⟨.FR_CTRL, 16, 16⟩
def FR_STATUS_BUSY : Fld := ⟨.FR_STATUS, 0, 1⟩
def FR_STATUS_HELD : Fld := ⟨.FR_STATUS, 1, 1⟩
def FR_STATUS_LEVELS : Fld := ⟨.FR_STATUS, 2, 2⟩
def FR_STATUS_BREAK : Fld := ⟨.FR_STATUS, 4, 1⟩
def FR_STATUS_NF_SEEN : Fld := ⟨.FR_STATUS, 5, 1⟩
def FR_STATUS_OPEN : Fld := ⟨.FR_STATUS, 6, 9⟩
def FR_STATUS_BACKUP : Fld := ⟨.FR_STATUS, 15, 1⟩
def FR_SEAL_LOCAL : Fld := ⟨.FR_SEAL, 0, 32⟩
def FR_SEAL_JOB : Fld := ⟨.FR_SEAL, 32, 32⟩
def FR_NF_FIRST_STEP : Fld := ⟨.FR_NF_FIRST, 0, 32⟩
def FR_NF_FIRST_BUCKET : Fld := ⟨.FR_NF_FIRST, 32, 8⟩
def FR_NF_FIRST_QUARTER : Fld := ⟨.FR_NF_FIRST, 40, 2⟩
def FR_NF_FIRST_LEVEL : Fld := ⟨.FR_NF_FIRST, 42, 2⟩
def FR_NF_FIRST_CAUSE : Fld := ⟨.FR_NF_FIRST, 44, 3⟩
def FR_NF_FIRST_VALID : Fld := ⟨.FR_NF_FIRST, 47, 1⟩
def FR_NF_FIRST_MODULE : Fld := ⟨.FR_NF_FIRST, 48, 16⟩
def FR_BREAK_STEP : Fld := ⟨.FR_BREAK, 0, 32⟩
def FR_BREAK_LEVEL : Fld := ⟨.FR_BREAK, 32, 2⟩
def FR_BREAK_DIE : Fld := ⟨.FR_BREAK, 34, 2⟩
def FR_BREAK_SIDE : Fld := ⟨.FR_BREAK, 36, 1⟩
def FR_BREAK_CAUSE : Fld := ⟨.FR_BREAK, 37, 1⟩
def FR_BREAK_VALID : Fld := ⟨.FR_BREAK, 38, 1⟩
def RE_CTRL_CNT_EN : Fld := ⟨.RE_CTRL, 0, 1⟩
def RE_CTRL_CNT_CLEAR : Fld := ⟨.RE_CTRL, 1, 1⟩
def RE_STATUS_BUSY : Fld := ⟨.RE_STATUS, 0, 1⟩
def RE_STATUS_PARKED : Fld := ⟨.RE_STATUS, 1, 9⟩
def RE_STATUS_LINK_UP : Fld := ⟨.RE_STATUS, 10, 3⟩
def RL_POS_POSITION : Fld := ⟨.RL_POS, 0, 16⟩
def RL_POS_SIZE_M1 : Fld := ⟨.RL_POS, 16, 16⟩
def RL_POS_SUCC : Fld := ⟨.RL_POS, 32, 16⟩
def RL_POS_PRED : Fld := ⟨.RL_POS, 48, 16⟩
def RL_BACKUP_BACKUP : Fld := ⟨.RL_BACKUP, 0, 16⟩
def RL_BACKUP_BACKUP_EN : Fld := ⟨.RL_BACKUP, 16, 1⟩
def RL_BACKUP_IS_BACKUP : Fld := ⟨.RL_BACKUP, 17, 1⟩
def RL_BACKUP_BACKS : Fld := ⟨.RL_BACKUP, 18, 16⟩
def FR_POSTS_VALUE : Fld := ⟨.FR_POSTS, 0, 48⟩
def FR_POST_IGNORED_VALUE : Fld := ⟨.FR_POST_IGNORED, 0, 48⟩
def FR_DEADLINE_MISS_VALUE : Fld := ⟨.FR_DEADLINE_MISS, 0, 48⟩
def FR_BACKUP_USED_VALUE : Fld := ⟨.FR_BACKUP_USED, 0, 48⟩
def FR_CARRIED_VALUE : Fld := ⟨.FR_CARRIED, 0, 48⟩
def FR_LATE_DROP_VALUE : Fld := ⟨.FR_LATE_DROP, 0, 48⟩
def FR_NF_BUCKETS_VALUE : Fld := ⟨.FR_NF_BUCKETS, 0, 48⟩
def FR_VERDICT_NF_VALUE : Fld := ⟨.FR_VERDICT_NF, 0, 48⟩
def FR_JOB_SEALS_VALUE : Fld := ⟨.FR_JOB_SEALS, 0, 48⟩
def FR_RERUNS_VALUE : Fld := ⟨.FR_RERUNS, 0, 48⟩
def RE_CHUNK_TX_VALUE : Fld := ⟨.RE_CHUNK_TX, 0, 48⟩
def RE_CHUNK_RX_VALUE : Fld := ⟨.RE_CHUNK_RX, 0, 48⟩
def RE_PARKED_VALUE : Fld := ⟨.RE_PARKED, 0, 48⟩
def RE_ADD_ELEMS_VALUE : Fld := ⟨.RE_ADD_ELEMS, 0, 48⟩
def RE_CREDIT_WAIT_VALUE : Fld := ⟨.RE_CREDIT_WAIT, 0, 48⟩
def RE_TX_BYTES_VALUE : Fld := ⟨.RE_TX_BYTES, 0, 48⟩
def RE_RX_BYTES_VALUE : Fld := ⟨.RE_RX_BYTES, 0, 48⟩
def LW_CTRL_CNT_EN : Fld := ⟨.LW_CTRL, 0, 1⟩
def LW_CTRL_CNT_CLEAR : Fld := ⟨.LW_CTRL, 1, 1⟩
def LW_CTRL_EN : Fld := ⟨.LW_CTRL, 2, 1⟩
def LW_CTRL_RETRAIN : Fld := ⟨.LW_CTRL, 3, 1⟩
def LW_CTRL_SPARE_AUTO : Fld := ⟨.LW_CTRL, 4, 1⟩
def LW_STATUS_STATE : Fld := ⟨.LW_STATUS, 0, 3⟩
def LW_STATUS_WL_ACTIVE : Fld := ⟨.LW_STATUS, 3, 9⟩
def LW_STATUS_QCAUSE : Fld := ⟨.LW_STATUS, 12, 2⟩
def LW_STATUS_ROLE : Fld := ⟨.LW_STATUS, 14, 2⟩
def LW_STATUS_LEVEL : Fld := ⟨.LW_STATUS, 16, 2⟩
def LW_STATUS_DOWN_SEEN : Fld := ⟨.LW_STATUS, 18, 1⟩
def LW_PEER_MODULE : Fld := ⟨.LW_PEER, 0, 16⟩
def LW_PEER_PORT : Fld := ⟨.LW_PEER, 16, 5⟩
def LW_PEER_VALID : Fld := ⟨.LW_PEER, 21, 1⟩
def LW_PEER_ATTESTED : Fld := ⟨.LW_PEER, 22, 1⟩
def LW_ID_MODULE : Fld := ⟨.LW_ID, 0, 16⟩
def LW_ID_VALID : Fld := ⟨.LW_ID, 16, 1⟩
def LW_DISC_STAGE : Fld := ⟨.LW_DISC, 0, 3⟩
def LW_DISC_FORMED : Fld := ⟨.LW_DISC, 3, 3⟩
def LW_DISC_MAP_ERR : Fld := ⟨.LW_DISC, 6, 1⟩
def LW_DISC_RING_ERR : Fld := ⟨.LW_DISC, 7, 1⟩
def LW_TIME_LOCKED : Fld := ⟨.LW_TIME, 0, 1⟩
def LW_TIME_GM : Fld := ⟨.LW_TIME, 1, 1⟩
def LW_TIME_UPSTREAM : Fld := ⟨.LW_TIME, 2, 5⟩
def LW_TIME_HOPS : Fld := ⟨.LW_TIME, 8, 8⟩
def LW_TIME_OFFSET : Fld := ⟨.LW_TIME, 16, 32⟩
def LW_TX_FLITS_VALUE : Fld := ⟨.LW_TX_FLITS, 0, 48⟩
def LW_RX_FLITS_VALUE : Fld := ⟨.LW_RX_FLITS, 0, 48⟩
def LW_CRC_ERR_VALUE : Fld := ⟨.LW_CRC_ERR, 0, 48⟩
def LW_REPLAYS_VALUE : Fld := ⟨.LW_REPLAYS, 0, 48⟩
def LW_FEC_CORR_VALUE : Fld := ⟨.LW_FEC_CORR, 0, 48⟩
def LW_FEC_UNCORR_VALUE : Fld := ⟨.LW_FEC_UNCORR, 0, 48⟩
def LW_CREDIT_WAIT_VALUE : Fld := ⟨.LW_CREDIT_WAIT, 0, 48⟩
def LW_SPARE_SWITCH_VALUE : Fld := ⟨.LW_SPARE_SWITCH, 0, 48⟩
def LW_DROPPED_VALUE : Fld := ⟨.LW_DROPPED, 0, 48⟩
def LW_TOKEN_RETRY_VALUE : Fld := ⟨.LW_TOKEN_RETRY, 0, 48⟩
def LW_ATTEST_FAIL_VALUE : Fld := ⟨.LW_ATTEST_FAIL, 0, 48⟩
def LW_MAP_MISMATCH_VALUE : Fld := ⟨.LW_MAP_MISMATCH, 0, 48⟩
def Q_SEL_LOCAL : Fld := ⟨.Q_SEL, 0, 16⟩
def Q_VIEW0_RING_BASE : Fld := ⟨.Q_VIEW, 0, 52⟩
def Q_VIEW0_LOG2_SIZE : Fld := ⟨.Q_VIEW, 52, 5⟩
def Q_VIEW0_MODE : Fld := ⟨.Q_VIEW, 57, 1⟩
def Q_VIEW1_KIND : Fld := ⟨.Q_VIEW, 0, 4⟩
def Q_VIEW1_UNIT : Fld := ⟨.Q_VIEW, 4, 24⟩
def Q_VIEW2_PROD : Fld := ⟨.Q_VIEW, 0, 32⟩
def Q_VIEW2_CONS : Fld := ⟨.Q_VIEW, 32, 32⟩
def Q_VIEW3_CLAMPS : Fld := ⟨.Q_VIEW, 0, 48⟩
def Q_VIEW4_REFUSED : Fld := ⟨.Q_VIEW, 0, 48⟩
def Q_VIEW5_OVERFLOW : Fld := ⟨.Q_VIEW, 0, 48⟩
def CC_CORE_PHYS : Fld := ⟨.CC_CORE, 0, 5⟩
def CC_CORE_STATE : Fld := ⟨.CC_CORE, 5, 2⟩
def CC_CORE_EXT : Fld := ⟨.CC_CORE, 7, 1⟩
def TS_CTRL_TICK_US : Fld := ⟨.TS_CTRL, 0, 10⟩
def TS_CTRL_SLICE_EN : Fld := ⟨.TS_CTRL, 10, 1⟩
def TS_ARG_ARG : Fld := ⟨.TS_ARG, 0, 64⟩
def TS_CMD_OP : Fld := ⟨.TS_CMD, 0, 4⟩
def TS_CMD_THREAD : Fld := ⟨.TS_CMD, 4, 8⟩
def TS_CMD_PRIO : Fld := ⟨.TS_CMD, 12, 5⟩
def TS_CMD_HOME : Fld := ⟨.TS_CMD, 17, 4⟩
def TS_CMD_TIMEOUT : Fld := ⟨.TS_CMD, 21, 11⟩
def TS_RSP_STATUS : Fld := ⟨.TS_RSP, 0, 2⟩
def TS_CORE_RUNNING : Fld := ⟨.TS_CORE, 0, 8⟩
def TS_CORE_RUN_VALID : Fld := ⟨.TS_CORE, 8, 1⟩
def TS_CORE_READY_DEPTH : Fld := ⟨.TS_CORE, 9, 9⟩
def TS_CORE_TOP_PRIO : Fld := ⟨.TS_CORE, 18, 5⟩
def TS_CORE_LOAD : Fld := ⟨.TS_CORE, 23, 10⟩
def TS_THR0_STATE : Fld := ⟨.TS_THR, 0, 3⟩
def TS_THR0_PRIO : Fld := ⟨.TS_THR, 3, 5⟩
def TS_THR0_HOME : Fld := ⟨.TS_THR, 8, 4⟩
def TS_THR0_RR : Fld := ⟨.TS_THR, 12, 1⟩
def TS_THR0_RESULT : Fld := ⟨.TS_THR, 13, 2⟩
def TS_THR1_COMPLETION : Fld := ⟨.TS_THR, 0, 64⟩
def TS_THR2_WAIT_TOTAL : Fld := ⟨.TS_THR, 0, 32⟩
def TS_THR2_WAIT_MAX : Fld := ⟨.TS_THR, 32, 32⟩
def IC_CTRL_CNT_EN : Fld := ⟨.IC_CTRL, 0, 1⟩
def IC_CTRL_CNT_CLEAR : Fld := ⟨.IC_CTRL, 1, 1⟩
def IC_CTRL_STORM_WIN_US : Fld := ⟨.IC_CTRL, 2, 10⟩
def IC_CTRL_STUCK_US : Fld := ⟨.IC_CTRL, 12, 16⟩
def IC_CLAIM_SOURCE : Fld := ⟨.IC_CLAIM, 0, 12⟩
def IC_CLAIM_VALID : Fld := ⟨.IC_CLAIM, 12, 1⟩
def IC_EOI_SOURCE : Fld := ⟨.IC_EOI, 0, 12⟩
def IC_CORE_THRESH : Fld := ⟨.IC_CORE, 0, 5⟩
def IC_CORE_TOP : Fld := ⟨.IC_CORE, 5, 4⟩
def IC_CORE_DEPTH : Fld := ⟨.IC_CORE, 9, 5⟩
def IC_SWSET_SOURCE : Fld := ⟨.IC_SWSET, 0, 12⟩
def IC_SRC_TARGET : Fld := ⟨.IC_SRC, 0, 4⟩
def IC_SRC_PRIO : Fld := ⟨.IC_SRC, 4, 4⟩
def IC_SRC_EN : Fld := ⟨.IC_SRC, 8, 1⟩
def IC_SRC_LEVEL : Fld := ⟨.IC_SRC, 9, 1⟩
def IC_SRC_PENDING : Fld := ⟨.IC_SRC, 10, 1⟩
def IC_SRC_ACTIVE : Fld := ⟨.IC_SRC, 11, 1⟩
def IC_SRC_STORM : Fld := ⟨.IC_SRC, 12, 1⟩
def IC_SRC_STUCK : Fld := ⟨.IC_SRC, 13, 1⟩
def IC_SRC_LIMIT : Fld := ⟨.IC_SRC, 14, 8⟩
def IC_SRC_ON_CORE : Fld := ⟨.IC_SRC, 22, 4⟩
def PL_WAKE_BASE : Fld := ⟨.PL_WAKE, 0, 12⟩
def PL_WAKE_SPAN_LOG : Fld := ⟨.PL_WAKE, 12, 3⟩
def PL_WAKE_EN : Fld := ⟨.PL_WAKE, 15, 1⟩
def PL_STATUS_ASLEEP : Fld := ⟨.PL_STATUS, 0, 1⟩
def PL_STATUS_LAST : Fld := ⟨.PL_STATUS, 1, 6⟩
def PL_STATUS_PL_WAKES : Fld := ⟨.PL_STATUS, 8, 48⟩
def HL_CTRL_CNT_EN : Fld := ⟨.HL_CTRL, 0, 1⟩
def HL_CTRL_CNT_CLEAR : Fld := ⟨.HL_CTRL, 1, 1⟩
def HL_STATUS_SPEED : Fld := ⟨.HL_STATUS, 0, 3⟩
def HL_STATUS_WIDTH : Fld := ⟨.HL_STATUS, 3, 4⟩
def HL_STATUS_PERST : Fld := ⟨.HL_STATUS, 7, 1⟩
def HL_STATUS_FABRIC_TIME : Fld := ⟨.HL_STATUS, 8, 1⟩
def HL_BAR2_BASE : Fld := ⟨.HL_BAR2, 30, 22⟩
def HL_PTM_OFFSET : Fld := ⟨.HL_PTM, 0, 32⟩
def HL_PTM_VALID : Fld := ⟨.HL_PTM, 32, 1⟩
def HL_BAR2_BAD_VALUE : Fld := ⟨.HL_BAR2_BAD, 0, 48⟩
def HL_CPL_TIMEOUT_VALUE : Fld := ⟨.HL_CPL_TIMEOUT, 0, 48⟩
def HL_RETRAIN_VALUE : Fld := ⟨.HL_RETRAIN, 0, 48⟩
def HL_POISON_RX_VALUE : Fld := ⟨.HL_POISON_RX, 0, 48⟩
def PM_CTRL_CNT_EN : Fld := ⟨.PM_CTRL, 0, 1⟩
def PM_CTRL_CNT_CLEAR : Fld := ⟨.PM_CTRL, 1, 1⟩
def PM_CTRL_AGE_WARN_PPM : Fld := ⟨.PM_CTRL, 2, 16⟩
def PM_STATUS_T : Fld := ⟨.PM_STATUS, 0, 7⟩
def PM_STATUS_DEVICE : Fld := ⟨.PM_STATUS, 7, 2⟩
def PM_STATUS_TRIM_LIMIT : Fld := ⟨.PM_STATUS, 9, 1⟩
def PM_STATUS_GAIN : Fld := ⟨.PM_STATUS, 10, 10⟩
def PM_STATUS_TMAX : Fld := ⟨.PM_STATUS, 20, 10⟩
def PM_LIMIT_WATTS : Fld := ⟨.PM_LIMIT, 0, 13⟩
def PM_EST_P : Fld := ⟨.PM_EST, 0, 16⟩
def PM_EST_A : Fld := ⟨.PM_EST, 16, 16⟩
def PM_TRIP_INTERLOCK : Fld := ⟨.PM_TRIP, 0, 1⟩
def PM_TRIP_THERMAL : Fld := ⟨.PM_TRIP, 1, 1⟩
def PM_TRIP_TEMP : Fld := ⟨.PM_TRIP, 2, 10⟩
def PM_THROTTLE_INT_VALUE : Fld := ⟨.PM_THROTTLE_INT, 0, 48⟩
def ISL_STATUS_STATE : Fld := ⟨.ISL_STATUS, 0, 2⟩
def ISL_STATUS_OPP : Fld := ⟨.ISL_STATUS, 2, 4⟩
def ISL_STATUS_VCORE_MV : Fld := ⟨.ISL_STATUS, 6, 10⟩
def ISL_STATUS_F : Fld := ⟨.ISL_STATUS, 16, 7⟩
def ISL_STATUS_THERMAL : Fld := ⟨.ISL_STATUS, 23, 7⟩
def ISL_STATUS_TEMP : Fld := ⟨.ISL_STATUS, 30, 10⟩
def ISL_STATUS_EST : Fld := ⟨.ISL_STATUS, 40, 16⟩
def ISL_STATUS_RAMPING : Fld := ⟨.ISL_STATUS, 56, 1⟩
def ISL_STATUS_DROOP_HOLD : Fld := ⟨.ISL_STATUS, 57, 1⟩
def ISL_AGE_PPM : Fld := ⟨.ISL_AGE, 0, 20⟩
def ISL_AGE_WARN : Fld := ⟨.ISL_AGE, 20, 1⟩
def ISL_DROOPS_VALUE : Fld := ⟨.ISL_DROOPS, 0, 48⟩
def ISL_RAMPS_VALUE : Fld := ⟨.ISL_RAMPS, 0, 48⟩
def MTR_ID_ID : Fld := ⟨.MTR_ID, 0, 64⟩
def MTR_VERSION_FW_VERSION : Fld := ⟨.MTR_VERSION, 0, 16⟩
def MTR_VERSION_FW_CRC : Fld := ⟨.MTR_VERSION, 32, 32⟩
def MTR_STATUS_STATE : Fld := ⟨.MTR_STATUS, 0, 2⟩
def MTR_STATUS_CAUSE : Fld := ⟨.MTR_STATUS, 2, 4⟩
def MTR_STATUS_OVERLOAD : Fld := ⟨.MTR_STATUS, 6, 1⟩
def MTR_STATUS_FULL : Fld := ⟨.MTR_STATUS, 7, 1⟩
def MTR_ENERGY_TOTAL : Fld := ⟨.MTR_ENERGY, 0, 64⟩
def MTR_POWER_P : Fld := ⟨.MTR_POWER, 0, 16⟩
def MTR_RECORDS_LAST : Fld := ⟨.MTR_RECORDS, 0, 32⟩
def MTR_RECORDS_ACKED : Fld := ⟨.MTR_RECORDS, 32, 32⟩
def MTR_EVENTS_EVENTS : Fld := ⟨.MTR_EVENTS, 0, 32⟩
def MTR_TAG_TAG : Fld := ⟨.MTR_TAG, 0, 64⟩
def MTR_TIME_TIME : Fld := ⟨.MTR_TIME, 0, 64⟩
def BOOT_STATUS_STAGE : Fld := ⟨.BOOT_STATUS, 0, 4⟩
def BOOT_STATUS_SLOT : Fld := ⟨.BOOT_STATUS, 4, 1⟩
def BOOT_STATUS_SLOT_FALLBACK : Fld := ⟨.BOOT_STATUS, 5, 1⟩
def BOOT_STATUS_FW_RB : Fld := ⟨.BOOT_STATUS, 6, 6⟩
def BOOT_STATUS_EXT_RB : Fld := ⟨.BOOT_STATUS, 12, 6⟩
def BOOT_STATUS_KEYS : Fld := ⟨.BOOT_STATUS, 18, 4⟩
def BOOT_STATUS_EXT_LOADED : Fld := ⟨.BOOT_STATUS, 22, 1⟩
def BOOT_STATUS_LAST_RESET : Fld := ⟨.BOOT_STATUS, 23, 3⟩
def BOOT_STATUS_METER_FAULT : Fld := ⟨.BOOT_STATUS, 26, 1⟩
def BOOT_STATUS_READY_MS : Fld := ⟨.BOOT_STATUS, 27, 32⟩
def ERR_CTRL_CNT_EN : Fld := ⟨.ERR_CTRL, 0, 1⟩
def ERR_CTRL_CNT_CLEAR : Fld := ⟨.ERR_CTRL, 1, 1⟩
def ERR_CTRL_SCRUB_H : Fld := ⟨.ERR_CTRL, 2, 8⟩
def ERR_STATUS_PRODUCED : Fld := ⟨.ERR_STATUS, 0, 32⟩
def ERR_CE_VALUE : Fld := ⟨.ERR_CE, 0, 48⟩
def ERR_UE_VALUE : Fld := ⟨.ERR_UE, 0, 48⟩
def ERR_MERGED_VALUE : Fld := ⟨.ERR_MERGED, 0, 48⟩
def SC_REPAIR_ROWS_USED : Fld := ⟨.SC_REPAIR, 0, 16⟩
def SC_REPAIR_WAYS_OFF : Fld := ⟨.SC_REPAIR, 16, 4⟩
def SC_REPAIR_LANES_USED : Fld := ⟨.SC_REPAIR, 20, 8⟩
def CL_SPARE_FOR : Fld := ⟨.CL_SPARE, 0, 4⟩
def CL_SPARE_FUSE_FOR : Fld := ⟨.CL_SPARE_FUSE, 0, 4⟩
def CL_SPARE_PROG_FOR : Fld := ⟨.CL_SPARE_PROG, 0, 4⟩
def CL_SPARE_EN : Fld := ⟨.CL_SPARE, 4, 1⟩
def CL_SPARE_FUSE_EN : Fld := ⟨.CL_SPARE_FUSE, 4, 1⟩
def CL_SPARE_PROG_EN : Fld := ⟨.CL_SPARE_PROG, 4, 1⟩
def CL_SPARE_STATUS_PROG_BUSY : Fld := ⟨.CL_SPARE_STATUS, 0, 1⟩
def CL_SPARE_STATUS_REJECT : Fld := ⟨.CL_SPARE_STATUS, 1, 1⟩
def CL_SPARE_STATUS_PARITY_BAD : Fld := ⟨.CL_SPARE_STATUS, 2, 1⟩
def CB_CTRL_CNT_EN : Fld := ⟨.CB_CTRL, 0, 1⟩
def CB_CTRL_CNT_CLEAR : Fld := ⟨.CB_CTRL, 1, 1⟩
def CB_CTRL_MODE : Fld := ⟨.CB_CTRL, 2, 1⟩
def CB_STATUS_SEQ : Fld := ⟨.CB_STATUS, 0, 32⟩
def CB_STATUS_CAPTURED : Fld := ⟨.CB_STATUS, 32, 1⟩
def CB_CNT_VALUE : Fld := ⟨.CB_CNT, 0, 48⟩
def CB_SHADOW_VALUE : Fld := ⟨.CB_SHADOW, 0, 48⟩
def IC_DELIVERED_VALUE : Fld := ⟨.IC_DELIVERED, 0, 48⟩
def IC_COALESCED_VALUE : Fld := ⟨.IC_COALESCED, 0, 48⟩
def IC_STORM_VALUE : Fld := ⟨.IC_STORM, 0, 48⟩
def IC_STUCK_VALUE : Fld := ⟨.IC_STUCK, 0, 48⟩
def IC_STACK_FAULT_VALUE : Fld := ⟨.IC_STACK_FAULT, 0, 48⟩
def PM_PHASEMAP_PHASE0 : Fld := ⟨.PM_PHASEMAP, 0, 4⟩
def PM_PHASEMAP_PHASE1 : Fld := ⟨.PM_PHASEMAP, 4, 4⟩
def PM_PHASEMAP_PHASE2 : Fld := ⟨.PM_PHASEMAP, 8, 4⟩
def PM_PHASEMAP_PHASE3 : Fld := ⟨.PM_PHASEMAP, 12, 4⟩
def PM_PHASEMAP_PHASE4 : Fld := ⟨.PM_PHASEMAP, 16, 4⟩
def PM_PHASEMAP_PHASE5 : Fld := ⟨.PM_PHASEMAP, 20, 4⟩
def PM_PHASEMAP_PHASE6 : Fld := ⟨.PM_PHASEMAP, 24, 4⟩
def PM_PHASEMAP_PHASE7 : Fld := ⟨.PM_PHASEMAP, 28, 4⟩
def RT_MEAS_VALUE : Fld := ⟨.RT_MEAS, 0, 64⟩
def ERR_LOG_RECORD : Fld := ⟨.ERR_LOG, 0, 64⟩
def UPD_GT_DATA_VALUE : Fld := ⟨.UPD_GT_DATA, 0, 64⟩
def PM_OPP_VCORE_MV : Fld := ⟨.PM_OPP, 0, 10⟩
def PM_OPP_ISSUE_LIMIT : Fld := ⟨.PM_OPP, 16, 7⟩
def PM_OPP_ISLAND_CAP : Fld := ⟨.PM_OPP, 32, 16⟩
def PM_OPP_DROOP_MV : Fld := ⟨.PM_OPP, 48, 7⟩

end Fld

/-- The field tables; a word index stands in a name where the register has several words (R395, R488, R506). -/
def Reg.fields : Reg → List FieldRow
  | .UD => []
  | .FMT_CTRL => [fr Fld.FMT_CTRL_STATS_EN .RW 1, fr Fld.FMT_CTRL_SR_ALLOW .RW 1, fr Fld.FMT_CTRL_CLEAR .WO 0, fr Fld.FMT_CTRL_NAN_SEEN .W1C 0, fr Fld.FMT_CTRL_SAT_SEEN .W1C 0]
  | .SR_CTR => [fr Fld.SR_CTR_COUNT .RO 0]
  | .FMT_STAT => [fr Fld.FMT_STAT_VALUE .RO 0]
  | .ARR_CTRL => [fr Fld.ARR_CTRL_CNT_EN .RW 1, fr Fld.ARR_CTRL_HOLD .RW 0, fr Fld.ARR_CTRL_CNT_CLEAR .WO 0]
  | .ARR_STATUS => [fr Fld.ARR_STATUS_BUSY .RO 0, fr Fld.ARR_STATUS_A_VALID .RO 0, fr Fld.ARR_STATUS_B_VALID .RO 0, fr Fld.ARR_STATUS_LOADING .RO 0, fr Fld.ARR_STATUS_MIRROR .RO 0, fr Fld.ARR_STATUS_HELD_SW .RO 0, fr Fld.ARR_STATUS_HELD_DROOP .RO 0, fr Fld.ARR_STATUS_PROG_BUSY .RO 0, fr Fld.ARR_STATUS_PROG_REJECT .W1C 0, fr Fld.ARR_STATUS_A_FMT .RO 0, fr Fld.ARR_STATUS_B_FMT .RO 0]
  | .ARR_REMAP => [fr Fld.ARR_REMAP_ROW_FOR .RW 0, fr Fld.ARR_REMAP_ROW_EN .RW 0, fr Fld.ARR_REMAP_COL_FOR .RW 0, fr Fld.ARR_REMAP_COL_EN .RW 0]
  | .ARR_FUSE => [fr Fld.ARR_FUSE_ROW_FOR .RO 0, fr Fld.ARR_FUSE_ROW_EN .RO 0, fr Fld.ARR_FUSE_COL_FOR .RO 0, fr Fld.ARR_FUSE_COL_EN .RO 0]
  | .ARR_FUSE_PROG => [fr Fld.ARR_FUSE_PROG_ROW_FOR .WO 0, fr Fld.ARR_FUSE_PROG_ROW_EN .WO 0, fr Fld.ARR_FUSE_PROG_COL_FOR .WO 0, fr Fld.ARR_FUSE_PROG_COL_EN .WO 0]
  | .ARR_BEATS => [fr Fld.ARR_BEATS_VALUE .RO 0]
  | .ARR_BUB_FEED => [fr Fld.ARR_BUB_FEED_VALUE .RO 0]
  | .ARR_BUB_ACC => [fr Fld.ARR_BUB_ACC_VALUE .RO 0]
  | .ARR_BUB_WGT => [fr Fld.ARR_BUB_WGT_VALUE .RO 0]
  | .AM_CTRL => [fr Fld.AM_CTRL_CNT_EN .RW 1, fr Fld.AM_CTRL_CLEAR_ALL .WO 0, fr Fld.AM_CTRL_CNT_CLEAR .WO 0]
  | .AM_STATUS => [fr Fld.AM_STATUS_BUSY .RO 0, fr Fld.AM_STATUS_CLEARING .RO 0, fr Fld.AM_STATUS_OVF_SEEN .W1C 0, fr Fld.AM_STATUS_NF_SEEN .W1C 0, fr Fld.AM_STATUS_STATE_FAULT .W1C 0]
  | .AM_MODE => [frc Fld.AM_MODE_ROW .RW 0 0 383, fr Fld.AM_MODE_A0_STATE .RO 0, fr Fld.AM_MODE_A1_STATE .RO 0, fr Fld.AM_MODE_A2_STATE .RO 0, fr Fld.AM_MODE_A3_STATE .RO 0, fr Fld.AM_MODE_LO_LIVE .RO 0, fr Fld.AM_MODE_HI_LIVE .RO 0]
  | .AM_OVF => [fr Fld.AM_OVF_VALUE .RO 0]
  | .AM_NF_IN => [fr Fld.AM_NF_IN_VALUE .RO 0]
  | .AM_VEC_WAIT => [fr Fld.AM_VEC_WAIT_VALUE .RO 0]
  | .SEQ_CTRL => [fr Fld.SEQ_CTRL_CNT_EN .RW 1, fr Fld.SEQ_CTRL_REEL .RW 0, fr Fld.SEQ_CTRL_HALT_ISSUE .RW 0, fr Fld.SEQ_CTRL_CNT_CLEAR .WO 0, fr Fld.SEQ_CTRL_ICINV .WO 0]
  | .SEQ_STATUS => [fr Fld.SEQ_STATUS_ACTIVE .RO 0, fr Fld.SEQ_STATUS_READY .RO 0, fr Fld.SEQ_STATUS_FAULTED .RO 0, fr Fld.SEQ_STATUS_REEL_ON .RO 0, fr Fld.SEQ_STATUS_ISSUE_HALTED .RO 0, fr Fld.SEQ_STATUS_ISA_LEVEL .RO 1]
  | .SEQ_VLEASE => [fr Fld.SEQ_VLEASE_HOLDER .RO 0, fr Fld.SEQ_VLEASE_HELD .RO 0, fr Fld.SEQ_VLEASE_WAITERS .RO 0]
  | .SEQ_ISSUED => [fr Fld.SEQ_ISSUED_VALUE .RO 0]
  | .SEQ_EMPTY => [fr Fld.SEQ_EMPTY_VALUE .RO 0]
  | .SEQ_STARVE => [fr Fld.SEQ_STARVE_VALUE .RO 0]
  | .SEQ_FAULTS => [fr Fld.SEQ_FAULTS_VALUE .RO 0]
  | .THR_STATE => [fr Fld.THR_STATE_STATE .RW 0, fr Fld.THR_STATE_PRIO .RW 0, fr Fld.THR_STATE_PIN .RW 0, fr Fld.THR_STATE_PRED .RO 1, fr Fld.THR_STATE_WAIT_CAUSE .RO 0, fr Fld.THR_STATE_FAULT .RO 0, fr Fld.THR_STATE_OUTSTANDING .RO 0, fr Fld.THR_STATE_LEASE .RO 0, fr Fld.THR_STATE_LAUNCHED .RO 0]
  | .THR_PC => [fr Fld.THR_PC_PC .RO 0]
  | .THR_XREG => [fr Fld.THR_XREG_VALUE .RO 0]
  | .BANK_OWN => [fr Fld.BANK_OWN_OWNER .RW 0, fr Fld.BANK_OWN_THREAD_EN .RW 0, fr Fld.BANK_OWN_THREAD .RW 0, fr Fld.BANK_OWN_PENDING .RO 0, fr Fld.BANK_OWN_CUR_OWNER .RO 0, fr Fld.BANK_OWN_CUR_THREAD_EN .RO 0, fr Fld.BANK_OWN_CUR_THREAD .RO 0]
  | .BANK_CTRL => [fr Fld.BANK_CTRL_CNT_EN .RW 1, fr Fld.BANK_CTRL_CNT_CLEAR .WO 0]
  | .BANK_STATUS => [fr Fld.BANK_STATUS_CLEARING .RO 0, fr Fld.BANK_STATUS_LONG_WAIT .W1C 0]
  | .BANK_WAIT_OWN => [fr Fld.BANK_WAIT_OWN_VALUE .RO 0]
  | .BANK_WAIT_PORT => [fr Fld.BANK_WAIT_PORT_VALUE .RO 0]
  | .PRU_CTRL => [fr Fld.PRU_CTRL_CNT_EN .RW 1, fr Fld.PRU_CTRL_CNT_CLEAR .WO 0]
  | .PRU_MASK_IN => [fr Fld.PRU_MASK_IN_VALUE .RO 0]
  | .PRU_GROUP_CHG => [fr Fld.PRU_GROUP_CHG_VALUE .RO 0]
  | .SPK_CTRL => [fr Fld.SPK_CTRL_CNT_EN .RW 1, fr Fld.SPK_CTRL_CNT_CLEAR .WO 0]
  | .SPK_DROPPED => [fr Fld.SPK_DROPPED_VALUE .RO 0]
  | .SPK_DENSE => [fr Fld.SPK_DENSE_VALUE .RO 0]
  | .SMP_CTRL => [fr Fld.SMP_CTRL_CNT_EN .RW 1, fr Fld.SMP_CTRL_HOLD .RW 0, fr Fld.SMP_CTRL_CNT_CLEAR .WO 0, fr Fld.SMP_CTRL_GDINV .WO 0]
  | .SMP_STATUS => [fr Fld.SMP_STATUS_BUSY .RO 0, fr Fld.SMP_STATUS_ACTIVE .RO 0, fr Fld.SMP_STATUS_INFLIGHT .RO 0, fr Fld.SMP_STATUS_HELD .RO 0, fr Fld.SMP_STATUS_ERR_SEEN .W1C 0, fr Fld.SMP_STATUS_GDC_VALID .RO 0]
  | .SMP_ERR => [fr Fld.SMP_ERR_STATUS .RO 0, fr Fld.SMP_ERR_QUEUE .RO 0, fr Fld.SMP_ERR_SEQ .RO 0]
  | .SMP_RECORDS => [fr Fld.SMP_RECORDS_VALUE .RO 0]
  | .SMP_VOID => [fr Fld.SMP_VOID_VALUE .RO 0]
  | .SMP_CLAMP => [fr Fld.SMP_CLAMP_VALUE .RO 0]
  | .SMP_BADROW => [fr Fld.SMP_BADROW_VALUE .RO 0]
  | .SMP_TRUNC => [fr Fld.SMP_TRUNC_VALUE .RO 0]
  | .SMP_RESTART => [fr Fld.SMP_RESTART_VALUE .RO 0]
  | .SMP_DEADEND => [fr Fld.SMP_DEADEND_VALUE .RO 0]
  | .SMP_VARIATES => [fr Fld.SMP_VARIATES_VALUE .RO 0]
  | .GS_CTRL => [fr Fld.GS_CTRL_CNT_EN .RW 1, fr Fld.GS_CTRL_HOLD .RW 0, fr Fld.GS_CTRL_CNT_CLEAR .WO 0, fr Fld.GS_CTRL_HOT_EN .RW 1, fr Fld.GS_CTRL_HOT_FLUSH .WO 0]
  | .GS_STATUS => [fr Fld.GS_STATUS_BUSY .RO 0, fr Fld.GS_STATUS_ACTIVE .RO 0, fr Fld.GS_STATUS_SLOTS .RO 0, fr Fld.GS_STATUS_WINDOW .RO 0, fr Fld.GS_STATUS_HELD .RO 0, fr Fld.GS_STATUS_ERR_SEEN .W1C 0]
  | .GS_QUOTA => [frc Fld.GS_QUOTA_QUOTA .RW 64 1 1024]
  | .GS_HOT => [frc Fld.GS_HOT_THRESH .RW 256 1 65535, frc Fld.GS_HOT_WINDOW_LOG .RW 12 8 16, fr Fld.GS_HOT_VALID .RO 0]
  | .GS_ERR => [fr Fld.GS_ERR_STATUS .RO 0, fr Fld.GS_ERR_QUEUE .RO 0, fr Fld.GS_ERR_SEQ .RO 0, fr Fld.GS_ERR_SCATTER .RO 0]
  | .GS_ROWS => [fr Fld.GS_ROWS_VALUE .RO 0]
  | .GS_MERGED => [fr Fld.GS_MERGED_VALUE .RO 0]
  | .GS_VOID => [fr Fld.GS_VOID_VALUE .RO 0]
  | .GS_CLAMP => [fr Fld.GS_CLAMP_VALUE .RO 0]
  | .GS_QUOTA_STALL => [fr Fld.GS_QUOTA_STALL_VALUE .RO 0]
  | .GS_MEM_ADDS => [fr Fld.GS_MEM_ADDS_VALUE .RO 0]
  | .GS_HOT_PROMOTE => [fr Fld.GS_HOT_PROMOTE_VALUE .RO 0]
  | .GS_HOT_ADDS => [fr Fld.GS_HOT_ADDS_VALUE .RO 0]
  | .GS_HOT_FLUSH => [fr Fld.GS_HOT_FLUSH_VALUE .RO 0]
  | .GS_HOT_FULL => [fr Fld.GS_HOT_FULL_VALUE .RO 0]
  | .EMB_CTRL => [fr Fld.EMB_CTRL_CNT_EN .RW 1, fr Fld.EMB_CTRL_HOLD .RW 0, fr Fld.EMB_CTRL_CNT_CLEAR .WO 0]
  | .EMB_STATUS => [fr Fld.EMB_STATUS_BUSY .RO 0, fr Fld.EMB_STATUS_ACTIVE .RO 0, fr Fld.EMB_STATUS_HELD .RO 0, fr Fld.EMB_STATUS_ERR_SEEN .W1C 0, fr Fld.EMB_STATUS_REFL_VALID .RO 0]
  | .EMB_ERR => [fr Fld.EMB_ERR_STATUS .RO 0, fr Fld.EMB_ERR_QUEUE .RO 0, fr Fld.EMB_ERR_SEQ .RO 0, fr Fld.EMB_ERR_BACKWARD .RO 0]
  | .EMB_TIER_FAST => [fr Fld.EMB_TIER_FAST_VALUE .RO 0]
  | .EMB_TIER_SLOW => [fr Fld.EMB_TIER_SLOW_VALUE .RO 0]
  | .EMB_TIER_HOST => [fr Fld.EMB_TIER_HOST_VALUE .RO 0]
  | .EMB_REFL_HIT => [fr Fld.EMB_REFL_HIT_VALUE .RO 0]
  | .EMB_REFL_STALE => [fr Fld.EMB_REFL_STALE_VALUE .RO 0]
  | .EMB_CLAMP => [fr Fld.EMB_CLAMP_VALUE .RO 0]
  | .EMB_GRAD_ROWS => [fr Fld.EMB_GRAD_ROWS_VALUE .RO 0]
  | .EMB_LATE => [fr Fld.EMB_LATE_VALUE .RO 0]
  | .EMB_LIST_FULL => [fr Fld.EMB_LIST_FULL_VALUE .RO 0]
  | .EMB_REMOTE => [fr Fld.EMB_REMOTE_VALUE .RO 0]
  | .MEM_MAP => [frc Fld.MEM_MAP_IL_GIB .RW 32 0 32, fr Fld.MEM_MAP_PRESENT .RO 4095]
  | .HW_MAP => [fr Fld.HW_MAP_BASE .RW 0]
  | .SC_CTRL => [fr Fld.SC_CTRL_CNT_EN .RW 1, fr Fld.SC_CTRL_CNT_CLEAR .WO 0, fr Fld.SC_CTRL_PF_EN .RW 1]
  | .SC_STATUS => [fr Fld.SC_STATUS_WAYS .RO 16, fr Fld.SC_STATUS_STREAMS .RO 0, fr Fld.SC_STATUS_WB_ACTIVE .RO 0]
  | .SC_PIN => [fr Fld.SC_PIN_EN .RW 1]
  | .PF_CTRL => [frc Fld.PF_CTRL_DIST .RW 16 1 64]
  | .SC_CLASS => [fr Fld.SC_CLASS_PRIO .RW 0, fr Fld.SC_CLASS_DAR .RW 0, fr Fld.SC_CLASS_WALLOC .RW 0, fr Fld.SC_CLASS_PF .RW 0]
  | .SC_RANGE_LO => [fr Fld.SC_RANGE_LO_BASE .RW 0, fr Fld.SC_RANGE_LO_CLASS .RW 0, fr Fld.SC_RANGE_LO_VALID .RW 0]
  | .SC_RANGE_HI => [fr Fld.SC_RANGE_HI_LIMIT .RW 0]
  | .SC_HIT => [fr Fld.SC_HIT_VALUE .RO 0]
  | .SC_MISS => [fr Fld.SC_MISS_VALUE .RO 0]
  | .SC_WB => [fr Fld.SC_WB_VALUE .RO 0]
  | .SC_DEAD_EVICT => [fr Fld.SC_DEAD_EVICT_VALUE .RO 0]
  | .SC_RAM_ADDS => [fr Fld.SC_RAM_ADDS_VALUE .RO 0]
  | .PF_ISSUED => [fr Fld.PF_ISSUED_VALUE .RO 0]
  | .PF_USED => [fr Fld.PF_USED_VALUE .RO 0]
  | .PF_LATE => [fr Fld.PF_LATE_VALUE .RO 0]
  | .PF_UNUSED => [fr Fld.PF_UNUSED_VALUE .RO 0]
  | .PF_OVERTAKEN => [fr Fld.PF_OVERTAKEN_VALUE .RO 0]
  | .DMA_CTRL => [fr Fld.DMA_CTRL_CNT_EN .RW 1, fr Fld.DMA_CTRL_HOLD .RW 0, fr Fld.DMA_CTRL_CNT_CLEAR .WO 0]
  | .DMA_STATUS => [fr Fld.DMA_STATUS_ACTIVE .RO 0, fr Fld.DMA_STATUS_FIFO .RO 0, fr Fld.DMA_STATUS_HELD .RO 0, fr Fld.DMA_STATUS_ERR_SEEN .W1C 0]
  | .DMA_ERR => [fr Fld.DMA_ERR_STATUS .RO 0, fr Fld.DMA_ERR_SEQ .RO 0, fr Fld.DMA_ERR_FROM_QUEUE .RO 0]
  | .DMA_DESC => [fr Fld.DMA_DESC_VALUE .RO 0]
  | .DMA_RD_BYTES => [fr Fld.DMA_RD_BYTES_VALUE .RO 0]
  | .DMA_WR_BYTES => [fr Fld.DMA_WR_BYTES_VALUE .RO 0]
  | .DMA_CLAMPS => [fr Fld.DMA_CLAMPS_VALUE .RO 0]
  | .UPD_CTRL => [fr Fld.UPD_CTRL_CNT_EN .RW 1, fr Fld.UPD_CTRL_HOLD .RW 0, fr Fld.UPD_CTRL_CNT_CLEAR .WO 0]
  | .UPD_STATUS => [fr Fld.UPD_STATUS_BUSY .RO 0, fr Fld.UPD_STATUS_HELD .RO 0, fr Fld.UPD_STATUS_ERR_SEEN .W1C 0, fr Fld.UPD_STATUS_NF_SEEN .W1C 0, fr Fld.UPD_STATUS_VERDICT_WAIT .RO 0, fr Fld.UPD_STATUS_WALKING .RO 0]
  | .UPD_VERDICT => [fr Fld.UPD_VERDICT_STEP .RO 0, fr Fld.UPD_VERDICT_CODE .RO 0, fr Fld.UPD_VERDICT_LOCAL_NF .RO 0, fr Fld.UPD_VERDICT_REPORTED .RO 0]
  | .UPD_ERR => [fr Fld.UPD_ERR_STATUS .RO 0, fr Fld.UPD_ERR_SEQ .RO 0]
  | .UPD_GT_SEL => [fr Fld.UPD_GT_SEL_INDEX .RW 0, fr Fld.UPD_GT_SEL_BANK .RW 0]
  | .UPD_GT_DATA => [fr Fld.UPD_GT_DATA_VALUE .RW 0]
  | .UPD_APPLIED => [fr Fld.UPD_APPLIED_VALUE .RO 0]
  | .UPD_FROZEN => [fr Fld.UPD_FROZEN_VALUE .RO 0]
  | .UPD_NF_STEP => [fr Fld.UPD_NF_STEP_VALUE .RO 0]
  | .UPD_NOCONTRIB => [fr Fld.UPD_NOCONTRIB_VALUE .RO 0]
  | .UPD_STAMP_SKIP => [fr Fld.UPD_STAMP_SKIP_VALUE .RO 0]
  | .UPD_STAMP_AHEAD => [fr Fld.UPD_STAMP_AHEAD_VALUE .RO 0]
  | .UPD_NF_BLOCK => [fr Fld.UPD_NF_BLOCK_VALUE .RO 0]
  | .UPD_CLIPPED => [fr Fld.UPD_CLIPPED_VALUE .RO 0]
  | .UPD_CURVE_ESC => [fr Fld.UPD_CURVE_ESC_VALUE .RO 0]
  | .UPD_CURVE_FALLBACK => [fr Fld.UPD_CURVE_FALLBACK_VALUE .RO 0]
  | .UPD_RESTORED => [fr Fld.UPD_RESTORED_VALUE .RO 0]
  | .UPD_WC_MISMATCH => [fr Fld.UPD_WC_MISMATCH_VALUE .RO 0]
  | .UPD_VERDICT_WAIT => [fr Fld.UPD_VERDICT_WAIT_VALUE .RO 0]
  | .SYNC_CTRL => [fr Fld.SYNC_CTRL_CNT_EN .RW 1, fr Fld.SYNC_CTRL_CNT_CLEAR .WO 0, frc Fld.SYNC_CTRL_HOLD_LIMIT .RW 10 1 255]
  | .SYNC_STATUS => [fr Fld.SYNC_STATUS_WAITS .RO 0, fr Fld.SYNC_STATUS_HELD .RO 0, fr Fld.SYNC_STATUS_HOLD_LATE .W1C 0]
  | .SYNC_SEL => [fr Fld.SYNC_SEL_COUNTER .RW 0]
  | .SYNC_VIEW => [frw Fld.SYNC_VIEW0_VALUE .RO 0 0, frw Fld.SYNC_VIEW0_SAT_HI .RO 0 0, frw Fld.SYNC_VIEW0_SAT_LO .RO 0 0, frw Fld.SYNC_VIEW0_ABANDONED .RO 0 0, frw Fld.SYNC_VIEW0_WAITERS .RO 0 0, frw Fld.SYNC_VIEW1_OWNER .RO 6 1, frw Fld.SYNC_VIEW1_LAST_SIGNALLER .RO 0 1, frw Fld.SYNC_VIEW2_LAST_SEQ .RO 0 2, frw Fld.SYNC_VIEW3_WAITER0 .RO 4294967295 3, frw Fld.SYNC_VIEW3_WAITER1 .RO 4294967295 3, frw Fld.SYNC_VIEW4_WAITER2 .RO 4294967295 4, frw Fld.SYNC_VIEW4_WAITER3 .RO 4294967295 4]
  | .SYNC_CMD => [fr Fld.SYNC_CMD_OP .WO 0, fr Fld.SYNC_CMD_ARG .WO 0]
  | .SYNC_ERR => [fr Fld.SYNC_ERR_MODULE .RO 0, fr Fld.SYNC_ERR_LEVEL .RO 0, fr Fld.SYNC_ERR_SEQ .RO 0]
  | .SYNC_OPS => [fr Fld.SYNC_OPS_VALUE .RO 0]
  | .SYNC_SAT => [fr Fld.SYNC_SAT_VALUE .RO 0]
  | .SYNC_ABANDON_REL => [fr Fld.SYNC_ABANDON_REL_VALUE .RO 0]
  | .SYNC_WAITFULL => [fr Fld.SYNC_WAITFULL_VALUE .RO 0]
  | .SYNC_RX_HELD => [fr Fld.SYNC_RX_HELD_VALUE .RO 0]
  | .FR_CTRL => [fr Fld.FR_CTRL_CNT_EN .RW 1, fr Fld.FR_CTRL_CNT_CLEAR .WO 0, fr Fld.FR_CTRL_HOLD .RW 0, frc Fld.FR_CTRL_BREAK_MS .RW 2000 1 8191, frc Fld.FR_CTRL_DEADLINE_US .RW 500 1 65535]
  | .FR_STATUS => [fr Fld.FR_STATUS_BUSY .RO 0, fr Fld.FR_STATUS_HELD .RO 0, fr Fld.FR_STATUS_LEVELS .RO 0, fr Fld.FR_STATUS_BREAK .W1C 0, fr Fld.FR_STATUS_NF_SEEN .W1C 0, fr Fld.FR_STATUS_OPEN .RO 0, fr Fld.FR_STATUS_BACKUP .RO 0]
  | .FR_SEAL => [fr Fld.FR_SEAL_LOCAL .RO 0, fr Fld.FR_SEAL_JOB .RO 0]
  | .FR_NF_FIRST => [fr Fld.FR_NF_FIRST_STEP .RO 0, fr Fld.FR_NF_FIRST_BUCKET .RO 0, fr Fld.FR_NF_FIRST_QUARTER .RO 0, fr Fld.FR_NF_FIRST_LEVEL .RO 0, fr Fld.FR_NF_FIRST_CAUSE .RO 0, fr Fld.FR_NF_FIRST_VALID .W1C 0, fr Fld.FR_NF_FIRST_MODULE .RO 0]
  | .FR_BREAK => [fr Fld.FR_BREAK_STEP .RO 0, fr Fld.FR_BREAK_LEVEL .RO 0, fr Fld.FR_BREAK_DIE .RO 0, fr Fld.FR_BREAK_SIDE .RO 0, fr Fld.FR_BREAK_CAUSE .RO 0, fr Fld.FR_BREAK_VALID .W1C 0]
  | .FR_POSTS => [fr Fld.FR_POSTS_VALUE .RO 0]
  | .FR_POST_IGNORED => [fr Fld.FR_POST_IGNORED_VALUE .RO 0]
  | .FR_DEADLINE_MISS => [fr Fld.FR_DEADLINE_MISS_VALUE .RO 0]
  | .FR_BACKUP_USED => [fr Fld.FR_BACKUP_USED_VALUE .RO 0]
  | .FR_CARRIED => [fr Fld.FR_CARRIED_VALUE .RO 0]
  | .FR_LATE_DROP => [fr Fld.FR_LATE_DROP_VALUE .RO 0]
  | .FR_NF_BUCKETS => [fr Fld.FR_NF_BUCKETS_VALUE .RO 0]
  | .FR_VERDICT_NF => [fr Fld.FR_VERDICT_NF_VALUE .RO 0]
  | .FR_JOB_SEALS => [fr Fld.FR_JOB_SEALS_VALUE .RO 0]
  | .FR_RERUNS => [fr Fld.FR_RERUNS_VALUE .RO 0]
  | .RE_CTRL => [fr Fld.RE_CTRL_CNT_EN .RW 1, fr Fld.RE_CTRL_CNT_CLEAR .WO 0]
  | .RE_STATUS => [fr Fld.RE_STATUS_BUSY .RO 0, fr Fld.RE_STATUS_PARKED .RO 0, fr Fld.RE_STATUS_LINK_UP .RO 0]
  | .RE_CHUNK_TX => [fr Fld.RE_CHUNK_TX_VALUE .RO 0]
  | .RE_CHUNK_RX => [fr Fld.RE_CHUNK_RX_VALUE .RO 0]
  | .RE_PARKED => [fr Fld.RE_PARKED_VALUE .RO 0]
  | .RE_ADD_ELEMS => [fr Fld.RE_ADD_ELEMS_VALUE .RO 0]
  | .RE_CREDIT_WAIT => [fr Fld.RE_CREDIT_WAIT_VALUE .RO 0]
  | .RE_TX_BYTES => [fr Fld.RE_TX_BYTES_VALUE .RO 0]
  | .RE_RX_BYTES => [fr Fld.RE_RX_BYTES_VALUE .RO 0]
  | .RL_POS => [fr Fld.RL_POS_POSITION .RO 0, fr Fld.RL_POS_SIZE_M1 .RO 0, fr Fld.RL_POS_SUCC .RO 0, fr Fld.RL_POS_PRED .RO 0]
  | .RL_BACKUP => [fr Fld.RL_BACKUP_BACKUP .RO 0, fr Fld.RL_BACKUP_BACKUP_EN .RO 0, fr Fld.RL_BACKUP_IS_BACKUP .RO 0, fr Fld.RL_BACKUP_BACKS .RO 0]
  | .LW_CTRL => [fr Fld.LW_CTRL_CNT_EN .RW 1, fr Fld.LW_CTRL_CNT_CLEAR .WO 0, fr Fld.LW_CTRL_EN .RW 1, fr Fld.LW_CTRL_RETRAIN .WO 0, fr Fld.LW_CTRL_SPARE_AUTO .RW 1]
  | .LW_STATUS => [fr Fld.LW_STATUS_STATE .RO 0, fr Fld.LW_STATUS_WL_ACTIVE .RO 0, fr Fld.LW_STATUS_QCAUSE .RO 0, fr Fld.LW_STATUS_ROLE .RO 0, fr Fld.LW_STATUS_LEVEL .RO 0, fr Fld.LW_STATUS_DOWN_SEEN .W1C 0]
  | .LW_PEER => [fr Fld.LW_PEER_MODULE .RO 0, fr Fld.LW_PEER_PORT .RO 0, fr Fld.LW_PEER_VALID .RO 0, fr Fld.LW_PEER_ATTESTED .RO 0]
  | .LW_TX_FLITS => [fr Fld.LW_TX_FLITS_VALUE .RO 0]
  | .LW_RX_FLITS => [fr Fld.LW_RX_FLITS_VALUE .RO 0]
  | .LW_CRC_ERR => [fr Fld.LW_CRC_ERR_VALUE .RO 0]
  | .LW_REPLAYS => [fr Fld.LW_REPLAYS_VALUE .RO 0]
  | .LW_FEC_CORR => [fr Fld.LW_FEC_CORR_VALUE .RO 0]
  | .LW_FEC_UNCORR => [fr Fld.LW_FEC_UNCORR_VALUE .RO 0]
  | .LW_CREDIT_WAIT => [fr Fld.LW_CREDIT_WAIT_VALUE .RO 0]
  | .LW_SPARE_SWITCH => [fr Fld.LW_SPARE_SWITCH_VALUE .RO 0]
  | .LW_DROPPED => [fr Fld.LW_DROPPED_VALUE .RO 0]
  | .LW_ID => [fr Fld.LW_ID_MODULE .RO 0, fr Fld.LW_ID_VALID .RO 0]
  | .LW_DISC => [fr Fld.LW_DISC_STAGE .RO 0, fr Fld.LW_DISC_FORMED .RO 0, fr Fld.LW_DISC_MAP_ERR .W1C 0, fr Fld.LW_DISC_RING_ERR .W1C 0]
  | .LW_TIME => [fr Fld.LW_TIME_LOCKED .RO 0, fr Fld.LW_TIME_GM .RO 0, fr Fld.LW_TIME_UPSTREAM .RO 0, fr Fld.LW_TIME_HOPS .RO 0, fr Fld.LW_TIME_OFFSET .RO 0]
  | .LW_TOKEN_RETRY => [fr Fld.LW_TOKEN_RETRY_VALUE .RO 0]
  | .LW_ATTEST_FAIL => [fr Fld.LW_ATTEST_FAIL_VALUE .RO 0]
  | .LW_MAP_MISMATCH => [fr Fld.LW_MAP_MISMATCH_VALUE .RO 0]
  | .Q_SEL => [fr Fld.Q_SEL_LOCAL .RW 0]
  | .Q_VIEW => [frw Fld.Q_VIEW0_RING_BASE .RW 0 0, frw Fld.Q_VIEW0_LOG2_SIZE .RW 0 0, frw Fld.Q_VIEW0_MODE .RW 0 0, frw Fld.Q_VIEW1_KIND .RW 0 1, frw Fld.Q_VIEW1_UNIT .RW 0 1, frw Fld.Q_VIEW2_PROD .RO 0 2, frw Fld.Q_VIEW2_CONS .RO 0 2, frw Fld.Q_VIEW3_CLAMPS .RO 0 3, frw Fld.Q_VIEW4_REFUSED .RO 0 4, frw Fld.Q_VIEW5_OVERFLOW .RO 0 5]
  | .CC_CORE => [fr Fld.CC_CORE_PHYS .RO 0, fr Fld.CC_CORE_STATE .RO 0, fr Fld.CC_CORE_EXT .RO 0]
  | .TS_CTRL => [frc Fld.TS_CTRL_TICK_US .RW 10 1 1000, fr Fld.TS_CTRL_SLICE_EN .RW 0]
  | .TS_ARG => [fr Fld.TS_ARG_ARG .RW 0]
  | .TS_CMD => [fr Fld.TS_CMD_OP .WO 0, fr Fld.TS_CMD_THREAD .WO 0, fr Fld.TS_CMD_PRIO .WO 0, fr Fld.TS_CMD_HOME .WO 0, fr Fld.TS_CMD_TIMEOUT .WO 0]
  | .TS_RSP => [fr Fld.TS_RSP_STATUS .RO 0]
  | .TS_CORE => [fr Fld.TS_CORE_RUNNING .RO 0, fr Fld.TS_CORE_RUN_VALID .RO 0, fr Fld.TS_CORE_READY_DEPTH .RO 0, fr Fld.TS_CORE_TOP_PRIO .RO 0, fr Fld.TS_CORE_LOAD .RO 0]
  | .TS_THR => [frw Fld.TS_THR0_STATE .RO 0 0, frw Fld.TS_THR0_PRIO .RO 0 0, frw Fld.TS_THR0_HOME .RO 0 0, frw Fld.TS_THR0_RR .RW 0 0, frw Fld.TS_THR0_RESULT .RO 0 0, frw Fld.TS_THR1_COMPLETION .RO 0 1, frw Fld.TS_THR2_WAIT_TOTAL .RO 0 2, frw Fld.TS_THR2_WAIT_MAX .RO 0 2]
  | .IC_CTRL => [fr Fld.IC_CTRL_CNT_EN .RW 1, fr Fld.IC_CTRL_CNT_CLEAR .WO 0, frc Fld.IC_CTRL_STORM_WIN_US .RW 100 10 1000, frc Fld.IC_CTRL_STUCK_US .RW 1000 1 65535]
  | .IC_CLAIM => [fr Fld.IC_CLAIM_SOURCE .RC 0, fr Fld.IC_CLAIM_VALID .RC 0]
  | .IC_EOI => [fr Fld.IC_EOI_SOURCE .WO 0]
  | .IC_CORE => [frc Fld.IC_CORE_THRESH .RW 0 0 16, fr Fld.IC_CORE_TOP .RO 0, fr Fld.IC_CORE_DEPTH .RO 0]
  | .IC_SWSET => [fr Fld.IC_SWSET_SOURCE .WO 0]
  | .IC_DELIVERED => [fr Fld.IC_DELIVERED_VALUE .RO 0]
  | .IC_COALESCED => [fr Fld.IC_COALESCED_VALUE .RO 0]
  | .IC_STORM => [fr Fld.IC_STORM_VALUE .RO 0]
  | .IC_STUCK => [fr Fld.IC_STUCK_VALUE .RO 0]
  | .IC_STACK_FAULT => [fr Fld.IC_STACK_FAULT_VALUE .RO 0]
  | .IC_SRC => [fr Fld.IC_SRC_TARGET .RW 0, fr Fld.IC_SRC_PRIO .RW 0, fr Fld.IC_SRC_EN .RW 0, fr Fld.IC_SRC_LEVEL .RO 0, fr Fld.IC_SRC_PENDING .RO 0, fr Fld.IC_SRC_ACTIVE .RO 0, fr Fld.IC_SRC_STORM .W1C 0, fr Fld.IC_SRC_STUCK .W1C 0, frc Fld.IC_SRC_LIMIT .RW 64 1 255, fr Fld.IC_SRC_ON_CORE .RO 0]
  | .PL_STATUS => [fr Fld.PL_STATUS_ASLEEP .RO 0, fr Fld.PL_STATUS_LAST .RO 0, fr Fld.PL_STATUS_PL_WAKES .RO 0]
  | .PL_WAKE => [fr Fld.PL_WAKE_BASE .RW 0, frc Fld.PL_WAKE_SPAN_LOG .RW 0 0 6, fr Fld.PL_WAKE_EN .RW 0]
  | .HL_CTRL => [fr Fld.HL_CTRL_CNT_EN .RW 1, fr Fld.HL_CTRL_CNT_CLEAR .WO 0]
  | .HL_STATUS => [fr Fld.HL_STATUS_SPEED .RO 0, fr Fld.HL_STATUS_WIDTH .RO 0, fr Fld.HL_STATUS_PERST .RO 0, fr Fld.HL_STATUS_FABRIC_TIME .RO 0]
  | .HL_BAR2 => [fr Fld.HL_BAR2_BASE .RW 0]
  | .HL_PTM => [fr Fld.HL_PTM_OFFSET .RO 0, fr Fld.HL_PTM_VALID .RO 0]
  | .HL_BAR2_BAD => [fr Fld.HL_BAR2_BAD_VALUE .RO 0]
  | .HL_CPL_TIMEOUT => [fr Fld.HL_CPL_TIMEOUT_VALUE .RO 0]
  | .HL_RETRAIN => [fr Fld.HL_RETRAIN_VALUE .RO 0]
  | .HL_POISON_RX => [fr Fld.HL_POISON_RX_VALUE .RO 0]
  | .PM_CTRL => [fr Fld.PM_CTRL_CNT_EN .RW 1, fr Fld.PM_CTRL_CNT_CLEAR .WO 0, fr Fld.PM_CTRL_AGE_WARN_PPM .RW 30000]
  | .PM_STATUS => [fr Fld.PM_STATUS_T .RO 64, fr Fld.PM_STATUS_DEVICE .RO 0, fr Fld.PM_STATUS_TRIM_LIMIT .W1C 0, fr Fld.PM_STATUS_GAIN .RO 512, fr Fld.PM_STATUS_TMAX .RO 0]
  | .PM_LIMIT => [frc Fld.PM_LIMIT_WATTS .RW 4400 1800 4400]
  | .PM_EST => [fr Fld.PM_EST_P .RO 0, fr Fld.PM_EST_A .RO 0]
  | .PM_PHASEMAP => [fr Fld.PM_PHASEMAP_PHASE0 .RW 0, fr Fld.PM_PHASEMAP_PHASE1 .RW 0, fr Fld.PM_PHASEMAP_PHASE2 .RW 0, fr Fld.PM_PHASEMAP_PHASE3 .RW 0, fr Fld.PM_PHASEMAP_PHASE4 .RW 0, fr Fld.PM_PHASEMAP_PHASE5 .RW 0, fr Fld.PM_PHASEMAP_PHASE6 .RW 0, fr Fld.PM_PHASEMAP_PHASE7 .RW 0]
  | .PM_TRIP => [fr Fld.PM_TRIP_INTERLOCK .W1C 0, fr Fld.PM_TRIP_THERMAL .W1C 0, fr Fld.PM_TRIP_TEMP .RO 0]
  | .PM_OPP => [frc Fld.PM_OPP_VCORE_MV .RW 750 550 900, frc Fld.PM_OPP_ISSUE_LIMIT .RW 64 8 64, fr Fld.PM_OPP_ISLAND_CAP .RW 0, frc Fld.PM_OPP_DROOP_MV .RW 40 20 100]
  | .PM_THROTTLE_INT => [fr Fld.PM_THROTTLE_INT_VALUE .RO 0]
  | .ISL_STATUS => [fr Fld.ISL_STATUS_STATE .RO 0, fr Fld.ISL_STATUS_OPP .RO 0, fr Fld.ISL_STATUS_VCORE_MV .RO 750, fr Fld.ISL_STATUS_F .RO 64, fr Fld.ISL_STATUS_THERMAL .RO 64, fr Fld.ISL_STATUS_TEMP .RO 0, fr Fld.ISL_STATUS_EST .RO 0, fr Fld.ISL_STATUS_RAMPING .RO 0, fr Fld.ISL_STATUS_DROOP_HOLD .RO 0]
  | .ISL_AGE => [fr Fld.ISL_AGE_PPM .RO 0, fr Fld.ISL_AGE_WARN .W1C 0]
  | .ISL_DROOPS => [fr Fld.ISL_DROOPS_VALUE .RO 0]
  | .ISL_RAMPS => [fr Fld.ISL_RAMPS_VALUE .RO 0]
  | .MTR_ID => [fr Fld.MTR_ID_ID .RO 0]
  | .MTR_VERSION => [fr Fld.MTR_VERSION_FW_VERSION .RO 0, fr Fld.MTR_VERSION_FW_CRC .RO 0]
  | .MTR_STATUS => [fr Fld.MTR_STATUS_STATE .RO 0, fr Fld.MTR_STATUS_CAUSE .RO 0, fr Fld.MTR_STATUS_OVERLOAD .RO 0, fr Fld.MTR_STATUS_FULL .RO 0]
  | .MTR_ENERGY => [fr Fld.MTR_ENERGY_TOTAL .RO 0]
  | .MTR_POWER => [fr Fld.MTR_POWER_P .RO 0]
  | .MTR_RECORDS => [fr Fld.MTR_RECORDS_LAST .RO 0, fr Fld.MTR_RECORDS_ACKED .RO 0]
  | .MTR_EVENTS => [fr Fld.MTR_EVENTS_EVENTS .RO 0]
  | .MTR_TAG => [fr Fld.MTR_TAG_TAG .RO 0]
  | .MTR_TIME => [fr Fld.MTR_TIME_TIME .RO 0]
  | .BOOT_STATUS => [fr Fld.BOOT_STATUS_STAGE .RO 0, fr Fld.BOOT_STATUS_SLOT .RO 0, fr Fld.BOOT_STATUS_SLOT_FALLBACK .W1C 0, fr Fld.BOOT_STATUS_FW_RB .RO 0, fr Fld.BOOT_STATUS_EXT_RB .RO 0, fr Fld.BOOT_STATUS_KEYS .RO 0, fr Fld.BOOT_STATUS_EXT_LOADED .RO 0, fr Fld.BOOT_STATUS_LAST_RESET .RO 0, fr Fld.BOOT_STATUS_METER_FAULT .RO 0, fr Fld.BOOT_STATUS_READY_MS .RO 0]
  | .RT_MEAS => [fr Fld.RT_MEAS_VALUE .RO 0]
  | .ERR_CTRL => [fr Fld.ERR_CTRL_CNT_EN .RW 1, fr Fld.ERR_CTRL_CNT_CLEAR .WO 0, fr Fld.ERR_CTRL_SCRUB_H .RW 24]
  | .ERR_STATUS => [fr Fld.ERR_STATUS_PRODUCED .RO 0]
  | .ERR_CE => [fr Fld.ERR_CE_VALUE .RO 0]
  | .ERR_UE => [fr Fld.ERR_UE_VALUE .RO 0]
  | .ERR_MERGED => [fr Fld.ERR_MERGED_VALUE .RO 0]
  | .ERR_LOG => [fr Fld.ERR_LOG_RECORD .RO 0]
  | .SC_REPAIR => [fr Fld.SC_REPAIR_ROWS_USED .RO 0, fr Fld.SC_REPAIR_WAYS_OFF .RO 0, fr Fld.SC_REPAIR_LANES_USED .RO 0]
  | .CL_SPARE => [fr Fld.CL_SPARE_FOR .RW 0, fr Fld.CL_SPARE_EN .RW 0]
  | .CL_SPARE_FUSE => [fr Fld.CL_SPARE_FUSE_FOR .RO 0, fr Fld.CL_SPARE_FUSE_EN .RO 0]
  | .CL_SPARE_PROG => [fr Fld.CL_SPARE_PROG_FOR .WO 0, fr Fld.CL_SPARE_PROG_EN .WO 0]
  | .CL_SPARE_STATUS => [fr Fld.CL_SPARE_STATUS_PROG_BUSY .RO 0, fr Fld.CL_SPARE_STATUS_REJECT .W1C 0, fr Fld.CL_SPARE_STATUS_PARITY_BAD .RO 0]
  | .CB_CTRL => [fr Fld.CB_CTRL_CNT_EN .RW 1, fr Fld.CB_CTRL_CNT_CLEAR .WO 0, fr Fld.CB_CTRL_MODE .RW 0]
  | .CB_STATUS => [fr Fld.CB_STATUS_SEQ .RO 0, fr Fld.CB_STATUS_CAPTURED .RO 0]
  | .CB_CNT => [fr Fld.CB_CNT_VALUE .RO 0]
  | .CB_SHADOW => [fr Fld.CB_SHADOW_VALUE .RO 0]

end Sys2Proof.Machine
end

