-- ==== Sys2Proof/Machine/Tbl.lean ====
section
/-! DEFINITION. Sparse tables in one canonical form: keys strictly rising, no entry equal to what an unlisted key reads as.
Register files, unit state and the memories are such tables; a memory is a table of bytes (Host.Cell). -/

namespace Sys2Proof.Machine

/-- A sparse table from natural keys. -/
abbrev Tbl (α : Type) := List (Nat × α)

/-- A memory: bytes by address. -/
abbrev Memory := List Host.Cell

namespace Tbl
variable {α : Type}

/-- The entry of a key, if the table lists it. -/
def find? : Tbl α → Nat → Option α
  | [], _ => none
  | (j, v) :: r, k => if j = k then some v else find? r k

/-- What a key reads as: its entry, else the default of the key. -/
def get (d : Nat → α) (t : Tbl α) (k : Nat) : α := (find? t k).getD (d k)

/-- The table without a key's entry. -/
def erase : Tbl α → Nat → Tbl α
  | [], _ => []
  | (j, v) :: r, k => if j = k then erase r k else (j, v) :: erase r k

/-- The table with a key's entry set to a value, keys kept rising. -/
def insert : Tbl α → Nat → α → Tbl α
  | [], k, v => [(k, v)]
  | (j, w) :: r, k, v =>
    if j < k then (j, w) :: insert r k v
    else if j = k then (k, v) :: r
    else (k, v) :: (j, w) :: r

/-- A write: the value an unlisted key reads as removes the entry, so equal tables are equal data. -/
def put [DecidableEq α] (d : Nat → α) (t : Tbl α) (k : Nat) (v : α) : Tbl α :=
  if v = d k then erase t k else insert t k v

/-- A read, a change and a write. -/
def upd [DecidableEq α] (d : Nat → α) (t : Tbl α) (k : Nat) (f : α → α) : Tbl α :=
  put d t k (f (get d t k))

/-- Keys strictly rising. -/
def sorted : Tbl α → Bool
  | [] => true
  | [_] => true
  | (j, _) :: (k, w) :: r => decide (j < k) && sorted ((k, w) :: r)

/-- The canonical form. -/
def wf [DecidableEq α] (d : Nat → α) (t : Tbl α) : Bool :=
  sorted t && t.all fun e => decide (e.2 ≠ d e.1)

/-- The entries whose key lies outside [lo, hi). -/
def dropRange (t : Tbl α) (lo hi : Nat) : Tbl α := t.filter fun e => e.1 < lo || hi ≤ e.1

/-- The entries whose key fails a test. -/
def dropIf (t : Tbl α) (p : Nat → Bool) : Tbl α := t.filter fun e => !p e.1

/-- Every entry changed by a function; entries that become the default are removed. -/
def mapEntries [DecidableEq α] (d : Nat → α) (t : Tbl α) (f : Nat → α → α) : Tbl α :=
  (t.map fun e => (e.1, f e.1 e.2)).filter fun e => decide (e.2 ≠ d e.1)

end Tbl

namespace Memory

/-- What an unlisted byte reads as: both memory tiers are cleared at start-up (R554) and scratch is zero-filled (R182).
DESIGN CHOICE for host memory, which the spec leaves outside the device (log entry 4). -/
def unlisted : Nat → Byte := fun _ => 0

/-- One byte. -/
def read (m : Memory) (a : Nat) : Byte := Tbl.get unlisted m a

/-- One byte written. -/
def write (m : Memory) (a : Nat) (b : Byte) : Memory := Tbl.put unlisted m a b

/-- `n` bytes from an address. -/
def readBytes (m : Memory) (a : Nat) : Nat → List Byte
  | 0 => []
  | n + 1 => read m a :: readBytes m (a + 1) n

/-- Bytes written from an address on. -/
def writeBytes (m : Memory) (a : Nat) : List Byte → Memory
  | [] => m
  | b :: r => writeBytes (write m a b) (a + 1) r

/-- A little-endian number of `n` bytes (R8). -/
def readLE (m : Memory) (a n : Nat) : Nat := leNat (readBytes m a n)

/-- A number written in `n` little-endian bytes (R8). -/
def writeLE (m : Memory) (a n v : Nat) : Memory := writeBytes m a (leBytes n v)

/-- Every byte of [lo, hi) reads as unlisted afterwards. -/
def clearRange (m : Memory) (lo hi : Nat) : Memory := Tbl.dropRange m lo hi

/-- The canonical form of a memory. -/
def wf (m : Memory) : Bool := Tbl.wf unlisted m

end Memory

end Sys2Proof.Machine
end

