-- ==== Sys2Proof/Machine/Float.lean ====
section
/-! DEFINITION. Number formats, scales and rounding (02_number_formats.md, R38 to R66): values as exact dyadic numbers, one
rounding function, the FP32 operations with a single rounding, conversion into and out of the MX and wide formats, and the
draw generator. -/

namespace Sys2Proof.Machine

/-- A value of a floating-point format: NaN with its stored sign, an infinity, or exactly (−1)^neg × m × 2^e. -/
inductive FV where
  | nan (neg : Bool)
  | inf (neg : Bool)
  | fin (neg : Bool) (m : Nat) (e : Int)
  deriving DecidableEq, Repr

/-- How a rounding goes: to nearest, ties to even (R55), or by a 12-bit draw (R57). -/
inductive Rnd where
  | near
  | stoch (draw : Nat)
  deriving DecidableEq, Repr

/-- A magnitude m / 2^sh rounded to an integer (R55, R57). -/
def roundShift (m : Nat) (sh : Int) (r : Rnd) : Nat :=
  if sh ≤ 0 then m * 2 ^ (-sh).toNat
  else
    let k := sh.toNat
    let lo := m / 2 ^ k
    let frac := m % 2 ^ k
    match r with
    | .near => if 2 ^ k < 2 * frac ∨ (2 * frac = 2 ^ k ∧ lo % 2 = 1) then lo + 1 else lo
    | .stoch d => if 4096 ≤ frac * 4096 / 2 ^ k + d then lo + 1 else lo

/-- A format by its exponent and mantissa widths and bias (R39, R45). -/
structure Fmt where
  eb : Nat
  mb : Nat
  bias : Nat
  /-- an exponent of all ones is infinity or NaN -/
  ieee : Bool
  deriving DecidableEq, Repr

namespace Fmt
def fp32 : Fmt := ⟨8, 23, 127, true⟩
def fp16 : Fmt := ⟨5, 10, 15, true⟩
def bf16 : Fmt := ⟨8, 7, 127, true⟩
def e2m1 : Fmt := ⟨2, 1, 1, false⟩
def e3m2 : Fmt := ⟨3, 2, 3, false⟩
def e2m3 : Fmt := ⟨2, 3, 1, false⟩
def e4m3 : Fmt := ⟨4, 3, 7, false⟩
def e5m2 : Fmt := ⟨5, 2, 15, true⟩

/-- The exponent of the least unit in the last place. -/
def qmin (f : Fmt) : Int := 1 - (f.bias : Int) - f.mb
/-- The width of an element. -/
def width (f : Fmt) : Nat := 1 + f.eb + f.mb
/-- The magnitude bits of infinity where the format has one. -/
def infCode (f : Fmt) : Nat := (2 ^ f.eb - 1) * 2 ^ f.mb
/-- The magnitude bits of the canonical quiet NaN (R45). -/
def qnanCode (f : Fmt) : Nat := f.infCode + 2 ^ (f.mb - 1)
/-- The magnitude bits of the largest finite value (R39, R40). -/
def maxCode (f : Fmt) : Nat :=
  if f.ieee then f.infCode - 1 else if f.eb = 4 then 0x7E else 2 ^ (f.eb + f.mb) - 1
end Fmt

/-- The rounded magnitude bits of m × 2^e in a format, not bounded above: the exponent field counts on from the mantissa. -/
def encodeMag (f : Fmt) (m : Nat) (e : Int) (r : Rnd) : Nat :=
  if m = 0 then 0
  else
    let q := max ((Nat.log2 m : Int) + e - f.mb) f.qmin
    (q - f.qmin).toNat * 2 ^ f.mb + roundShift m (q - e) r

/-- The value of an element's bits in a format (R39, R40, R45). -/
def Fmt.decode (f : Fmt) (n : Nat) : FV :=
  let neg := decide (n / 2 ^ (f.eb + f.mb) % 2 = 1)
  let mag := n % 2 ^ (f.eb + f.mb)
  if f.ieee ∧ f.infCode < mag then .nan neg
  else if f.ieee ∧ mag = f.infCode then .inf neg
  else if ¬ f.ieee ∧ f.eb = 4 ∧ mag = 0x7F then .nan neg
  else if mag / 2 ^ f.mb = 0 then .fin neg mag f.qmin
  else .fin neg (2 ^ f.mb + mag % 2 ^ f.mb) (f.qmin + (mag / 2 ^ f.mb : Nat) - 1)

/-- A sign bit above a format's magnitude bits. -/
def Fmt.signed (f : Fmt) (neg : Bool) (mag : Nat) : Nat := (if neg then 2 ^ (f.eb + f.mb) else 0) + mag

/-- A value rounded into a wide format; overflow gives an infinity (R45, R54). -/
def Fmt.encode (f : Fmt) (v : FV) (r : Rnd) : Nat :=
  match v with
  | .nan _ => f.qnanCode
  | .inf s => f.signed s f.infCode
  | .fin s m e => f.signed s (min f.infCode (encodeMag f m e r))

/-- The magnitude as an exact dyadic comparison: a × 2^ea ≤ b × 2^eb. -/
def dyLe (a : Nat) (ea : Int) (b : Nat) (eb : Int) : Bool :=
  if ea ≤ eb then decide (a ≤ b * 2 ^ (eb - ea).toNat) else decide (a * 2 ^ (ea - eb).toNat ≤ b)

/-- A signed mantissa. -/
def sgn (neg : Bool) (m : Nat) : Int := if neg then -(m : Int) else m

namespace FV

def isNaN : FV → Bool | .nan _ => true | _ => false
def isInf : FV → Bool | .inf _ => true | _ => false
def isFin : FV → Bool | .fin .. => true | _ => false
def isZero : FV → Bool | .fin _ m _ => decide (m = 0) | _ => false
def neg? : FV → Bool | .nan s => s | .inf s => s | .fin s _ _ => s
def negate : FV → FV | .nan s => .nan s | .inf s => .inf !s | .fin s m e => .fin (!s) m e
def abs : FV → FV | .nan _ => .nan false | .inf _ => .inf false | .fin _ m e => .fin false m e

/-- Exact sum; IEEE 754 rules for signs, infinities and NaN (R45). -/
def add (a b : FV) : FV :=
  match a, b with
  | .nan s, _ => .nan s
  | _, .nan s => .nan s
  | .inf s, .inf t => if s = t then .inf s else .nan false
  | .inf s, _ => .inf s
  | _, .inf s => .inf s
  | .fin s m e, .fin t n f =>
    let g := min e f
    let z := sgn s (m * 2 ^ (e - g).toNat) + sgn t (n * 2 ^ (f - g).toNat)
    if z = 0 then .fin (s && t) 0 0 else .fin (decide (z < 0)) z.natAbs g

/-- Exact product. -/
def mul (a b : FV) : FV :=
  match a, b with
  | .nan s, _ => .nan s
  | _, .nan s => .nan s
  | .inf s, .inf t => .inf (s != t)
  | .inf s, .fin t n _ => if n = 0 then .nan false else .inf (s != t)
  | .fin s m _, .inf t => if m = 0 then .nan false else .inf (s != t)
  | .fin s m e, .fin t n f => .fin (s != t) (m * n) (e + f)

/-- Quotient with enough bits and a sticky bit that one rounding to any format of R38 is correct. -/
def div (a b : FV) : FV :=
  match a, b with
  | .nan s, _ => .nan s
  | _, .nan s => .nan s
  | .inf _, .inf _ => .nan false
  | .inf s, .fin t _ _ => .inf (s != t)
  | .fin s _ _, .inf t => .fin (s != t) 0 0
  | .fin s m e, .fin t n f =>
    if n = 0 then (if m = 0 then .nan false else .inf (s != t))
    else
      let k := 96 + Nat.log2 n
      let q := m * 2 ^ k / n
      let sticky := if m * 2 ^ k % n = 0 then 0 else 1
      .fin (s != t) (2 * q + sticky) (e - f - k - 1)

/-- Integer square root, one result bit a step, from bit `k` down. -/
def isqrt (n : Nat) : Nat → Nat → Nat
  | 0, r => r
  | k + 1, r => let t := r + 2 ^ k; isqrt n k (if t * t ≤ n then t else r)

/-- Square root with a sticky bit; the square root of −0 is −0 (IEEE 754). -/
def sqrt (a : FV) : FV :=
  match a with
  | .nan s => .nan s
  | .inf s => if s then .nan false else .inf false
  | .fin s m e =>
    if m = 0 then .fin s 0 0 else if s then .nan false
    else
      let k : Nat := 64 + ((e % 2).toNat)
      let n := m * 2 ^ k
      let r := isqrt n (Nat.log2 n / 2 + 1) 0
      let sticky := if r * r = n then 0 else 1
      .fin false (2 * r + sticky) ((e - k) / 2 - 1)

/-- The reciprocal of a square root, cut off with a sticky bit: the root of 2^k / m, cut off, is that of its integer part. -/
def rsqrt (a : FV) : FV :=
  match a with
  | .fin false m e =>
    if m = 0 then .inf false
    else
      let k : Nat := 256 + (e % 2).toNat
      let n := 2 ^ k / m
      let r := isqrt n (Nat.log2 n / 2 + 1) 0
      .fin false (2 * r + if r * r * m = 2 ^ k then 0 else 1) (-((k : Int) + e) / 2 - 1)
  | _ => .nan false

/-- `a < b` for values that are not NaN; both zeros are equal. -/
def lt (a b : FV) : Bool :=
  match a, b with
  | .nan _, _ => false
  | _, .nan _ => false
  | .inf s, .inf t => s && !t
  | .inf s, .fin .. => s
  | .fin .., .inf t => !t
  | .fin s m e, .fin t n f =>
    let g := min e f
    decide (sgn s (m * 2 ^ (e - g).toNat) < sgn t (n * 2 ^ (f - g).toNat))

end FV

/-- FP32 bits to their value. -/
def f32 (x : Half) : FV := Fmt.fp32.decode x.toNat
/-- A value rounded to FP32. -/
def toF32 (v : FV) (r : Rnd := .near) : Half := BitVec.ofNat 32 (Fmt.fp32.encode v r)

def fadd (a b : Half) : Half := toF32 ((f32 a).add (f32 b))
def fsub (a b : Half) : Half := toF32 ((f32 a).add (f32 b).negate)
def fmul (a b : Half) : Half := toF32 ((f32 a).mul (f32 b))
/-- a × b + c rounded once. -/
def ffma (a b c : Half) : Half := toF32 (((f32 a).mul (f32 b)).add (f32 c))
def fdiv (a b : Half) : Half := toF32 ((f32 a).div (f32 b))
def fsqrt (a : Half) : Half := toF32 (f32 a).sqrt
def fneg (a : Half) : Half := a ^^^ 0x80000000#32
def fabs (a : Half) : Half := a &&& 0x7FFFFFFF#32
/-- Neither infinite nor NaN. -/
def ffinite (a : Half) : Bool := (f32 a).isFin
/-- An unsigned integer rounded to FP32. -/
def fofNat (n : Nat) : Half := toF32 (.fin false n 0)

/-! ### Format codes (R38) -/

/-- Element width in bits of a format code; 0 for a reserved code. -/
def fmtBits (c : Nat) : Nat := [4, 6, 6, 8, 8, 8, 16, 16, 32].getD c 0
/-- Codes 0 to 5 are block scaled. -/
def fmtIsMX (c : Nat) : Bool := decide (c ≤ 5)
/-- The floating-point layout of a code (5, MXINT8, has none of its own). -/
def fmtOf (c : Nat) : Fmt :=
  match c with
  | 0 => .e2m1 | 1 => .e3m2 | 2 => .e2m3 | 3 => .e4m3 | 4 => .e5m2 | 6 => .bf16 | 7 => .fp16 | _ => .fp32
/-- The exponent of the largest normal value (R39, R41). -/
def fmtEmax (c : Nat) : Int := [2, 4, 2, 8, 15, 0].getD c 0
/-- The largest finite magnitude as mantissa and exponent (R39, R41). -/
def fmtMax (c : Nat) : Nat × Int :=
  match c with
  | 0 => (6, 0) | 1 => (28, 0) | 2 => (15, -1) | 3 => (448, 0) | 4 => (57344, 0) | _ => (127, -6)

/-- The value of an MX element's bits (R39 to R41). -/
def mxElem (c n : Nat) : FV :=
  if c = 5 then
    let z := toSigned 8 n
    .fin (decide (z < 0)) z.natAbs (-6)
  else (fmtOf c).decode n

/-- The value of element bits under a tensor scale and a block scale code (R42, R46), exact. -/
def mxValue (c : Nat) (tscale : Half) (scale elem : Nat) : FV :=
  if scale = 0xFF then .nan false
  else ((f32 tscale).mul (.fin false 1 ((scale : Int) - 127))).mul (mxElem c elem)

/-- The tensor scale in force for a value the host wrote (R47), and whether it was clamped. -/
def tensorScale (x : Half) : Half × Bool :=
  let mag := x.toNat % 2 ^ 31
  if 0x7F800000 < mag then (0x3F800000#32, true)
  else if mag = 0x7F800000 then (0x7F7FFFFF#32, true)
  else if mag < 0x00800000 then (0x00800000#32, true)
  else if 2 ^ 31 ≤ x.toNat then (BitVec.ofNat 32 mag, true)
  else (x, false)

/-! ### Draws (R57 to R60). A generator's position g = 5 n + k names draw k of output n. -/

/-- Output n of the generator of R59. -/
def srOut (key : Word) (n : Nat) : Word :=
  let z := key + BitVec.ofNat 64 (n + 1) * 0x9E3779B97F4A7C15#64
  let z := (z ^^^ (z >>> 30)) * 0xBF58476D1CE4E5B9#64
  let z := (z ^^^ (z >>> 27)) * 0x94D049BB133111EB#64
  z ^^^ (z >>> 31)

/-- The key of a generator (R59). -/
def srKey (seed : Word) (genIndex : Nat) : Word := seed ^^^ BitVec.ofNat 64 (genIndex * 2 ^ 48)

/-- The draw at a position (R60). -/
def srDraw (key : Word) (g : Nat) : Nat := bitsOf (srOut key (g / 5)).toNat (12 * (g % 5)) 12

/-- A source of roundings: none, or a generator with its next position. -/
structure Drawer where
  on : Bool
  key : Word
  pos : Nat
  deriving DecidableEq, Repr

/-- The next rounding, and the generator after it. -/
def Drawer.take (d : Drawer) : Rnd × Drawer :=
  if d.on then (.stoch (srDraw d.key d.pos), { d with pos := d.pos + 1 }) else (.near, d)

/-! ### Conversion, with the five kinds of statistics of R64 -/

/-- Increments of the five kinds of R64. -/
structure Stat where
  conv : Nat
  sat : Nat
  van : Nat
  zero : Nat
  nan : Nat
  deriving DecidableEq, Repr

namespace Stat
def none : Stat := ⟨0, 0, 0, 0, 0⟩
def add (a b : Stat) : Stat := ⟨a.conv + b.conv, a.sat + b.sat, a.van + b.van, a.zero + b.zero, a.nan + b.nan⟩
end Stat

/-- A value converted to a wide format, counted (R54, R64). A draw is taken for a finite value that goes to FP16 or BF16; a conversion to
FP32 is no point of stochastic rounding (R55, log entry 8). -/
def toWide (c : Nat) (v : FV) (d : Drawer) : Nat × Stat × Drawer :=
  let f := fmtOf c
  match v with
  | .fin _ m _ =>
    let (r, d) := if c = 8 then (.near, d) else d.take
    let code := f.encode v r
    let mag := code % 2 ^ (f.eb + f.mb)
    (code, ⟨1, if mag = f.infCode then 1 else 0, if m ≠ 0 ∧ mag = 0 then 1 else 0, 0, 0⟩, d)
  | .inf _ => (f.encode v .near, ⟨1, 0, 0, 0, 0⟩, d)
  | .nan _ => (f.encode v .near, ⟨1, 0, 0, 0, 1⟩, d)

/-- An MX element decoded to FP32 (R53), counted against FP32. -/
def mxToF32 (c : Nat) (tscale : Half) (scale elem : Nat) : Half × Stat :=
  let v := mxValue c tscale scale elem
  let (code, st, _) := toWide 8 v ⟨false, 0, 0⟩
  (BitVec.ofNat 32 code, st)

/-- One element y / 2^s into MX format c (R52): the code, saturated, vanished, the generator. -/
def mxElemConv (c : Nat) (y : FV) (s : Int) (d : Drawer) : Nat × Stat × Drawer :=
  let f := fmtOf c
  let w := if c = 5 then 8 else f.width
  let (mx, me) := fmtMax c
  let sign (neg : Bool) (mag : Nat) : Nat :=
    if c = 5 then (if neg then (256 - mag) % 256 else mag) else (if neg then 2 ^ (w - 1) else 0) + mag
  let maxMag := if c = 5 then 127 else f.maxCode
  let lim : Int := if c = 5 then -6 else f.qmin
  match y with
  | .nan _ => (0, .none, d)
  | .inf neg => (sign neg maxMag, ⟨1, 1, 0, 0, 0⟩, d)
  | .fin neg m e =>
    let e := e - s
    if m = 0 then (sign neg 0, ⟨1, 0, 0, 0, 0⟩, d)
    else if !dyLe m e mx me then (sign neg maxMag, ⟨1, 1, 0, 0, 0⟩, d)
    else
      let (r, d) := d.take
      let van := decide ((Nat.log2 m : Int) + e < lim)
      let mag :=
        if van && decide (r = .near) then 0
        else if c = 5 then roundShift m (-6 - e) r else encodeMag f m e r
      (sign neg mag, ⟨1, 0, if van then 1 else 0, 0, 0⟩, d)

/-- The larger of two magnitudes. -/
def dyMax (a b : Nat × Int) : Nat × Int := if dyLe a.1 a.2 b.1 b.2 then b else a

/-- The largest finite magnitude of a block. -/
def blockAmax : List FV → Nat × Int
  | [] => (0, 0)
  | .fin _ m e :: r => dyMax (m, e) (blockAmax r)
  | _ :: r => blockAmax r

/-- The shared exponent of R51. -/
def blockShared (c : Nat) (ys : List FV) : Int :=
  let (m, e) := blockAmax ys
  if m = 0 then 127
  else
    let s := (Nat.log2 m : Int) + e - fmtEmax c
    let (mx, me) := fmtMax c
    let s := if dyLe m (e - s) mx me then s else s + 1
    min (max s (-127)) 127

/-- The elements of a block converted one after another with a shared exponent. -/
def mxElems (c : Nat) (s : Int) : List (Half × FV) → List Bool → Drawer → List Nat × Stat × Drawer
  | [], _, d => ([], .none, d)
  | (x, y) :: r, keep, d =>
    let (code, st, d) :=
      if keep.headD false then
        match y with
        | .nan _ => ((if x.toNat < 2 ^ 31 then 0x7F else 0xFF), (⟨1, 0, 0, 0, 0⟩ : Stat), d)
        | _ => mxElemConv c y s d
      else (0, .none, d)
    let (cs, st', d) := mxElems c s r keep.tail d
    (code :: cs, st.add st', d)

/-- One block of up to 32 values converted into MX format c with tensor scale T (R48 to R52): the element codes, the scale
code, the statistics. `keep` tells the elements that are converted; the others are padding (R44) or masked columns (R124), take
no draw and have code 0. -/
def mxBlock (c : Nat) (tscale : Half) (xs : List Half) (keep : List Bool) (d : Drawer) : List Nat × Nat × Stat × Drawer :=
  let ys := xs.map fun x => f32 (toF32 ((f32 x).div (f32 tscale)))
  let anyNaN := ys.any FV.isNaN
  let elems (s : Int) := mxElems c s (xs.zip ys) keep d
  if anyNaN && !(c == 3 || c == 4) then (xs.map fun _ => 0, 0xFF, ⟨keep.countP id, 0, 0, 0, 1⟩, d)
  else if ys.all fun y => y.isZero || y.isNaN then
    let (cs, st, d) := elems (-127)
    (cs, 0, st.add ⟨0, 0, 0, if anyNaN then 0 else 1, if anyNaN then 1 else 0⟩, d)
  else
    let s := blockShared c ys
    let (cs, st, d) := elems s
    (cs, (s + 127).toNat, st.add ⟨0, 0, 0, 0, if anyNaN then 1 else 0⟩, d)

/-- A value split in blocks of `n`, the last one short. -/
def chunks (n : Nat) : Nat → List α → List (List α)
  | 0, _ => []
  | fuel + 1, xs => if xs.isEmpty then [] else xs.take n :: chunks n fuel (xs.drop n)

/-- A list padded to length n. -/
def padTo (n : Nat) (a : α) (xs : List α) : List α := xs ++ List.replicate (n - xs.length) a

/-- Values converted into MX blocks one after another, the last block padded (R43, R44): codes, scales, statistics. -/
def mxBlocks (c : Nat) (tscale : Half) : List (List Half) → Drawer → List Nat × List Nat × Stat × Drawer
  | [], d => ([], [], .none, d)
  | b :: r, d =>
    let (cs, s, st, d) := mxBlock c tscale (padTo 32 0 b) (b.map fun _ => true) d
    let (cs', ss, st', d) := mxBlocks c tscale r d
    (cs ++ cs', s :: ss, st.add st', d)

/-- Values converted to a wide format one after another. -/
def wideAll (c : Nat) : List Half → Drawer → List Nat × Stat × Drawer
  | [], d => ([], .none, d)
  | x :: r, d =>
    let (n, st, d) := toWide c (f32 x) d
    let (ns, st', d) := wideAll c r d
    (n :: ns, st.add st', d)

/-- Element codes of width w packed little-endian (R43). -/
def packBits (w : Nat) : List Nat → Nat
  | [] => 0
  | c :: r => c % 2 ^ w + 2 ^ w * packBits w r

/-- Element codes of width w as bytes. -/
def packBytes (w : Nat) (cs : List Nat) : List Byte := leBytes ((w * cs.length + 7) / 8) (packBits w cs)

/-- Element i of width w in little-endian bytes. -/
def elemAt (w : Nat) (bs : List Byte) (i : Nat) : Nat := bitsOf (leNat bs) (w * i) w

/-- All `n` elements of width w in little-endian bytes. -/
def unpackBytes (w n : Nat) (bs : List Byte) : List Nat :=
  let v := leNat bs
  (upFrom 0 n).map fun i => bitsOf v (w * i) w

end Sys2Proof.Machine
end

