-- ==== Sys2Proof/Machine/Types.lean ====
section
/-! DEFINITION. The records of the deep state: what stands behind the registers, unit by unit. Every record is plain data. -/

namespace Sys2Proof.Machine

/-! ### Tiles (05_tile_sequencer.md, 03_matrix_arrays.md, 04_accumulation.md, 06_tile_memory.md) -/

/-- The run states of a context (R137); READY and WAIT are told apart when a slot looks (R141). -/
inductive RunState where
  | free | running | drain
  /-- a thread fault is due once the earlier outstanding instructions have completed (R164) -/
  | faulting
  | faulted
  deriving DecidableEq, Repr

/-- A thread context beside its scalar registers (R136 to R139, R170). -/
structure Thread where
  run : RunState
  /-- the WAIT cause in force that is not read off the instructions: 3 to 6 and 8; 0 none -/
  hold : Nat
  prio : Nat
  pin : Bool
  /-- predicates; bit 0 reads as 1 (R136) -/
  pred : BitVec 8
  pc : BitVec 52
  fault : Nat
  launched : Bool
  /-- sequence of the launch descriptor -/
  seq : Nat
  /-- completion counter of the launch descriptor (R139) -/
  done : Option Nat
  /-- consecutive slots in which another context issued while this one was READY (R142) -/
  passed : Nat
  /-- the address of the context's last HALT (R171) -/
  halted : BitVec 52
  deriving DecidableEq, Repr

/-- A context after cold reset: FREE (R170). -/
def Thread.reset : Thread := ⟨.free, 0, 0, false, 1#8, 0, 0, false, 0, none, 0, 0⟩

/-- A context set FREE other than by its own HALT: its priority, its predicates, whether a launch started it and the address of its last
HALT still show (R170, R171). -/
def Thread.freed (h : Thread) : Thread :=
  { Thread.reset with prio := h.prio, pred := h.pred, launched := h.launched, halted := h.halted }

/-- What an outstanding tile instruction still has to do. Scalar sources are read at issue (R141). -/
inductive OpKind where
  | wload (fmt piece plane mask sparsity : Nat) (base stride : Nat)
  | mma (fmt plane mask mode grouping : Nat) (reduced mirror join stoch : Bool) (index m : Nat) (base layout : Nat)
  | readout (mode index count mask target cls : Nat) (stoch clear toVec : Bool) (ts tw td : Half) (colMask : Nat) (dest : Nat)
  /-- a vector-unit result: lanes for a vector register, or a scalar register's value -/
  | vecLanes (vd : Nat) (lanes : List Half)
  | vecScalar (rd : Nat) (v : Word)
  | vacc (op half entry : Nat) (stoch : Bool) (vals idxs : List Half)
  | vcvt (addr fmt cls : Nat) (stoch : Bool) (scale : Half) (lanes : List Half)
  | vldc (addr fmt cls vd : Nat) (scale : Half)
  | ld (addr size rd : Nat) (signed : Bool)
  | st (addr size : Nat) (value : Word)
  | vld (addr vd : Nat)
  | vst (addr : Nat) (lanes : List Half)
  /-- a descriptor read from scratch and posted: queue context, or DMA engine's FIFO; `copy` is the DMA descriptor once read (R328) -/
  | post (addr rd queue : Nat) (scatter : Option Bool)
  | postDma (addr rd : Nat) (copy : Option (List Byte))
  | devLd (addr size rd : Nat) (signed : Bool)
  | devSt (addr size : Nat) (value : Word)
  | sync (sub : Bool) (n counter rd : Nat)
  /-- a wait or a read behind an add or subtract of its thread on the same counter (R382) -/
  | syncWait (n counter rd : Nat)
  | syncRead (counter rd : Nat)
  | signal (counter rd seq bytes module level : Nat)
  deriving DecidableEq, Repr

/-- An outstanding instruction: its number in issue order of the tile, its context, the registers it has yet to write
(0 to 31 scalar, 32 to 39 predicates, 40 to 55 vector), its work, whether its unit has started it and how far it is. -/
structure TileOp where
  id : Nat
  ctx : Nat
  dst : List Nat
  kind : OpKind
  started : Bool
  progress : Nat
  deriving DecidableEq, Repr

/-- A launch descriptor (R486). -/
structure LaunchDesc where
  entry : BitVec 52
  prio : Nat
  context : Nat
  any : Bool
  done : Option Nat
  x : List Word
  deriving DecidableEq, Repr

/-- What a tile holds beside its contexts and memories. -/
structure Tile where
  nextId : Nat
  ops : List TileOp
  /-- the vector lease (R146): holder, whether a release waits, the waiters in issue order -/
  lease : Option Nat
  releasing : Bool
  leaseWait : List Nat
  /-- the context that last issued, per priority 0 to 3, and over all -/
  last : List Nat
  lastAny : Nat
  /-- the Reel turn pointer, and whether Reel mode is in force (R143) -/
  turn : Nat
  reelOn : Bool
  /-- instruction-cache lines by line number: 512 bits each (R148) -/
  icache : Tbl Nat
  /-- fetches in flight to be discarded (ICINV) -/
  discard : List Nat
  /-- the sparsity code of the last WLOAD issued for plane A, B of each array (R192): array a's in bits [2a + 1 : 2a] -/
  sparseA : Nat
  sparseB : Nat
  /-- CLEAR_ALLs that wait, oldest first, each for the instructions numbered below it (R132) -/
  clearMarks : List Nat
  deriving DecidableEq, Repr

/-- At cold reset. Where no context has issued, the round-robin starts from context 0, as if context 127 had issued last at each priority, and so does the
turn pointer of Reel mode (R142 and R143 name no first context: DESIGN CHOICE, log entry 93). -/
def Tile.reset : Tile := ⟨0, [], none, false, [], [127, 127, 127, 127], 127, 0, false, [], [], 0, 0, []⟩

/-- One weight plane of an array (R75, R90, R190): the format, the sparsity code, the piece held, 1,024 weight codes in column
order (column n, row k at 32 n + k), the position indices in the same order, the scale codes. -/
structure Plane where
  fmt : Nat
  sparsity : Nat
  piece : Nat
  elems : List Nat
  pos : List Nat
  scales : List Nat
  /-- a load of the plane is in progress (R91) -/
  loading : Bool
  deriving DecidableEq, Repr

def Plane.reset : Plane := ⟨0, 0, 0, [], [], [], false⟩

/-- The state of one row of one array (R113). -/
structure RowState where
  code : Nat
  lo : Bool
  hi : Bool
  deriving DecidableEq, Repr

def RowState.clear : RowState := ⟨0, false, false⟩

/-- Work a bank's old owner accepted before a handover (R176): tile instructions, descriptors taken from queues, descriptors of
a DMA engine's FIFO. -/
inductive Token where
  | op (id : Nat)
  | desc (q seq : Nat)
  | fifo (engine id : Nat)
  deriving DecidableEq, Repr

/-! ### Descriptors with their fields in force -/

/-- A gather or scatter descriptor (R238, R239): `bytes` is the row size; absent counters and an absent owner-after are none. -/
structure GsD where
  srcAddr : Nat
  srcKind : Nat
  flush : Bool
  srcFmt : Nat
  scatter : Bool
  first : Nat
  count : Nat
  base : Nat
  bytes : Nat
  imax : Nat
  stride : Nat
  scBase : Nat
  scBytes : Nat
  dest : Nat
  destSc : Nat
  destStride : Nat
  destScStride : Nat
  done : Option Nat
  progress : Option Nat
  chunk : Nat
  oa : Option Nat
  step : Nat
  deriving DecidableEq, Repr

/-- A DMA descriptor (R329): a scratch side names its tile within the region; `op` is chosen under log entry 16. -/
structure DmaD where
  src : Nat
  srcTile : Option Nat
  dst : Nat
  dstTile : Option Nat
  len : Nat
  rows : Nat
  srcStride : Nat
  dstStride : Nat
  sparsity : Nat
  transpose : Bool
  fill : Bool
  fmt : Nat
  done : Option Nat
  oa : Option Nat
  step : Nat
  deriving DecidableEq, Repr

/-- A lookup descriptor (R277). -/
structure EmbD where
  table : Nat
  pool : Nat
  backward : Bool
  weighted : Bool
  stale : Nat
  offs : Nat
  idx : Nat
  wgt : Nat
  firstBag : Nat
  bags : Nat
  dest : Nat
  destStride : Nat
  destIdx : Nat
  done : Option Nat
  oa : Option Nat
  step : Nat
  deriving DecidableEq, Repr

/-! ### The job and the command interface (17_command_interface.md) -/

/-- A change that waits for a step boundary (R37): a reseed with its mailbox (R475), reflections to add or remove with theirs (R479), a
tile whose spare is due (R574), a new UD.PRESENT or UD.LOGICAL image of a unit's parent (R20), a region's SC_PIN.EN (R322). -/
inductive Due where
  | reseed (seed : Word) (step mailbox : Nat)
  | reflect (add : Bool) (region : Nat) (entries : List (Nat × Nat × Nat)) (mailbox : Nat)
  | tile (t : Nat)
  | absent (parent : Nat) (bit : Nat)
  | pin (region : Nat)
  deriving DecidableEq, Repr

/-- What firmware keeps of the job and of the commands in its mailboxes. -/
structure JobState where
  /-- 0 none, 1 open, 2 suspended (R470) -/
  phase : Nat
  seed : Word
  firstStep : Nat
  /-- the seal counter (R418) -/
  sealCtr : Option Nat
  digest : Nat
  /-- the exchange queue (R403), the transmit queues of the dies (R448), the queues of the update engines (R471) -/
  exq : Option Nat
  lwq : List Nat
  updq : List Nat
  /-- the update engines named under R356 -/
  named : List Nat
  /-- ring members by level in position order with their backups (R472) -/
  rings : List (List (Nat × Option Nat))
  /-- the bucket table as copied (R401) -/
  buckets : Tbl (List Byte)
  /-- changes that wait for a step boundary, oldest first -/
  due : List Due
  /-- register keys of the holds that stood before suspension set the others (R473) -/
  holds : List Nat
  /-- mailboxes whose command has been accepted and not answered (R467), the job-state command in progress -/
  accepted : List Nat
  busy : Option Nat
  /-- answers that have yet to be written: mailbox with status and payload (R466) -/
  answers : Tbl (Option (Nat × List Byte))
  /-- fields clamped of the commands begun, by mailbox: counted when they end with OK (R468, R469) -/
  clamps : Tbl Nat
  deriving DecidableEq, Repr

def JobState.reset : JobState := ⟨0, 0, 0, none, 0, none, [], [], [], [], [], [], [], [], none, [], []⟩

/-! ### Update engines (13_parameter_update.md) -/

/-- A descriptor of a batch (R355 to R360): its bytes, the shard and table descriptors as read, whether its wait is registered and its
check pass has ended, its status, its count, the rows of its walk, the blocks or rows applied. -/
structure UpdDesc where
  seq : Nat
  bytes : List Byte
  shard : List Byte
  table : List Byte
  waits : Bool
  checked : Bool
  status : Nat
  count : Nat
  rows : List Nat
  next : Nat
  deriving DecidableEq, Repr

/-- An update engine: its batch in queue order, the batch's step, its local flag, whether the STEP_LAST check has ended, the step of
the last copy of its group table (R354), the pending and active tables, the last step whose STEP_LAST descriptor completed, whether the
apply pass of the batch's step has begun. -/
structure UpdEng where
  batch : List UpdDesc
  step : Nat
  nf : Bool
  reported : Bool
  copied : Option Nat
  pend : Tbl Nat
  act : Tbl Nat
  ended : Option Nat
  applying : Bool
  deriving DecidableEq, Repr

def UpdEng.reset : UpdEng := ⟨[], 0, false, false, none, [], [], none, false⟩

/-! ### The gradient exchange (15_gradient_exchange.md) -/

/-- A partial or a chunk: its elements, contributor count, non-finite flag. -/
structure ExChunk where
  vals : List Half
  count : Nat
  nf : Bool
  deriving DecidableEq, Repr

def ExChunk.reset : ExChunk := ⟨[], 0, false⟩

/-- A parked partial (R409): quarter, level, chunk, count, flag; its elements stand in the staging area. -/
structure Parked where
  quarter : Nat
  level : Nat
  chunk : Nat
  count : Nat
  nf : Bool
  deriving DecidableEq, Repr

/-- A bucket of a step in exchange (R403 to R417). Chunks are keyed by ((quarter × 4 + level) × 4 + phase) × 2^16 + chunk. -/
structure ExBuf where
  step : Nat
  bucket : Nat
  posted : Bool
  /-- the wait of the post: none where it is satisfied -/
  wait : Option (Nat × Nat)
  registered : Bool
  /-- 0 open, 1 the own contribution is used, 2 Replace, 3 Exclude (R410) -/
  decision : Nat
  /-- the contribution has been ready -/
  ready : Bool
  /-- the value's count; its elements that are not finite, with the cause code of each (R414) -/
  count : Nat
  causes : List (Nat × Nat)
  /-- when the first level-0 partial was parked -/
  since : Option Nat
  /-- chunks partly received; chunks sent and received, for the digests -/
  rx : Tbl ExChunk
  sent : Tbl ExChunk
  got : Tbl ExChunk
  park : List Parked
  /-- levels whose own chunk has been started, by quarter × 4 + level; what has followed from final levels: 2 × (quarter × 4 + levels
  above) where digests are logged, one more where the chunk is sent on -/
  begun : List Nat
  told : List Nat
  /-- owned reduced chunks by quarter × 4 + level: chunk, count, flag -/
  owned : Tbl (Nat × Nat × Bool)
  /-- final elements received, by quarter × 4 + level -/
  final : Tbl Nat
  /-- elements of the backup copy landed, by quarter; its flag -/
  backup : Tbl Nat
  backupNf : Bool
  /-- the flag and the count of the result -/
  nf : Bool
  total : Nat
  complete : Bool
  deriving DecidableEq, Repr

def ExBuf.reset (step bucket : Nat) : ExBuf :=
  ⟨step, bucket, false, none, false, 0, false, 0, [], none, [], [], [], [], [], [], [], [], [], false, false, 0, false⟩

/-- A verdict or seal round of a step (R415, R418): the level it is at, the value so far, the values received (level, origin, value),
whether it has started and ended here. -/
structure Round where
  isSeal : Bool
  step : Nat
  level : Nat
  value : Bool
  recv : List (Nat × Nat × Bool)
  started : Bool
  ended : Bool
  deriving DecidableEq, Repr

/-- The exchange: buckets and rounds of the steps not job-sealed, steps with a verdict (and whether it is NONFINITE), local flags
received from the backup, when a packet of the job last arrived from the predecessor, or waiting for it began, by die × 4 + level,
whether a break has halted it, when HOLD was set, the verdict and seal packets that arrived while it was halted. -/
structure Exch where
  bufs : List ExBuf
  rounds : List Round
  verdicts : List (Nat × Bool)
  flags : List (Nat × Bool)
  heard : Tbl Nat
  halted : Bool
  holdAt : Option Nat
  mail : List (List Byte)
  deriving DecidableEq, Repr

def Exch.reset : Exch := ⟨[], [], [], [], [], false, none, []⟩

/-! ### Samplers (08_graph_sampling.md) -/

/-- A sample descriptor in progress (R211 to R217, R227): its tile's queue, the graph descriptor as read, the clamped seeds, the
next parent slot to expand, the records of hops that have children by position (1 void, 2 + vertex + edge × 2^40 drawn), the
records still to land per hop, the hops reported, the header counts, whether a read failed. -/
structure SmpDesc where
  id : Nat
  tile : Nat
  seq : Nat
  desc : List Byte
  graph : List Byte
  /-- the job's seed when the descriptor started (R37, R224) -/
  seed : Word
  seeds : List Nat
  next : Nat
  recs : Tbl Nat
  left : List Nat
  hops : Nat
  voids : Nat
  clamped : Nat
  err : Bool
  deriving DecidableEq, Repr

/-- A sampler: descriptors and expansions in progress (expansion number, descriptor, parent slot), the graph-descriptor cache
(most recent first), whose turn was last among queues and descriptors. -/
structure Sampler where
  nextId : Nat
  active : List SmpDesc
  exps : List (Nat × Nat × Nat)
  cache : List (Nat × List Byte)
  turnQ : Nat
  turnD : Nat
  deriving DecidableEq, Repr

def Sampler.reset : Sampler := ⟨0, [], [], [], 15, 0⟩

/-! ### Gather/scatter engines (09_gather_scatter.md) -/

/-- A reference of a window entry: descriptor, admission position, tile, scratch addresses of the row's part and the scales; whether its
source could not be read, so that it is left out of the sum; the banks to which the row's part and the scales have been written. -/
structure GsRef where
  desc : Nat
  pos : Nat
  tile : Nat
  row : Nat
  scale : Nat
  out : Bool
  rowIn : List Nat
  scaleIn : List Nat
  deriving DecidableEq, Repr

/-- A window entry (R244 to R247): the row request, its references in joining order, the hot entry it flushes, whether it holds a
slot, the sum it sends, the granules of it not yet added, the cache lines (stack and line) whose fill an add of it began; the row and the
scales that a gather has read. -/
structure GsEntry where
  id : Nat
  scatter : Bool
  desc : Nat
  addr : Nat
  size : Nat
  scAddr : Nat
  scSize : Nat
  step : Nat
  refs : List GsRef
  hot : Option Nat
  issued : Bool
  sum : List Half
  todo : List Nat
  fills : List (Nat × Nat)
  data : Option (List Byte × List Byte)
  deriving DecidableEq, Repr

/-- A descriptor in progress (R237, R257): how many entries are admitted, the admission positions that have not landed (once for
each part of the row), the progress signals sent, whether its end-of-admission flush has been made, the entries awaited that
flushes opened. -/
structure GsDesc where
  id : Nat
  tile : Nat
  seq : Nat
  d : GsD
  status : Nat
  admitted : Nat
  waiting : List Nat
  sent : Nat
  flushed : Bool
  flushes : List Nat
  deriving DecidableEq, Repr

/-- A hot entry (R254): its row, step and partial sum; whether it holds a contribution; whether the tables were cleared under it,
so that it only awaits its flush; the number of the flush that has fallen due and not issued. -/
structure HotEntry where
  id : Nat
  addr : Nat
  size : Nat
  step : Nat
  sum : List Half
  used : Bool
  closed : Bool
  due : Option Nat
  deriving DecidableEq, Repr

/-- A gather/scatter engine: candidate rows (address, size, count), entries counted toward the window, the threshold and window in
force, whose turn was last among queues, descriptors at admission and owners at issue, the sweep pointer (key and entry), the step of
the last SCAT started. Numbers of descriptors and entries begin at 1; owner 0 is a flush's. -/
structure Gather where
  nextId : Nat
  active : List GsDesc
  window : List GsEntry
  cand : List (Nat × Nat × Nat)
  hot : List HotEntry
  counted : Nat
  thresh : Nat
  log : Nat
  turnQ : Nat
  turnD : Nat
  turnI : Nat
  ptr : Nat × Nat
  step : Option Nat
  deriving DecidableEq, Repr

def Gather.reset : Gather := ⟨1, [], [], [], [], 0, 256, 12, 15, 0, 0, (0, 0), none⟩

/-! ### Embedding owner logic (10_embeddings.md) -/

/-- A request to an owner (R279, R282): a bag's entries, or for a gradient descriptor a row's contributions, each an entry's bag,
its position within the bag and its logical index; `part` 0 names the table itself or part A, 1 part B. Owner 16 + 16 m + r is region r of
module m, owner 13 none; `sent` tells that the request has left for another module. -/
structure EmbReq where
  bag : Nat
  part : Nat
  owner : Nat
  row : Nat
  entries : List (Nat × Nat × Nat)
  sent : Bool
  deriving DecidableEq, Repr

/-- A partial (R279): its bag and part, elements, winner positions for maximum, count of non-void entries. -/
structure EmbPartial where
  bag : Nat
  part : Nat
  vals : List Half
  idxs : List Half
  n : Nat
  deriving DecidableEq, Repr

/-- A bag under way, one part of it: what is pooled so far and how many partials are to come. -/
structure BagAcc where
  vals : List Half
  idxs : List Half
  n : Nat
  left : Nat
  deriving DecidableEq, Repr

def BagAcc.reset : BagAcc := ⟨[], [], 0, 0⟩

/-- A lookup descriptor in progress (R277 to R289): the table descriptor and its parts' as read, requests not served, partials not
combined, bags (bag × 2 + part), bags not written. -/
structure EmbJob where
  id : Nat
  tile : Nat
  seq : Nat
  d : EmbD
  tabs : List (List Byte)
  status : Nat
  todo : List EmbReq
  ready : List EmbPartial
  bags : Tbl BagAcc
  left : List Nat
  deriving DecidableEq, Repr

/-- A reflection (R285): state 1 REFRESHING, 2 VALID; the copy of the row. -/
structure Refl where
  table : Nat
  row : Nat
  stamp : Nat
  state : Nat
  copy : List Byte
  deriving DecidableEq, Repr

def Refl.reset : Refl := ⟨0, 0, 0, 0, []⟩

/-- A row of a composite table's part B that another module owns, asked for by A's owner, which combines it with A's (R272, R281): the
table, the row, its owner as in EmbReq, whether the answer is here, the elements (none where their read failed). -/
structure EmbFetch where
  table : Nat
  row : Nat
  owner : Nat
  here : Bool
  vals : Option (List Half)
  deriving DecidableEq, Repr

/-- A gradient request of another module that has been served but for terms passed on to further modules (R281, R289): who asked, what,
whether a part of it failed, the modules that have yet to answer. -/
structure EmbOwed where
  module : Nat
  req : EmbRemote
  failed : Bool
  left : List Nat
  deriving DecidableEq, Repr

/-- The owner logic of a region: descriptors in progress, whose queue's turn was last, the reflection directory by entry, the
step the update of a table has begun by table address (R283), owner-logic writes that have arrived: source module and payload (R439);
rows of other modules asked for, requests served that are still to be answered. -/
structure EmbRegion where
  nextId : Nat
  active : List EmbJob
  turnQ : Nat
  dir : Tbl Refl
  begun : Tbl Nat
  inbox : List (Nat × List Byte)
  fetches : List EmbFetch
  owed : List EmbOwed
  deriving DecidableEq, Repr

def EmbRegion.reset : EmbRegion := ⟨0, [], 0, [], [], [], [], []⟩

/-! ### Memory system (12_memory_system.md) -/

/-- A line of a stack cache (R318): state 0 invalid, 1 clean, 2 dirty; `used` orders lines by recency; `landed` is the time its
fill landed. -/
structure Line where
  state : Nat
  tag : Nat
  cls : Nat
  prio : Nat
  dead : Bool
  pre : Bool
  used : Nat
  landed : Nat
  deriving DecidableEq, Repr

def Line.reset : Line := ⟨0, 0, 0, 0, false, false, 0, 0⟩

/-- A line fill in flight: the line number of the stack offset, its class, whether the access that caused it writes, whether
it is a prefetch, whether a demand read or a held write met it (R325). -/
structure Fill where
  line : Nat
  cls : Nat
  write : Bool
  pre : Bool
  read : Bool
  held : Bool
  /-- the dead mark the line lands with (R321) -/
  dead : Bool
  deriving DecidableEq, Repr

/-- A prefetch stream (R324): its latest demand line, its direction, its class, recency. -/
structure Stream where
  last : Nat
  up : Bool
  cls : Nat
  used : Nat
  deriving DecidableEq, Repr

/-- A stack controller: its cache (set × 16 + way), fills in flight, streams, the last demand miss with its class, the recency
clock, the ways disabled, whether a way holds the reflection store now (R322). -/
structure StackCtl where
  lines : Tbl Line
  fills : List Fill
  streams : List Stream
  lastMiss : Option (Nat × Nat)
  clock : Nat
  off : List Nat
  pin : Bool
  deriving DecidableEq, Repr

def StackCtl.reset : StackCtl := ⟨[], [], [], none, 0, [], true⟩

/-- A DMA descriptor in progress (R331, R332): where it came from, its sequence, its bytes with fields in force, its status. -/
structure DmaJob where
  id : Nat
  queue : Option Nat
  seq : Nat
  d : DmaD
  status : Nat
  deriving DecidableEq, Repr

/-- A DMA engine: its posting sequence, its FIFO, the descriptors in progress, whose turn was last (R328). -/
structure DmaEng where
  seq : Nat
  fifo : List (Nat × List Byte)
  active : List DmaJob
  nextId : Nat
  /-- the source served last: 0 the FIFO, q + 1 queue q -/
  turn : Nat
  deriving DecidableEq, Repr

def DmaEng.reset : DmaEng := ⟨0, [], [], 0, 0⟩

/-- The memory system: stack controllers, DMA engines, update engines, the write buffers of the slow-tier controllers (granules, oldest first),
host-window reads in flight (tag and window offset). -/
structure MemSys where
  ctl : Tbl StackCtl
  dma : Tbl DmaEng
  upd : Tbl UpdEng
  slow : Tbl (List Nat)
  hostReads : List (Nat × Nat)
  deriving DecidableEq, Repr

def MemSys.reset : MemSys := ⟨[], [], [], [], []⟩

/-! ### Lightway (16_lightway_fabric.md) -/

/-- A packet a port has yet to send: credit class and half, its bytes in whole flits, flits sent, the remote-write descriptor it
belongs to (queue and sequence). -/
structure TxPkt where
  cls : Nat
  half : Nat
  bytes : List Byte
  sent : Nat
  desc : Option (Nat × Nat)
  deriving DecidableEq, Repr

/-- A data flit sent and not acknowledged (R435): sequence, class, half, whether it starts and ends its packet, times replayed. -/
structure Flit where
  seq : Nat
  cls : Nat
  half : Nat
  first : Bool
  last : Bool
  bytes : List Byte
  times : Nat
  deriving DecidableEq, Repr

/-- A whole packet received and not yet dealt with; half 2 where the port has gone down since, so that no credit is owed for it; whether its
step has been compared with those in the windows (R28). -/
structure RxPkt where
  cls : Nat
  half : Nat
  bytes : List Byte
  seen : Bool
  deriving DecidableEq, Repr

/-- A frame: the flit and the trailer of R434. -/
structure Frame where
  flit : List Byte
  trailer : Nat
  deriving DecidableEq, Repr

/-- A Lightway port behind its registers (R429 to R437, R451, R453). Credits are keyed by class × 2 + half. -/
structure LwPort where
  /-- light on neither laser input -/
  dark : Bool
  tx : List TxPkt
  replay : List Flit
  resend : List Flit
  txSeq : Nat
  rxSeq : Nat
  nak : Bool
  /-- a NAK has been received and the replay has not begun -/
  nakIn : Bool
  /-- time of the latest progress of ACK, or of the first flit outstanding -/
  progress : Nat
  credits : Tbl Nat
  owed : Tbl Nat
  /-- packets partly received, by class -/
  part : Tbl (List Byte)
  rxq : List RxPkt
  /-- a failed wavelength that waits for its move onto the spare -/
  failed : Option Nat
  /-- the spare wavelength passed training -/
  spareOk : Bool
  /-- the challenge sent to the peer, and whether the peer's challenge was answered -/
  nonce : List Byte
  answered : Bool
  /-- the peer has verified this end's report (R453) -/
  verified : Bool
  /-- the peer's challenge -/
  peerNonce : List Byte
  /-- a MAP_ID received and not compared yet: module, port, role, level -/
  peerId : Option (Nat × Nat × Nat × Nat)
  /-- the map's peer and role have been matched (R454) -/
  matched : Bool
  /-- the last timing frame received: its departure and arrival stamps (R451) -/
  stamps : Option (Nat × Nat)
  /-- the frame sent last -/
  out : Option Frame
  deriving DecidableEq, Repr

def LwPort.reset : LwPort :=
  ⟨true, [], [], [], 0, 0, false, false, 0, [], [], [], [], none, false, [], false, false, [], none, false, none, none⟩

/-- A topology map in force (R445, R446): port entries and the position entries by module identifier. -/
structure LwMap where
  module : Nat
  levels : Nat
  gm : Nat
  n : List Nat
  ports : List Nat
  pos : Tbl Nat
  deriving DecidableEq, Repr

/-- Ring formation at one level (R455): attempt sent or forwarded last, a check token held until the module is ready (attempt,
hops, port, origin), when position 0 sent its attempt, when the members were ready here, whether validated here, whether it failed, whether the check pass
has returned to position 0. -/
structure LwLevel where
  attempt : Nat
  held : Option (Nat × Nat × Nat × Nat)
  sentAt : Option Nat
  readyAt : Option Nat
  valid : Bool
  failed : Bool
  passed : Bool
  deriving DecidableEq, Repr

def LwLevel.reset : LwLevel := ⟨0, none, none, none, false, false, false⟩

/-- The fabric: ports, the map, the turn among the up ports of a side (level × 2 + side), formation, when the map was loaded and
whether its check has ended, the time governed by the fabric and its slew. -/
structure Lw where
  ports : Tbl LwPort
  map : Option LwMap
  turns : Tbl Nat
  levels : Tbl LwLevel
  mapAt : Nat
  checked : Bool
  /-- the counter has been stepped at first lock -/
  stepped : Bool
  /-- nanoseconds the counter has yet to slew -/
  slew : Int
  /-- nanoseconds of the module's own oscillator, which pace the slew -/
  ticks : Nat
  /-- read responses returned to the control complex: tag, status, data -/
  reads : List (Nat × Nat × List Byte)
  deriving DecidableEq, Repr

def Lw.reset : Lw := ⟨[], none, [], [], 0, false, false, 0, 0, []⟩

/-! ### Errors (23_spares_repair.md) -/

/-- What firmware and the hub keep of errors: number and time of the latest uncorrectable record (R578), corrected errors by
location with their times (R573); spares in use that no register shows: bond lanes by stack × 1,024 + group, DRAM spare rows by
stack × 2^20 + bank, sync rows by sync memory; sync rows without a spare (first counter / 64, R576); slow-tier rows logged for the next
stage 6; tiles due at the next quiescent point; fuse programming by cluster: the image to blow (R577). -/
structure ErrState where
  lastUe : Option (Nat × Nat)
  counts : Tbl (List Nat)
  lanes : Tbl Nat
  rows : Tbl Nat
  syncUsed : Tbl Nat
  syncDead : List Nat
  slowRows : List Nat
  dueLater : List Nat
  fuse : Tbl Nat
  deriving DecidableEq, Repr

def ErrState.reset : ErrState := ⟨none, [], [], [], [], [], [], [], []⟩

/-! ### Mailboxes (R464 to R466) -/

/-- A mailbox: the request, IRQ, the response, STATE, LOST, CLAMPS, the payload by offset from 0x040. -/
structure Mailbox where
  opcode : Nat
  length : Nat
  seq : Nat
  irq : Bool
  status : Nat
  rlength : Nat
  rseq : Nat
  state : Nat
  lost : Bool
  clamps : Nat
  payload : Memory
  deriving DecidableEq, Repr

def Mailbox.reset : Mailbox := ⟨0, 0, 0, false, 0, 0, 0, 0, false, 0, []⟩

/-! ### The control complex (18_control_complex.md) -/

/-- A scheduler thread behind TS_THR (R493 to R497): its wake time, the priority and home that SET gave, since when it is READY or
RUNNING, the ns it has waited READY and the longest such wait since CREATE, the state that SUSPEND left, the ns it has run before its
present spell since it last blocked, delayed, yielded or exited (R492). -/
structure SchedT where
  wake : Option Nat
  next : Option (Nat × Nat)
  since : Nat
  waited : Nat
  longest : Nat
  left : Nat
  ran : Nat
  deriving DecidableEq, Repr

def SchedT.reset : SchedT := ⟨none, none, 0, 0, 0, 0, 0⟩

/-- The scheduler: threads; per logical core its ready list, first to run first, when it last switched or went idle, the intervals in
which it ran threads (from, to) of the last 100 ms; the tick in force in µs; the time of the last tick. -/
structure Sched where
  thr : Tbl SchedT
  ready : Tbl (List Nat)
  alive : Tbl Nat
  busy : Tbl (List (Nat × Nat))
  tick : Nat
  last : Option Nat
  deriving DecidableEq, Repr

def Sched.reset : Sched := ⟨[], [], [], [], 10, none⟩

/-! ### Power (20_power_thermal.md) -/

/-- A self-timed island behind ISL_STATUS (R521 to R537). Islands: clusters 0 to 671, region controllers 672 to 683, die fabrics 684 to
687, the hub network 688. The state last commanded; a change of state in progress; the voltage at the end of the ramp step in
progress; when a droop hold ends; the share of its cap; estimates of the last 100 µs in 0.1 W, newest first; the estimate
integrated over the open metering interval in 0.2 µJ; whether the slowing has exceeded the ageing warning; by kind of admission
opportunity (0 sequencer slots, 1 stream elements, 2 descriptors and window entries), those counted in the run of 64 in progress and those
of them that admitted (R532); whether the island has come from OFF and its remap registers have yet to load (R523). -/
structure Island where
  cmd : Nat
  goal : Option Nat
  stepTo : Option Nat
  holdTo : Option Nat
  capShare : Nat
  ests : List Nat
  energy : Nat
  aged : Bool
  runs : Tbl (Nat × Nat)
  rising : Bool
  deriving DecidableEq, Repr

def Island.reset : Island := ⟨0, none, none, none, 64, [], 0, false, [], false⟩

/-- The power manager and the pilot light: islands; the state of the control complex and of the 24 channel pairs (0 ON, 1 HOLD);
module estimates of the last 10 ms in W, newest first; the latest telemetry of the rails without activity counters, in W; when T last
rose; phases lost by rail, one core rail per die; rails shut, the islands they fed; whether a trip has dropped the regulators, and a restart has been asked
for since; a trip not yet reported; the core rails' estimates since the last trim of the gain, in 0.1 W (R531); the wake entry whose source
has yet to be delivered (R504); whether the module is in PARK or on its way there (R525). -/
structure Power where
  islands : Tbl Island
  cc : Nat
  pairs : Tbl Nat
  hist : List Nat
  other : Nat
  roseAt : Nat
  lost : Tbl Nat
  shut : List Nat
  dark : List Nat
  tripped : Bool
  restart : Bool
  unreported : Bool
  est : Nat
  waking : Option Nat
  parked : Bool
  deriving DecidableEq, Repr

def Power.reset : Power := ⟨[], 0, [], [], 0, 0, [], [], [], false, false, false, 0, none, false⟩

/-! ### The host link (19_host_link.md) -/

/-- The host link beside its registers: BAR2's size as a power of two, D3hot, PME_En, WAKE#, configuration space ready, whether a PTM
request is outstanding, whether the first PTM result has stepped the counter, whether the link was last reported degraded, the data
of the host's latest read (none: Completer Abort); posted writes that wait for the link, oldest first: host bus address, bytes, the vector or
message they carry (log entry 119); AER's Poisoned TLP Received status (R515); PTM enabled (R517). -/
structure HostLink where
  bar2 : Nat
  d3hot : Bool
  pmeEn : Bool
  wake : Bool
  ready : Bool
  asked : Bool
  stepped : Bool
  degraded : Bool
  data : Option (List Byte)
  posted : List (Nat × List Byte × Option Nat)
  aerPoisoned : Bool
  ptmOn : Bool
  deriving DecidableEq, Repr

def HostLink.reset : HostLink := ⟨36, false, false, false, false, false, false, false, none, [], false, true⟩

/-! ### The Drudo meter (21_drudo_meter.md) -/

/-- A metering interval (R546, R547): tag, record flags, meter and device time of its start and end, its energy and the cumulative
energy at its end in mJ, the audit counter at its end, voltage extremes in 10 mV, the highest 1 s mean power in W, each island's
estimated energy in 0.2 µJ (R553). -/
structure MeterInt where
  tag : Nat
  flags : Nat
  tStart : Nat
  tEnd : Nat
  dStart : Nat
  dEnd : Nat
  energy : Nat
  total : Nat
  events : Nat
  vMin : Nat
  vMax : Nat
  peak : Nat
  shares : Tbl Nat
  deriving DecidableEq, Repr

/-- An interval that opens. -/
def MeterInt.start (tag t d : Nat) : MeterInt := ⟨tag, 0, t, t, d, d, 0, 0, 0, 65535, 0, 0, []⟩

/-- A stored record: number, body and signature (R547), the interval it is of. -/
structure MeterRec where
  number : Nat
  bytes : List Byte
  span : MeterInt
  deriving DecidableEq, Repr

/-- The meter beside its window: stored records, oldest first; the open interval; the intervals closed while no record could be formed,
as one; flags for the next record; the audit log, oldest first; the service parameters (0 the maximum length in ns); whether input is
lost; whether the meter has restarted since its fault; the tick, in µs of meter time, in which the last interval closed (R546). -/
structure Meter where
  recs : List MeterRec
  cur : MeterInt
  held : Option MeterInt
  next : Nat
  audit : List (List Byte)
  params : Tbl Nat
  outage : Bool
  restarted : Bool
  closed : Option Nat
  deriving DecidableEq, Repr

def Meter.reset : Meter := ⟨[], MeterInt.start 0 0 0, none, 0, [], [], false, true, none⟩

/-! ### The root of trust and start-up (22_boot_identity.md) -/

/-- A reset in progress (R567 to R569): its level, the unit and clear flags of a RESET, the mailbox that asked. -/
structure ResetReq where
  level : Nat
  unit : Nat
  flags : Nat
  mailbox : Option Nat
  deriving DecidableEq, Repr

/-- The root of trust, its non-volatile memory and start-up: the firmware slots A and B, the slot that the next start uses, the header
of the firmware running, the enrolled keys by slot, the last request number accepted, the extension loaded; whether 48 V is present,
when stage 1 began, in ns of the module's own oscillator; whether the tiers have been cleared since power came, whether tile
self-test has ended; whether the meter's first self-check since power came has been seen, whether standalone ready has been reached since
(R554, R570); the resets in progress, oldest first; management frames sent, newest first (the model's own record of what left the block). -/
structure Rot where
  slots : List (List Byte)
  active : Nat
  running : List Byte
  keys : Tbl (List Byte)
  request : Nat
  ext : Option (List Byte)
  input : Bool
  began : Nat
  cleared : Bool
  tested : Bool
  metered : Bool
  up : Bool
  resets : List ResetReq
  frames : List (List Byte)
  deriving DecidableEq, Repr

def Rot.reset : Rot := ⟨[[], []], 0, [], [], 0, none, true, 0, false, false, false, false, [], []⟩

/-! ### The snapshot area (24_observation.md) -/

/-- The snapshot area and its second buffer as 64-bit words by offset / 8 (R593 to R595); the capture in progress: its sequence, its
phase (0 none, 2 capturing, 3 gathering), scope, injection time, last capture time, engines and queue contexts captured and skipped
(banks by index, queue q as 2^20 + q, the statistics unit of generator g as 2^21 + g), the mailbox that asked; the shadow copies of the
statistics units, by g × 512 + counter. -/
structure Snap where
  area : Tbl Nat
  buf : Tbl (Option Nat)
  state : Nat
  seq : Nat
  scope : Nat
  injected : Nat
  lastAt : Nat
  done : List Nat
  skipped : List Nat
  mailbox : Nat
  stat : Tbl Nat
  deriving DecidableEq, Repr

def Snap.reset : Snap := ⟨[], [], 0, 0, 0, 0, 0, [], [], 0, []⟩

/-! ### Sync memories (14_synchronisation.md) -/

/-- A sync counter (R378). -/
structure Counter where
  value : Nat
  satHi : Bool
  satLo : Bool
  abandoned : Bool
  owner : Nat
  lastSig : Nat
  lastSeq : Nat
  deriving DecidableEq, Repr

/-- A counter after cold reset and after job close (R389, R392): LIVE, owned by the package. -/
def Counter.reset : Counter := ⟨0, false, false, false, 6, 0, 0⟩

/-- A registered wait; whether its agent has been reset since, so that nobody takes its completion word (log entry 48). -/
structure Wait where
  counter : Nat
  n : Nat
  who : Waiter
  gone : Bool
  deriving DecidableEq, Repr

/-- A remote signal that the hub holds (R387). -/
structure Held where
  module : Nat
  level : Nat
  seq : Nat
  counter : Nat
  bytes : Nat
  since : Nat
  late : Bool
  deriving DecidableEq, Repr

/-- The sync memories. -/
structure SyncState where
  counters : Tbl Counter
  /-- registered waits in arrival order -/
  waits : List Wait
  /-- waits turned away by a full table, presented again after 1 µs (R384) -/
  retry : List Wait
  /-- landing tallies by ((module × 4 + level) × 2^32 + data sequence) (R386) -/
  landing : Tbl Nat
  held : List Held
  /-- completion words of released engine and control-core waits that their rows have yet to take -/
  released : List (Waiter × Nat)
  deriving DecidableEq, Repr

def SyncState.reset : SyncState := ⟨[], [], [], [], [], []⟩

/-! ### Queues (17_command_interface.md) -/

/-- A queue context (R481 to R485). -/
structure QueueCtx where
  base : Nat
  log2 : Nat
  mode : Nat
  kind : Nat
  unit : Nat
  prod : Half
  cons : Half
  clamps : Nat
  refused : Nat
  overflow : Nat
  ovf : Bool
  /-- descriptors with a sequence whose slot write has not been accepted yet, oldest first; whether the host wrote it -/
  writing : List (Bool × List Byte)
  /-- descriptors taken and not started yet: sequence and bytes (R484) -/
  taken : List (Nat × List Byte)
  /-- descriptors started and not completed -/
  running : List (Nat × List Byte)
  /-- bound by the open job -/
  job : Bool
  /-- the segments, oldest first: first sequence, phase, descriptors started and not completed (R485); the last one is the
  segment in force, AUX before the first marker -/
  segs : List (Nat × Nat × Nat)
  /-- the segment in force is in its consumer's island -/
  inIsland : Bool
  /-- the operating point of the marked descriptor at CONS has been applied (R31) -/
  marked : Bool
  deriving DecidableEq, Repr

/-- A queue after cold reset: ring removed (R483); `kind` is fixed for tile queue sets, 15 for free queues. -/
def QueueCtx.reset (q : Nat) : QueueCtx :=
  ⟨0, 0, 0, if q % 65536 < 10752 then q % 4 else 15, 0, 0, 0, 0, 0, 0, false, [], [], [], false, [(0, 7, 0)], false, false⟩

/-! ### Events and interrupts (R487, R498 to R502) -/

/-- An asynchronous event before its sequence is given (R487). -/
structure Event where
  code : Nat
  time : Nat
  step : Nat
  unit : Nat
  queue : Option (Nat × Nat)
  detail : Nat
  deriving DecidableEq, Repr

/-- The host event ring as firmware keeps it (R484, R487). -/
structure EventRing where
  base : Option Nat
  log2 : Nat
  produced : Nat
  consumed : Nat
  kept : List (Event × Nat)
  lost : Nat
  /-- events before EVENT_RING_SET, only counted -/
  counted : Nat
  deriving DecidableEq, Repr

def EventRing.reset : EventRing := ⟨none, 6, 0, 0, [], 0, 0⟩

/-- An MSI-X table entry (R516). -/
structure MsixEntry where
  addr : Nat
  data : Nat
  masked : Bool
  deriving DecidableEq, Repr

/-- The interrupt controller behind its registers (R499 to R502). -/
structure IntrState where
  /-- per logical core, the priority stack, top first: source and priority -/
  stk : Tbl (List (Nat × Nat))
  /-- assertions in the running storm window; 2^32 where the source is not counted until the next one -/
  counts : Tbl Nat
  /-- level sources now asserted, with the time of the last rise -/
  levels : Tbl (Option Nat)
  deriving DecidableEq, Repr

def IntrState.reset : IntrState := ⟨[], [], []⟩

end Sys2Proof.Machine
end

