-- ==== Sys2Proof/Machine/State.lean ====
section
/-! DEFINITION. The machine state: every register, memory, buffer, queue and mode the spec gives the block, and the queue of
the commands that wait; the state after cold reset; the reasons a step can stop. -/

namespace Sys2Proof.Machine

/-- No command stops the machine with a fault: what the spec calls a fault or an error is an effect on the state. -/
inductive Fault where
  deriving DecidableEq, Repr

/-- Why a command has no outcome. -/
inductive Refusal where
  /-- raised by an arm of `exec` without a meaning; safe -/
  | notModelled (mnemonic : String)
  deriving DecidableEq, Repr

/-- The memories: the fast and slow tiers by physical key, host memory by host bus address as the device sees it, and the
scratch of all tiles (tile × 2^18 + address). -/
structure MemState where
  dev : Memory
  host : Memory
  scratch : Memory
  /-- granules that fail their check (R578): tier key / 64 -/
  bad : List Nat
  /-- stacks, and channel pairs of the slow tier, that have failed (R309, R555) -/
  dead : List Nat
  deadPairs : List Nat
  /-- 64-bit scratch words that fail their check: key / 8 -/
  badScratch : List Nat
  /-- 64-bit words of other SECDED stores that fail their check, by store (R579): accumulator, tile × 24,576 + word; vector registers,
  tile × 512 + word; a dirty line of a stack cache, tier key / 8 -/
  badWords : List (Nat × Nat)
  /-- control SRAM and the cores' local memories (R489), which only signed firmware reaches -/
  ctl : Memory
  deriving DecidableEq, Repr

/-- The tiles. Keys: tile; tile × 128 + context; that × 32 + register; tile × 1,024 + vector register × 64 + lane;
array × 2 + plane; array; tile × 49,152 + row × 128 + column (data and tags); tile × 1,536 + row × 4 + array;
tile × 4 + bank. Generators are keyed by generator index (R58). -/
structure TileState where
  tiles : Tbl Tile
  threads : Tbl Thread
  xreg : Tbl Word
  vreg : Tbl Half
  planes : Tbl Plane
  pieces : Tbl (List Nat)
  acc : Tbl Half
  rows : Tbl RowState
  tags : Tbl Nat
  drains : Tbl (List Token)
  gens : Tbl Nat
  deriving DecidableEq, Repr

/-- What firmware and the interrupt controller hold of events. -/
structure EventState where
  ring : EventRing
  msix : Tbl MsixEntry
  /-- pending bits of masked vectors (R516) -/
  pba : Tbl Bool
  intr : IntrState
  /-- interrupt vectors and messages sent to the host, newest first (the model's own record of what left the block) -/
  sent : List Nat
  /-- what the latest claim of each core returned, in IC_CLAIM's layout (the model's own record of what a read returned) -/
  claimed : Tbl Nat
  deriving DecidableEq, Repr

structure State where
  pending : List Instr
  /-- the device time counter in ns (R26, R517) -/
  time : Nat
  /-- the count of free values taken so far (the model's own) -/
  fresh : Nat
  regs : Tbl Word
  mem : MemState
  tile : TileState
  sync : SyncState
  queues : Tbl QueueCtx
  job : JobState
  smp : Tbl Sampler
  gs : Tbl Gather
  emb : Tbl EmbRegion
  ms : MemSys
  ex : Exch
  lw : Lw
  err : ErrState
  ev : EventState
  kci : Tbl Mailbox
  sched : Sched
  pwr : Power
  hl : HostLink
  mtr : Meter
  rot : Rot
  snap : Snap
  deriving DecidableEq, Repr

/-- The machine right after cold reset: every table empty, so every unit reads as its reset record. -/
def State.reset : State where
  pending := []
  time := 0
  fresh := 0
  regs := []
  mem := ⟨[], [], [], [], [], [], [], [], []⟩
  tile := ⟨[], [], [], [], [], [], [], [], [], [], []⟩
  sync := SyncState.reset
  queues := []
  job := JobState.reset
  smp := []
  gs := []
  emb := []
  ms := MemSys.reset
  ex := Exch.reset
  lw := Lw.reset
  err := ErrState.reset
  ev := ⟨EventRing.reset, [], [], IntrState.reset, [], []⟩
  kci := []
  sched := Sched.reset
  pwr := Power.reset
  hl := HostLink.reset
  mtr := Meter.reset
  rot := Rot.reset
  snap := Snap.reset

end Sys2Proof.Machine
end

