-- ==== Sys2Proof/Machine/Regs.lean ====
section
/-! DEFINITION. Register blocks, unit descriptors, the register file, counters and islands: what every unit's operations use. -/

namespace Sys2Proof.Machine

/-! ### Register blocks (R313) -/

/-- A register block: K and I of R313. K = 10 stands for the meter's BAR0 window (R552), K = 11 for a counter bank (R582). -/
structure Blk where
  k : Nat
  i : Nat
  deriving DecidableEq, Repr

def bPackage : Blk := ⟨0, 0⟩
def bHub : Blk := ⟨0, 1⟩
def bDie (d : Nat) : Blk := ⟨1, d⟩
def bRegion (r : Nat) : Blk := ⟨2, r⟩
def bCluster (n : Nat) : Blk := ⟨3, n⟩
def bTile (t : Nat) : Blk := ⟨4, t⟩
def bArray (a : Nat) : Blk := ⟨5, a⟩
def bSc (r : Nat) : Blk := ⟨6, 8 * r⟩
/-- An update engine: fast-tier engines 0 to 11, slow-tier engines 12 to 17. -/
def bUpd (u : Nat) : Blk := if u < 12 then ⟨6, 8 * u + 1⟩ else ⟨7, u - 12⟩
def bDma (e : Nat) : Blk := ⟨6, 8 * (e / 4) + 2 + e % 4⟩
def bRing (l : Nat) : Blk := ⟨8, l⟩
/-- A hub-function block: 0 cores, 1 scheduler, 2 interrupts, 3 pilot light, 4 host link, 5 power, 6 boot, 7 errors. -/
def bFn (i : Nat) : Blk := ⟨9, i⟩
def bMeter : Blk := ⟨10, 0⟩
def bBank (b : Nat) : Blk := ⟨11, b⟩
/-- A sync memory's block (R393). -/
def bSync (m : Nat) : Blk := if m < 672 then bCluster m else bHub
/-- The block of a converting unit by its generator index (R58). -/
def bConv (g : Nat) : Blk := if g < 10752 then bTile g else bUpd (g - 10752)

/-! ### Unit numbers and descriptors (R14, R17, R58, R481) -/

def clusterOfTile (t : Nat) : Nat := t / 16
def regionOfTile (t : Nat) : Nat := t / 896
def regionOfCluster (n : Nat) : Nat := n / 56
def dieOfTile (t : Nat) : Nat := t / 2688
def dieOfRegion (r : Nat) : Nat := r / 3
/-- The sync memory that holds a counter (R17, R377). -/
def syncMemOf (c : Nat) : Nat := if c < 2752512 then c / 4096 else 672
/-- The highest counter number (R612). -/
def counterMax : Nat := 2818047
/-- A valid counter number (R612). -/
def counterOk (c : Nat) : Bool := c ≤ counterMax

/-- Bits [27:0] of unit descriptors (R14, R16). -/
def udPackage : Nat := 6
def udHub : Nat := 6 + 2 ^ 24
def udSlow (c : Nat) : Nat := 6 + (2 + c) * 2 ^ 24
def udDie (d : Nat) : Nat := 5 + d * 8
def udRegion (r : Nat) : Nat := 4 + (r / 3) * 8 + (r % 3) * 32
def udCluster (n : Nat) : Nat := 3 + (n / 168) * 8 + (n / 56 % 3) * 32 + (n % 56) * 128
def udTile (t : Nat) : Nat := 2 + (t / 2688) * 8 + (t / 896 % 3) * 32 + (t / 16 % 56) * 128 + (t % 16) * 8192
def udArray (a : Nat) : Nat := udTile (a / 4) - 1 + (a % 4) * 2 ^ 18
/-- The unit of an update engine: its region or its chiplet. -/
def udUpd (u : Nat) : Nat := if u < 12 then udRegion u else udSlow (u - 12)

/-- Word `w` of the unit descriptor of a block as it stands after cold reset (R12 to R17, R582); 0 where the block has none. The model's
choices, where R14 leaves them open (log entry 93): PRESENT of an array, whose 1,024 cells have no bit each, reads 0; a shadow-capture
point is numbered as the counter bank of its unit. -/
def udReset (b : Blk) (w : Nat) : Nat :=
  let mk (low logical spare qb qc sb sc bank shadow present : Nat) : Nat :=
    match w with
    | 0 => low + logical * 2 ^ 32 + spare * 2 ^ 48 + 2 ^ 56
    | 1 => qb + qc * 2 ^ 18
    | 2 => sb + sc * 2 ^ 22
    | 3 => bank + shadow * 2 ^ 16
    | 4 => present
    | _ => 0
  match b.k with
  | 0 =>
    if b.i = 0 then mk 6 4 0 0 262144 0 2818048 12234 12234 0xF
    else if b.i = 1 then mk udHub 0 0 0 0 2752512 65536 12234 12234 0
    else if b.i < 8 then mk (udSlow (b.i - 2)) 0 0 0 0 0 0 (12226 + b.i) (12226 + b.i) 0
    else 0
  | 1 => mk (udDie b.i) 3 0 (65536 * b.i) 65536 (688128 * b.i) 688128 (12192 + b.i) (12192 + b.i) 0x7
  | 2 => mk (udRegion b.i) 56 0 (65536 * (b.i / 3) + 3584 * (b.i % 3)) 3584 (229376 * b.i) 229376 (12096 + 8 * b.i + 6) (12096 + 8 * b.i + 6) (2 ^ 56 - 1)
  | 3 => mk (udCluster b.i) 16 1 (65536 * (b.i / 168) + 64 * (b.i % 168)) 64 (4096 * b.i) 4096 (10752 + 2 * b.i) (10752 + 2 * b.i) 0xFFFF
  | 4 => mk (udTile b.i) 4 0 (65536 * (b.i / 2688) + 4 * (b.i % 2688)) 4 0 0 b.i b.i 0xF
  | 5 => mk (udArray b.i) 1024 2 0 0 0 0 (b.i / 4) (b.i / 4) 0
  | 8 => mk (7 + b.i * 2 ^ 19) 0 0 0 0 0 0 0xFFFF 0xFFFF 0
  | _ => 0

/-! ### The register file -/

/-- The key of a register instance. -/
def rkey (b : Blk) (r : Reg) (i : Nat) : Nat := ((b.k * 2 ^ 20 + b.i) * 256 + r.ctorIdx) * 8192 + i

/-- The word of a register of several words that an instance is (R395, R488, R506). -/
def wordOf (r : Reg) (i : Nat) : Nat := if r = .TS_THR then i % 4 else i

/-- The reset value of a register instance: its fields' reset values, and those that differ by instance (R14, R319, R498,
R506, R507). -/
def resetValue (b : Blk) (r : Reg) (i : Nat) : Nat :=
  match r with
  | .UD => udReset b i
  | .CC_CORE => i
  | .PL_WAKE => if i = 0 then 3136 + 6 * 2 ^ 12 + 2 ^ 15 else 0
  | .SC_CLASS => [0x1B, 0x1A, 0x1A, 0x0B, 0x09, 0x09, 0x14, 0x09].getD i 0
  | .IC_SRC =>
    64 * 2 ^ 14 + (if (2880 ≤ i ∧ i < 3136 ∧ (i - 2880) % 64 ∈ [9, 10]) ∨ i = 3205 ∨ i = 3207 then 2 ^ 9 else 0)
  | _ =>
    r.fields.foldl (fun n (f : FieldRow) =>
      if f.word.getD (wordOf r i) = wordOf r i then n + f.rst * 2 ^ f.fld.lo else n) 0

/-- What a register instance that nothing has written reads as. -/
def regDefault (k : Nat) : Word :=
  let i := k % 8192
  let r := Reg.ofNat (k / 8192 % 256)
  let bi := k / 8192 / 256
  BitVec.ofNat 64 (resetValue ⟨bi / 2 ^ 20, bi % 2 ^ 20⟩ r i)

namespace State

/-- A register as stored. -/
def reg (s : State) (b : Blk) (r : Reg) (i : Nat := 0) : Word := Tbl.get regDefault s.regs (rkey b r i)

/-- A register set whole. -/
def setReg (s : State) (b : Blk) (r : Reg) (i : Nat) (v : Word) : State :=
  { s with regs := Tbl.put regDefault s.regs (rkey b r i) v }

/-- A field's value. -/
def getF (s : State) (b : Blk) (f : Fld) (i : Nat := 0) : Nat := bitsOf (s.reg b f.reg i).toNat f.lo f.w

/-- A one-bit field. -/
def flag (s : State) (b : Blk) (f : Fld) (i : Nat := 0) : Bool := s.getF b f i == 1

/-- A field set. -/
def setF (s : State) (b : Blk) (f : Fld) (v : Nat) (i : Nat := 0) : State :=
  s.setReg b f.reg i (BitVec.ofNat 64 (setBits (s.reg b f.reg i).toNat f.lo f.w v))

/-- A one-bit field set from a Boolean. -/
def setFlag (s : State) (b : Blk) (f : Fld) (v : Bool) (i : Nat := 0) : State := s.setF b f (if v then 1 else 0) i

end State

/-- Where the enabling control register of a counter stands: the power manager's for island counters (R542), else its own
block. -/
def enBlk (b : Blk) (r : Reg) : Blk := if r = .ISL_DROOPS ∨ r = .ISL_RAMPS then bFn 5 else b

/-- The instance of the control register: the port's for a Lightway counter (R458), else the only one. -/
def enIdx (r : Reg) (i : Nat) : Nat := if r.row.en = some .LW_CTRL then i else 0

/-- The order a receiver gives two sequences of one source: `b`, which arrived later than `a`, is the later one, also where the pair is
unordered (R27, R28). -/
def arrivesLater (a b : Half) : Bool := seqBefore a b || seqUnordered a b

/-- The counter banks (R582) of the embedding owner logic, of an update engine, of a die's ring engine, of a Lightway port, of the
dispatcher. -/
def bankEmb (r : Nat) : Nat := 12096 + 8 * r + 6
def bankUpd (u : Nat) : Nat := if u < 12 then 12096 + 8 * u + 1 else 12228 + (u - 12)
def bankRing (d : Nat) : Nat := 12192 + d
def bankPort (p : Nat) : Nat := 12196 + p
def bankHub : Nat := 12234

namespace State

/-- Whether a counter counts: its control register's bit 0. -/
def counting (s : State) (b : Blk) (r : Reg) (i : Nat) : Bool :=
  match r.row.en with
  | none => true
  | some c => (s.reg (enBlk b r) c (enIdx r i)).toNat % 2 == 1

/-- A counter gains n, saturating at 2^48 − 1, while it counts. -/
def count (s : State) (b : Blk) (r : Reg) (n : Nat := 1) (i : Nat := 0) : State :=
  if s.counting b r i then s.setReg b r i (BitVec.ofNat 64 (satAdd ((s.reg b r i).toNat % 2 ^ 48) n)) else s

/-- Counters set to zero. -/
def clearRegs (s : State) (b : Blk) (i : Nat) : List Reg → State
  | [] => s
  | r :: rest => (s.setReg b r i 0).clearRegs b i rest

/-- A folded update. -/
def foldS {α : Type} (s : State) : List α → (State → α → State) → State
  | [], _ => s
  | a :: r, f => (f s a).foldS r f

/-- Counter k of an engine's bank gains n in stall-by-cause mode (R585). -/
def bankCount (s : State) (bank k : Nat) (n : Nat := 1) : State :=
  if s.getF (bBank bank) Fld.CB_CTRL_MODE = 0 then s.count (bBank bank) .CB_CNT n k else s

/-- A receiver compares the sequence in place `a` with one that arrives, `b`: an unordered pair counts in counter 15 of its bank, in either
mode (R28, R585, R588). -/
def compared (s : State) (bank : Nat) (a b : Half) : State :=
  if seqUnordered a b then s.count (bBank bank) .CB_CNT 1 15 else s

/-- A free value: an open constant applied to the count of those taken before. -/
def freshWord (s : State) : Word × State := (Config.freeWord s.fresh, { s with fresh := s.fresh + 1 })

end State

/-! ### Islands (R521, R523) -/

namespace State

/-- An island's register block (R542). Islands: clusters 0 to 671, region controllers 672 to 683, die fabrics 684 to 687, the hub network
688. -/
def islBlk (i : Nat) : Blk :=
  if i < 672 then bCluster i else if i < 684 then bRegion (i - 672) else if i < 688 then bDie (i - 684) else bHub

def isl (s : State) (i : Nat) : Island := Tbl.get (fun _ => Island.reset) s.pwr.islands i
def modIsl (s : State) (i : Nat) (f : Island → Island) : State :=
  { s with pwr.islands := Tbl.put (fun _ => Island.reset) s.pwr.islands i (f (s.isl i)) }
def islState (s : State) (i : Nat) : Nat := s.getF (islBlk i) Fld.ISL_STATUS_STATE

/-- An island is ON: its handshakes complete. In HOLD and in OFF what reaches it waits (R521; log entry 113). -/
def runs (s : State) (i : Nat) : Bool := s.islState i == 0
/-- An island admits new work: it is ON and no change of its state is in progress (R523). -/
def takesWork (s : State) (i : Nat) : Bool := s.runs i && (s.isl i).goal.isNone
/-- What an island that is ON does; one that is not leaves the state as it is. -/
def ifRuns (s : State) (i : Nat) (t : State) : State := if s.runs i then t else s
/-- What an island that admits work does. -/
def ifAdmits (s : State) (i : Nat) (t : State) : State := if s.takesWork i then t else s

/-- F of R532: the least of the module's share, the limit of the operating point in force, the island's cap and its thermal share. -/
def shareF (s : State) (i : Nat) : Nat :=
  let b := islBlk i
  min (min (s.getF (bFn 5) Fld.PM_STATUS_T) (s.getF (bFn 5) Fld.PM_OPP_ISSUE_LIMIT (s.getF b Fld.ISL_STATUS_OPP)))
    (min (s.isl i).capShare (s.getF b Fld.ISL_STATUS_THERMAL))

/-- Opportunities of a kind that an island has had in its run of 64, and how many of them it admitted (R532). -/
def runOf (s : State) (i kind : Nat) : Nat × Nat := Tbl.get (fun _ => (0, 0)) (s.isl i).runs kind

/-- An opportunity passes: a run of 64 ends and the next begins. -/
def noteRun (s : State) (i kind : Nat) (used : Bool) : State :=
  let r := s.runOf i kind
  let n := if 63 ≤ r.1 then (0, 0) else (r.1 + 1, if used then r.2 + 1 else r.2)
  s.modIsl i fun v => { v with runs := Tbl.put (fun _ => (0, 0)) v.runs kind n }

/-- Throttling holds the next opportunity of a kind: F of its run of 64 have been admitted (R532). -/
def throttled (s : State) (i kind : Nat) : Bool := decide (s.shareF i ≤ 63) && decide (s.shareF i ≤ (s.runOf i kind).2)

/-- An opportunity has been used, or not; with F at 64 none needs counting (log entry 122). -/
def passed (s : State) (i kind : Nat) (used : Bool) : State := if 64 ≤ s.shareF i then s else s.noteRun i kind used

/-- What an island does at an admission opportunity of a kind (R532: 0 an issue slot, 1 a stream-element boundary, 2 a descriptor or window
admission), where `t` admits; with F at 64 every opportunity admits (log entry 122). -/
def opportunity (s : State) (i kind : Nat) (t : State) : State :=
  if 64 ≤ s.shareF i then t
  else if t = s then s
  else if s.throttled i kind then s.passed i kind false
  else t.passed i kind true

end State

end Sys2Proof.Machine
end

