-- ==== Sys2Proof/Machine/Capture.lean ====
section
/-! DEFINITION. The scope of a reset or a capture, and shadow capture (R590 to R595): it stands below the units' operations because a capture
marker travels ahead of the work they pass on. -/

namespace Sys2Proof.Machine

/-! ### What a reset or a capture covers -/

/-- The units a reset or a capture covers: tiles, clusters, regions, dies, slow-tier chiplets, the hub, the whole package. -/
structure Scope where
  tile : Nat → Bool
  cluster : Nat → Bool
  region : Nat → Bool
  die : Nat → Bool
  slow : Nat → Bool
  hub : Bool
  whole : Bool

def Scope.all : Scope := ⟨fun _ => true, fun _ => true, fun _ => true, fun _ => true, fun _ => true, true, true⟩
def Scope.none : Scope := ⟨fun _ => false, fun _ => false, fun _ => false, fun _ => false, fun _ => false, false, false⟩

/-- The scope of a unit descriptor's low 28 bits (R5, R14): tile, cluster, region, die; at level 6 the package, the hub or a slow-tier
chiplet by ATTACH; a level without a unit path covers nothing (R590; log entry 120). -/
def Scope.ofUnit (u : Nat) : Scope :=
  let d := bitsOf u 3 2
  let r := d * 3 + bitsOf u 5 2
  let n := r * 56 + bitsOf u 7 6
  let t := n * 16 + bitsOf u 13 5
  match u % 8 with
  | 2 => { Scope.none with tile := (· == t) }
  | 3 => { Scope.none with tile := (clusterOfTile · == n), cluster := (· == n) }
  | 4 => { Scope.none with tile := (regionOfTile · == r), cluster := (regionOfCluster · == r), region := (· == r) }
  | 5 => { Scope.none with tile := (dieOfTile · == d), cluster := (· / 168 == d), region := (dieOfRegion · == d), die := (· == d) }
  | 6 =>
    match bitsOf u 24 4 with
    | 0 => Scope.all
    | 1 => { Scope.none with hub := true }
    | a => { Scope.none with slow := (· + 2 == a) }
  | _ => Scope.none

/-- An update engine of the scope: a fast-tier engine with its region, a slow-tier engine with its chiplet. -/
def Scope.upd (c : Scope) (u : Nat) : Bool := if u < 12 then c.region u else c.slow (u - 12)

/-- The scope covers a unit named by the low 28 bits of its descriptor. -/
def Scope.covers (c : Scope) (u : Nat) : Bool :=
  let d := bitsOf u 3 2
  let r := d * 3 + bitsOf u 5 2
  let n := r * 56 + bitsOf u 7 6
  match u % 8 with
  | 1 | 2 => c.tile (n * 16 + bitsOf u 13 5)
  | 3 => c.cluster n
  | 4 => c.region r
  | 5 => c.die d
  | 6 =>
    match bitsOf u 24 4 with
    | 0 => c.whole
    | 1 => c.hub
    | a => c.slow (a - 2)
  | _ => c.whole

/-- The scope covers a register block; none covers the meter (R545). -/
def Scope.block (c : Scope) (b : Blk) : Bool :=
  match b.k with
  | 0 => if b.i = 0 then c.whole else if b.i = 1 then c.hub else c.slow (b.i - 2)
  | 1 => c.die b.i
  | 2 => c.region b.i
  | 3 => c.cluster b.i
  | 4 => c.tile b.i
  | 5 => c.tile (b.i / 4)
  | 6 => c.region (b.i / 8)
  | 7 => c.slow b.i
  | 9 => c.hub
  | 11 =>
    if b.i < 10752 then c.tile b.i
    else if b.i < 12096 then c.cluster ((b.i - 10752) / 2)
    else if b.i < 12192 then c.region ((b.i - 12096) / 8)
    else if b.i < 12196 then c.die (b.i - 12192)
    else if b.i < 12228 then c.die ((b.i - 12196) / 8)
    else if b.i < 12234 then c.slow (b.i - 12228)
    else c.hub
  | 10 => false
  | _ => c.whole

/-- The scope covers the queue's consumer or its tile. -/
def Scope.queue (c : Scope) (q : Nat) (v : QueueCtx) : Bool :=
  if q % 65536 < 10752 then c.tile (queueTileNo q)
  else match v.kind with
    | 4 => c.region (v.unit / 4)
    | 5 => c.upd v.unit
    | 6 => c.hub
    | 7 | 8 => c.die (q / 65536)
    | _ => c.whole
where queueTileNo (q : Nat) : Nat := q / 65536 * 2688 + q % 65536 / 4

/-- The block and register of a register key. -/
def keyBlk (k : Nat) : Blk := ⟨k / 8192 / 256 / 2 ^ 20, k / 8192 / 256 % 2 ^ 20⟩
def keyReg (k : Nat) : Reg := Reg.ofNat (k / 8192 % 256)

/-! ### Shadow capture -/

/-- A bank of an engine (R582): index 8r + 7 of the region banks is reserved. -/
def bankOk (b : Nat) : Bool := decide (b < 12235) && !(decide (12096 ≤ b) && decide (b < 12192) && (b - 12096) % 8 == 7)

/-- The island of a bank's engine (R24, R592); clocked engines have none. -/
def bankIsland (b : Nat) : Option Nat :=
  if b < 10752 then some (b / 16)
  else if b < 12096 then some ((b - 10752) / 2)
  else if b < 12192 then some (672 + (b - 12096) / 8)
  else if b < 12196 then some (684 + (b - 12192))
  else if b = 12234 then some 688
  else none

/-- The island whose supply the registers of a block stand on (R24, R313, R521); a clocked engine's stand on none. -/
def blkIsland (b : Blk) : Option Nat :=
  match b.k with
  | 1 => some (684 + b.i)
  | 2 => some (672 + b.i)
  | 3 => some b.i
  | 4 => some (b.i / 16)
  | 5 => some (b.i / 64)
  | 6 => some (672 + b.i / 8)
  | 11 => bankIsland b.i
  | _ => none

/-- A block's island is in HOLD: accesses to its registers wait (R521, R524). -/
def State.blkHeld (s : State) (b : Blk) : Bool :=
  match blkIsland b with
  | some i => s.islState i == 1
  | none => false

/-- Registers of a unit that stand on another supply than its island: sync memories, Lightway ports (R377, R522), and what the hub keeps of
the unit: its descriptor and the power manager's record of it (R12, R542). -/
def Reg.alwaysOn (r : Reg) : Bool :=
  [Reg.UD, .SYNC_CTRL, .SYNC_STATUS, .SYNC_SEL, .SYNC_VIEW, .SYNC_CMD, .SYNC_ERR, .LW_CTRL, .LW_STATUS, .LW_PEER,
    .ISL_STATUS, .ISL_AGE, .ISL_DROOPS, .ISL_RAMPS].contains r || r.row.en == some .SYNC_CTRL || r.row.en == some .LW_CTRL

/-- What an access to a block's registers does, once it reaches them. -/
def State.ifReached (s : State) (b : Blk) (t : State) : State := if s.blkHeld b then s else t

/-- The island of the statistics unit of a generator (R64): its tile's, its fast-tier update engine's. -/
def genIsland (g : Nat) : Option Nat :=
  if g < 10752 then some (clusterOfTile g) else if g < 10764 then some (672 + (g - 10752)) else none

/-- The queues of a unit's queue set (R14, R481): first and count. -/
def queueSet (u : Nat) : Nat × Nat :=
  let d := bitsOf u 3 2
  let r := d * 3 + bitsOf u 5 2
  let n := r * 56 + bitsOf u 7 6
  let t := n * 16 + bitsOf u 13 5
  let w := match u % 8 with
    | 2 => udReset (bTile t) 1
    | 3 => udReset (bCluster n) 1
    | 4 => udReset (bRegion r) 1
    | 5 => udReset (bDie d) 1
    | 6 => if bitsOf u 24 4 = 0 then udReset bPackage 1 else 0
    | _ => 0
  (w % 2 ^ 18, w / 2 ^ 18)

/-- Word offsets of the snapshot area (R593), offset / 8. -/
def wSet (i : Nat) : Nat := (0x1000 + 0xC00 * i) / 8
def wClamps (m : Nat) : Nat := 0xB000 / 8 + m
def wCore (c : Nat) : Nat := 0xC000 / 8 + c
def wThr (t : Nat) : Nat := 0xC100 / 8 + 4 * t
def wBank (b : Nat) : Nat := 0x10000 / 8 + 32 * b
def wQueue (q : Nat) : Nat := 0x400000 / 8 + 4 * q

/-- How `done` and `skipped` number the engines of a capture: bank b as b, queue q, the statistics unit of generator g. -/
def capOfQueue (q : Nat) : Nat := 2 ^ 20 + q
def capOfStat (g : Nat) : Nat := 2 ^ 21 + g

/-- A statistics unit is in a scope. -/
def Scope.stat (c : Scope) (g : Nat) : Bool := if g < 10752 then c.tile g else decide (g < 10770) && c.upd (g - 10752)

namespace State

/-- Entries of the second buffer (R595). -/
def bufPut (s : State) (l : List (Nat × Nat)) : State :=
  { s with snap.buf := l.foldl (fun t e => Tbl.put (fun _ => none) t e.1 (some (e.2 % 2 ^ 64))) s.snap.buf }

/-- The scope of the capture in progress. -/
def capScope (s : State) : Scope := Scope.ofUnit s.snap.scope

/-- An engine of the capture is in its scope. -/
def capIn (s : State) (e : Nat) : Bool :=
  let c := s.capScope
  if e < 2 ^ 20 then bankOk e && c.block (bBank e)
  else if e < 2 ^ 21 then
    let (q, n) := queueSet s.snap.scope
    decide (q ≤ e - 2 ^ 20) && decide (e - 2 ^ 20 < q + n)
  else c.stat (e - 2 ^ 21)

/-- How many engines, queue contexts and statistics units the scope holds. -/
def capCount (s : State) : Nat :=
  ((upFrom 0 12235).filter fun b => bankOk b && s.capScope.block (bBank b)).length + (queueSet s.snap.scope).2
    + ((upFrom 0 10770).filter s.capScope.stat).length

/-- An engine's island does not run (R592). -/
def capAsleep (s : State) (e : Nat) : Bool :=
  match (if e < 2 ^ 20 then bankIsland e else if e < 2 ^ 21 then none else genIsland (e - 2 ^ 21)) with
  | some i => s.islState i != 0
  | none => false

/-- A bank copies its counters into its shadow and its snapshot entry (R590, R593). -/
def capBank (s : State) (b : Nat) : State :=
  let k := bBank b
  let vs := (upFrom 0 16).map fun i => (i, s.reg k .CB_CNT i)
  let s := s.foldS vs fun s e => s.setReg k .CB_SHADOW e.1 e.2
  let s := (s.setF k Fld.CB_STATUS_SEQ s.snap.seq).setFlag k Fld.CB_STATUS_CAPTURED true
  s.bufPut (vs.map (fun e => (wBank b + e.1, e.2.toNat % 2 ^ 48)) ++ [(wBank b + 16, s.getF k Fld.CB_CTRL_MODE + s.snap.seq * 2 ^ 32)])

/-- A queue context's counts. -/
def capQueue (s : State) (q : Nat) : State :=
  let c := Tbl.get QueueCtx.reset s.queues q
  s.bufPut [(wQueue q, c.prod.toNat + c.cons.toNat * 2 ^ 32), (wQueue q + 1, c.clamps), (wQueue q + 2, c.refused), (wQueue q + 3, c.overflow)]

/-- A statistics unit copies its 360 counters into its shadow copy (R590). -/
def capStat (s : State) (g : Nat) : State :=
  { s with snap.stat := (upFrom 0 360).foldl (fun t i =>
      Tbl.put (fun _ => 0) t (512 * g + i) ((s.reg (bConv g) .FMT_STAT i).toNat % 2 ^ 48)) s.snap.stat }

/-- An engine that is asleep keeps its entry, with SKIPPED set (R592). -/
def capSkip (s : State) (e : Nat) : State :=
  let s := { s with snap.skipped := e :: s.snap.skipped }
  if e < 2 ^ 20 then s.bufPut [(wBank e + 16, setBits (Tbl.get (fun _ => 0) s.snap.area (wBank e + 16)) 1 1 1)] else s

/-- An injection, or a marker of the capture's sequence, reaches an engine (R590 to R592): it captures, once; nothing else of it changes. -/
def capture (s : State) (e : Nat) : State :=
  if s.snap.state ≠ 2 ∨ ¬ s.capIn e ∨ s.snap.done.contains e ∨ s.snap.skipped.contains e then s
  else
    let s := if s.capAsleep e then s.capSkip e
      else
        let t := { s with snap.done := e :: s.snap.done, snap.lastAt := s.time }
        if e < 2 ^ 20 then t.capBank e else if e < 2 ^ 21 then t.capQueue (e - 2 ^ 20) else t.capStat (e - 2 ^ 21)
    if s.snap.done.length + s.snap.skipped.length = s.capCount then { s with snap.state := 3 } else s

/-- Work reaches an engine: once some engine of the capture in progress has captured, its marker travels ahead of the work, so that what was
sent after the sender's capture is not counted as received before it (R590; log entry 120). -/
def markerFirst (s : State) (e : Nat) : State := if s.snap.state = 2 ∧ s.snap.done ≠ [] then s.capture e else s

/-- A work item of an engine's counter bank, counter 14, in stall-by-cause mode (R582, R585), behind the marker of a capture in progress. -/
def workItem (s : State) (bank : Nat) (n : Nat := 1) : State := (s.markerFirst bank).bankCount bank 14 n

end State

end Sys2Proof.Machine
end

