-- ==== Sys2Proof/Machine/Ops.lean ====
section
/-! DEFINITION. The named operations over memories, threads, statistics, events and interrupts that the meanings share. -/

namespace Sys2Proof.Machine

/-! ### The address map (R306, R307, R311, R313) -/

/-- Where a device address leads. -/
inductive Target where
  | fast (stack off : Nat)
  | slow (off : Nat)
  | host (off : Nat)
  | regs (off : Nat)
  | unmapped
  deriving DecidableEq, Repr

/-- The present stacks in ascending region order (R309). -/
def State.stacks (s : State) : List Nat :=
  (upFrom 0 12).filter fun k => (s.getF bPackage Fld.MEM_MAP_PRESENT) / 2 ^ k % 2 == 1

def gib : Nat := 2 ^ 30
def slowBase : Nat := 2 ^ 40
def slowTop : Nat := 2 ^ 40 + 1536 * 2 ^ 30
def hostBase : Nat := 2 ^ 43
def hostTop : Nat := 2 ^ 44
def regBase : Nat := 0xF000000000000

/-- The stack and stack offset of a fast-tier address (R307). -/
def fastDecode (ps : List Nat) (il a : Nat) : Option (Nat × Nat) :=
  let n := ps.length
  if a < n * il * gib then
    let g := a / 4096
    some (ps.getD (g % n) 0, g / n * 4096 + a % 4096)
  else if a < n * 32 * gib then
    let d := a - n * il * gib
    some (ps.getD (d / ((32 - il) * gib)) 0, il * gib + d % ((32 - il) * gib))
  else none

/-- A device address decoded (R306). -/
def State.target (s : State) (a : Nat) : Target :=
  if regBase ≤ a then (if a < 2 ^ 52 then .regs (a - regBase) else .unmapped)
  else if hostBase ≤ a ∧ a < hostTop then .host (a - hostBase)
  else if slowBase ≤ a ∧ a < slowTop then .slow (a - slowBase)
  else match fastDecode s.stacks (s.getF bPackage Fld.MEM_MAP_IL_GIB) a with
    | some (k, o) => .fast k o
    | none => .unmapped

/-- The memory key of a tier address: stack × 2^35 + offset for the fast tier, the address itself for the slow tier. -/
def tierKey : Target → Option Nat
  | .fast k o => some (k * 2 ^ 35 + o)
  | .slow o => some (slowBase + o)
  | _ => none

namespace State

/-- The host link is up (R520): without light on its laser input the host port does not operate (R3). -/
def hostUp (s : State) : Bool := s.getF (bFn 4) Fld.HL_STATUS_SPEED != 0

/-- The function answers accesses to its BARs: the link is up (R3, R520), configuration space is ready, D0, PERST# not asserted (R510,
R512). -/
def barsDecode (s : State) : Bool :=
  s.hostUp && s.hl.ready && !s.hl.d3hot && !s.flag (bFn 4) Fld.HL_STATUS_PERST

/-- A posted write toward the host, with the message it carries, if any (R312, R516): it is sent, or waits for the link in the order in which
it was posted (R3; log entry 119). -/
def hostPost (s : State) (a : Nat) (bs : List Byte) (msg : Option Nat) : State :=
  if s.hostUp then { s with mem.host := Memory.writeBytes s.mem.host a bs, ev.sent := msg.toList ++ s.ev.sent }
  else { s with hl.posted := s.hl.posted ++ [(a, bs, msg)] }

/-- The posted writes that waited for the link are sent. -/
def hostFlush (s : State) : State :=
  ({ s with hl.posted := [] }).foldS s.hl.posted fun s e => s.hostPost e.1 e.2.1 e.2.2

/-- What an access to the host finds while the link is up; while it is down, nothing reaches the function. -/
def ifHost (s t : State) : State := if s.hostUp then t else s

/-- The host bus address of a host-window offset (R312, R335). -/
def hostAddr (s : State) (off : Nat) : Nat := (s.getF bPackage Fld.HW_MAP_BASE * 4096 + off) % 2 ^ 64

/-- A granule of the tiers fails its check (R578): it has failed, or its stack or channel pair has (R309, R310, R555). A read of the host
window has no answer while the link is down, which is an error (R3, R312). -/
def failing (s : State) (t : Target) : Bool :=
  match t with
  | .fast k o => s.mem.dead.contains k || s.mem.bad.contains ((k * 2 ^ 35 + o) / 64)
  | .slow o => s.mem.deadPairs.contains (o / 4096 % 6 * 4 + o / 4096 / 6 % 8 / 2) || s.mem.bad.contains ((slowBase + o) / 64)
  | .host _ => !s.hostUp
  | _ => false

/-- The 64-bit word of a dirty stack-cache line that holds a byte fails its check (R317, R578). -/
def wordFails (s : State) (t : Target) : Bool :=
  match tierKey t with
  | some k => s.mem.badWords.contains (4, k / 8)
  | none => false

/-- A byte of device memory at a device address: tiers and host window. A granule or word that fails its check delivers zeros
(R578). -/
def devByte (s : State) (a : Nat) : Byte :=
  let t := s.target a
  if s.failing t || s.wordFails t then 0
  else
    match t with
    | .host o => Memory.read s.mem.host (s.hostAddr o)
    | t =>
      match tierKey t with
      | some k => Memory.read s.mem.dev k
      | none => 0

/-- A byte of device memory written. -/
def setDevByte (s : State) (a : Nat) (b : Byte) : State :=
  match s.target a with
  | .host o => s.hostPost (s.hostAddr o) [b] none
  | t =>
    match tierKey t with
    | some k => { s with mem.dev := Memory.write s.mem.dev k b }
    | none => s

def devBytes (s : State) (a : Nat) : Nat → List Byte
  | 0 => []
  | n + 1 => s.devByte a :: s.devBytes (a + 1) n

def putDevBytes (s : State) (a : Nat) : List Byte → State
  | [] => s
  | b :: r => (s.setDevByte a b).putDevBytes (a + 1) r

/-- The units of n bytes that [a, a + len) covers whole, by tier key / n. -/
def covered (s : State) (n a len : Nat) : List Nat :=
  (upFrom ((a + n - 1) / n) ((a + len) / n - (a + n - 1) / n)).filterMap fun g => (tierKey (s.target (n * g))).map fun k => k / n

/-- Words of a store that fail their check pass it again where one write covers them (R578). -/
def healWords (s : State) (store : Nat) (ws : List Nat) : State :=
  if s.mem.badWords.isEmpty then s
  else { s with mem.badWords := s.mem.badWords.filter fun e => !(e.1 == store && ws.contains e.2) }

/-- Bytes [a, a + n) of one write; a granule of the tiers, or a word of a dirty cache line, that it covers whole passes its check again
(R578). -/
def setDevBytes (s : State) (a : Nat) (bs : List Byte) : State :=
  let s := s.putDevBytes a bs
  if s.mem.bad.isEmpty && s.mem.badWords.isEmpty then s
  else
    let g := s.covered 64 a bs.length
    ({ s with mem.bad := s.mem.bad.filter fun k => !g.contains k }).healWords 4 (s.covered 8 a bs.length)

/-- A little-endian number of n bytes in device memory. -/
def devNat (s : State) (a n : Nat) : Nat := leNat (s.devBytes a n)
def setDevNat (s : State) (a n v : Nat) : State := s.setDevBytes a (leBytes n v)

/-- The end of the fast tier (R306, R309). -/
def fastTop (s : State) : Nat := s.stacks.length * 32 * gib

/-- A byte range lies whole in the fast tier, the slow tier or the host window. -/
def inFast (s : State) (a n : Nat) : Bool := a + n ≤ s.fastTop
def inSlow (a n : Nat) : Bool := slowBase ≤ a && a + n ≤ slowTop
def inHost (a n : Nat) : Bool := hostBase ≤ a && a + n ≤ hostTop
/-- In the fast or slow tier. -/
def inTiers (s : State) (a n : Nat) : Bool := s.inFast a n || inSlow a n
/-- In the fast tier, the slow tier or the host window. -/
def mapped (s : State) (a n : Nat) : Bool := s.inTiers a n || inHost a n

/-- Every stack is on an island that is ON. -/
def stacksRun (s : State) : Bool := (upFrom 0 12).all fun r => s.runs (672 + r)

/-- No byte of [a, a + n) is of a stack in HOLD or OFF, where a request waits (R521, R524; log entry 113). -/
def memRuns (s : State) (a n : Nat) : Bool :=
  s.stacksRun || (upFrom (a / 64) ((a + n + 63) / 64 - a / 64)).all fun g => match s.target (64 * g) with
    | .fast k _ => s.runs (672 + k)
    | _ => true

/-! ### Scratch (R159, R173) -/

def scratchKey (t a : Nat) : Nat := t * 2 ^ 18 + a
/-- Scratch bytes; a 64-bit word that fails its check delivers zeros (R578). -/
def scratchBytes (s : State) (t a n : Nat) : List Byte :=
  let bs := Memory.readBytes s.mem.scratch (scratchKey t a) n
  if s.mem.badScratch.isEmpty then bs
  else (bs.zip (upFrom (scratchKey t a) n)).map fun p => if s.mem.badScratch.contains (p.2 / 8) then 0 else p.1
def scratchNat (s : State) (t a n : Nat) : Nat := leNat (s.scratchBytes t a n)
/-- Scratch bytes of one write; a word that it covers whole passes its check again (R578). -/
def setScratch (s : State) (t a : Nat) (bs : List Byte) : State :=
  let k := scratchKey t a
  { s with
    mem.scratch := Memory.writeBytes s.mem.scratch k bs
    mem.badScratch := s.mem.badScratch.filter fun w => !(decide (k ≤ 8 * w) && decide (8 * w + 8 ≤ k + bs.length)) }

/-! ### Tiles and threads -/

def tileOf (s : State) (t : Nat) : Tile := Tbl.get (fun _ => Tile.reset) s.tile.tiles t
def setTile (s : State) (t : Nat) (v : Tile) : State :=
  { s with tile.tiles := Tbl.put (fun _ => Tile.reset) s.tile.tiles t v }
def modTile (s : State) (t : Nat) (f : Tile → Tile) : State := s.setTile t (f (s.tileOf t))

def thr (s : State) (t c : Nat) : Thread := Tbl.get (fun _ => Thread.reset) s.tile.threads (t * 128 + c)
def setThr (s : State) (t c : Nat) (v : Thread) : State :=
  { s with tile.threads := Tbl.put (fun _ => Thread.reset) s.tile.threads (t * 128 + c) v }
def modThr (s : State) (t c : Nat) (f : Thread → Thread) : State := s.setThr t c (f (s.thr t c))

/-- A scalar register; x0 reads as zero (R136). -/
def x (s : State) (t c r : Nat) : Word :=
  if r = 0 then 0 else Tbl.get (fun _ => 0) s.tile.xreg ((t * 128 + c) * 32 + r)
/-- A scalar register written; writes to x0 are discarded (R136). -/
def setX (s : State) (t c r : Nat) (v : Word) : State :=
  if r = 0 then s else { s with tile.xreg := Tbl.put (fun _ => 0) s.tile.xreg ((t * 128 + c) * 32 + r) v }

/-- A predicate; p0 reads as 1 (R136). -/
def p (s : State) (t c k : Nat) : Bool := if k = 0 then true else (s.thr t c).pred.getLsbD k
/-- A predicate written; writes to p0 are discarded (R136). -/
def setP (s : State) (t c k : Nat) (v : Bool) : State :=
  if k = 0 then s
  else s.modThr t c fun th => { th with pred := BitVec.ofNat 8 (setBits th.pred.toNat k 1 (if v then 1 else 0)) }

/-- The 64 lanes of a vector register (R146); the two lanes of a 64-bit word that fails its check read as zero (R578). -/
def v (s : State) (t r : Nat) : List Half :=
  (upFrom 0 64).map fun i =>
    if s.mem.badWords.contains (2, (t * 1024 + r * 64 + i) / 2) then 0
    else Tbl.get (fun _ => 0) s.tile.vreg (t * 1024 + r * 64 + i)
def setLane (s : State) (t r i : Nat) (x : Half) : State :=
  { s with tile.vreg := Tbl.put (fun _ => 0) s.tile.vreg (t * 1024 + r * 64 + i) x }
/-- Lanes of a vector register written one by one from lane i on. -/
def putLanes (s : State) (t r i : Nat) : List Half → State
  | [] => s
  | x :: rest => (s.setLane t r i x).putLanes t r (i + 1) rest
/-- The words of the vector registers that n lanes from lane i of a register on fill whole (R579: two lanes to a word). -/
def laneWords (t r i n : Nat) : List Nat :=
  let lo := t * 1024 + r * 64 + i
  upFrom ((lo + 1) / 2) ((lo + n) / 2 - (lo + 1) / 2)
/-- Lanes of a vector register written from lane i on, by one write (R578). -/
def setLanes (s : State) (t r i : Nat) (xs : List Half) : State := (s.putLanes t r i xs).healWords 2 (laneWords t r i xs.length)

/-! ### Statistics and generators (R58 to R66) -/

/-- The counts of a conversion by the unit of generator index g, under a format and class (R64, R66). -/
def countStats (s : State) (g fmt cls : Nat) (st : Stat) : State :=
  let s := s.markerFirst (capOfStat g)
  let at_ (s : State) (q n : Nat) : State := s.count (bConv g) .FMT_STAT n ((fmt * 8 + cls) * 5 + q)
  if s.flag (bConv g) Fld.FMT_CTRL_STATS_EN then
    let s := at_ (at_ (at_ (at_ (at_ s 0 st.conv) 1 st.sat) 2 st.van) 3 st.zero) 4 st.nan
    let s := if st.sat = 0 then s else s.setFlag (bConv g) Fld.FMT_CTRL_SAT_SEEN true
    if st.nan = 0 then s else s.setFlag (bConv g) Fld.FMT_CTRL_NAN_SEEN true
  else s

/-- A NaN block or wide NaN written sets NAN_SEEN whether or not the unit counts (R69). -/
def nanSeen (s : State) (g : Nat) (st : Stat) : State :=
  if st.nan = 0 then s else s.setFlag (bConv g) Fld.FMT_CTRL_NAN_SEEN true

/-- The generator of a converting unit (R58, R59). -/
def gen (s : State) (g : Nat) (seed : Word) (want : Bool) : Drawer :=
  ⟨want && s.flag (bConv g) Fld.FMT_CTRL_SR_ALLOW, srKey seed g, Tbl.get (fun _ => 0) s.tile.gens g⟩

/-- The generator's position after draws; SR_CTR shows the counter n (R60, R70). -/
def setGen (s : State) (g : Nat) (d : Drawer) : State :=
  { s with tile.gens := Tbl.put (fun _ => 0) s.tile.gens g (d.pos % (5 * 2 ^ 64)) }

end State

/-! ### MSI-X, events and interrupts (R487, R499, R502, R516) -/

namespace State

/-- A number written little-endian into host memory at a host bus address by a posted write. -/
def hostWrite (s : State) (a n v : Nat) : State := s.hostPost a (leBytes n v) none

/-- Vector v is raised: its message is sent, or kept pending while it is masked (R516). -/
def msixRaise (s : State) (vec : Nat) : State :=
  let e := Tbl.get (fun _ => MsixEntry.mk 0 0 true) s.ev.msix vec
  if e.masked then { s with ev.pba := Tbl.put (fun _ => false) s.ev.pba vec true }
  else s.hostPost e.addr (leBytes 4 e.data) (some vec)

/-- The 64-byte record of an event with its sequence (R487). -/
def eventRecord (e : Event) (evseq : Nat) : Nat :=
  e.code % 2 ^ 16 + evseq % 2 ^ 32 * 2 ^ 32 + e.time % 2 ^ 64 * 2 ^ 64 + e.step % 2 ^ 32 * 2 ^ 128
    + e.unit % 2 ^ 28 * 2 ^ 160
    + (match e.queue with | none => 0 | some (q, d) => q % 2 ^ 18 * 2 ^ 192 + 2 ^ 210 + d % 2 ^ 32 * 2 ^ 224)
    + e.detail % 2 ^ 256 * 2 ^ 256

/-- An event record written to the ring and its vector raised (R487). -/
def eventWrite (s : State) (e : Event) (vec : Nat) : State :=
  match s.ev.ring.base with
  | none => s
  | some base =>
    let s := s.hostWrite (base + 64 * (s.ev.ring.produced % 2 ^ s.ev.ring.log2)) 64 (eventRecord e s.ev.ring.produced)
    ({ s with ev.ring.produced := s.ev.ring.produced + 1 }).msixRaise vec

/-- The ring has no free slot. -/
def ringFull (s : State) : Bool := s.ev.ring.produced - s.ev.ring.consumed ≥ 2 ^ s.ev.ring.log2

/-- Firmware reports an event: written, kept while the ring is full, discarded and counted beyond 1,024, or only counted
before the ring is set (R487). -/
def report (s : State) (e : Event) (vec : Nat := 64) : State :=
  match s.ev.ring.base with
  | none => { s with ev.ring.counted := s.ev.ring.counted + 1 }
  | some _ =>
    if !s.ringFull && s.ev.ring.kept.isEmpty && s.ev.ring.lost == 0 then s.eventWrite e vec
    else if s.ev.ring.kept.length < 1024 then { s with ev.ring.kept := s.ev.ring.kept ++ [(e, vec)] }
    else { s with ev.ring.lost := s.ev.ring.lost + 1 }

/-- An event of a unit, without a queue (R487). -/
def event (s : State) (code unit detail : Nat) : State :=
  s.report ⟨code, s.time, 0, unit, none, detail⟩

/-- An event about a descriptor: its queue, sequence and step (R487). -/
def eventQ (s : State) (code unit detail queue dseq step : Nat) : State :=
  s.report ⟨code, s.time, step, unit, some (queue, dseq), detail⟩

/-- A level source's line. -/
def levelHigh (s : State) (n : Nat) : Bool := (Tbl.get (fun _ => none) s.ev.intr.levels n : Option Nat).isSome

/-- An assertion counts toward the source's storm window; passing the limit masks the source (R502). -/
def stormCount (s : State) (n : Nat) : State :=
  let c := Tbl.get (fun _ => 0) s.ev.intr.counts n + 1
  if 2 ^ 32 < c then s
  else
  let s := { s with ev.intr.counts := Tbl.put (fun _ => 0) s.ev.intr.counts n c }
  if s.getF (bFn 2) Fld.IC_SRC_LIMIT n < c ∧ ¬ s.flag (bFn 2) Fld.IC_SRC_STORM n then
    let s := s.setFlag (bFn 2) Fld.IC_SRC_STORM true n
    (s.count (bFn 2) .IC_STORM).event 0x0010 udHub (n + c * 2 ^ 64)
  else s

/-- An edge source asserts: PENDING is set, or the edge coalesces (R499). -/
def irqEdge (s : State) (n : Nat) : State :=
  let s := if s.flag (bFn 2) Fld.IC_SRC_PENDING n then s.count (bFn 2) .IC_COALESCED
    else s.setFlag (bFn 2) Fld.IC_SRC_PENDING true n
  s.stormCount n

/-- A level source's line rises: it is pending while asserted and not ACTIVE (R499). -/
def irqLevel (s : State) (n : Nat) (high : Bool) : State :=
  if high then
    if s.levelHigh n then s
    else
      let s := { s with ev.intr.levels := Tbl.put (fun _ => none) s.ev.intr.levels n (some s.time) }
      let s := if s.flag (bFn 2) Fld.IC_SRC_ACTIVE n then s else s.setFlag (bFn 2) Fld.IC_SRC_PENDING true n
      s.stormCount n
  else
    let s := { s with ev.intr.levels := Tbl.put (fun _ => none) s.ev.intr.levels n none }
    s.setFlag (bFn 2) Fld.IC_SRC_PENDING false n

/-- A source asserts by its kind (R498). -/
def irq (s : State) (n : Nat) : State :=
  if s.flag (bFn 2) Fld.IC_SRC_LEVEL n then s.irqLevel n true else s.irqEdge n

end State

/-- The event source of tile events of a cluster (R498: k = 0 tile events, 1 sampler, 2 gather/scatter, 3 sync memory). -/
def srcCluster (n k : Nat) : Nat := 4 * n + k
def srcRegion (r k : Nat) : Nat := 2688 + 16 * r + k
def srcDie (d k : Nat) : Nat := 2880 + 64 * d + k

end Sys2Proof.Machine
end

