-- ==== Sys2Proof/Machine/SyncOps.lean ====
section
/-! DEFINITION. The operations of the sync memories and the meanings of their rows (14_synchronisation.md, R377 to R397). -/

namespace Sys2Proof.Machine

/-- The 32-bit agent identifier (R379). -/
def agentId : Waiter → Nat
  | .thread t c _ => t * 128 + c
  | .engine a => 2 ^ 28 + a % 2 ^ 28
  | .control th c => 2 * 2 ^ 28 + th * 32 + c
  | .host m _ _ => 3 * 2 ^ 28 + m

/-- The agent identifier of a remote module (R379). -/
def agentRemote (level module : Nat) : Nat := 4 * 2 ^ 28 + level * 2 ^ 16 + module

/-- The agent of an engine: its code within the block, K and I (R379, R380). -/
def agentEngine (e k i : Nat) : Nat := 2 ^ 28 + e * 2 ^ 24 + k * 2 ^ 20 + i

/-- A completion word (R383). -/
def completion (value status : Nat) : Nat := value % 2 ^ 32 + status * 2 ^ 32

namespace State

def counterOf (s : State) (c : Nat) : Counter := Tbl.get (fun _ => Counter.reset) s.sync.counters c
def setCounter (s : State) (c : Nat) (v : Counter) : State :=
  { s with sync.counters := Tbl.put (fun _ => Counter.reset) s.sync.counters c v }

/-- A counter of a sync memory gains on the memory that holds the counter (R393). -/
def syncCount (s : State) (c : Nat) (r : Reg) : State := s.count (bSync (syncMemOf c)) r

/-- The completion word of a wait or a read reaches its agent: a tile thread's rd, leaving WAIT (R161); an engine or control
core, which takes it with its own row; the host, as a WAIT_DONE event (R478). -/
def complete (s : State) (who : Waiter) (word : Nat) : State :=
  match who with
  | .thread t c rd => (s.setX t c rd (BitVec.ofNat 64 word)).modThr t c fun th => { th with hold := 0 }
  | .host _ vec cookie => s.report ⟨0x000F, s.time, 0, udHub, none, word + cookie % 2 ^ 64 * 2 ^ 64⟩ vec
  | w => { s with sync.released := s.sync.released ++ [(w, word)] }

/-- The completion word of a registered wait; nobody takes that of a thread which is no longer in WAIT for it, its context having lost its
supply (log entry 100). -/
def release (s : State) (who : Waiter) (word : Nat) : State :=
  match who with
  | .thread t c _ => if (s.thr t c).hold = 5 then s.complete who word else s
  | _ => s.complete who word

/-- Waits of agents that a test names are withdrawn, and releases they have yet to take (R497). -/
def withdrawWaits (s : State) (mine : Waiter → Bool) : State :=
  { s with
    sync.waits := s.sync.waits.filter fun w => !mine w.who
    sync.retry := s.sync.retry.filter fun w => !mine w.who
    sync.released := s.sync.released.filter fun r => !mine r.1 }

/-- Agents that a test names are reset: their registered waits stay with their counters (R377, R378), but nobody takes what they are released
with; a wait that a full table turned away is not presented again, and what they have yet to take is lost (log entry 48). -/
def orphanWaits (s : State) (mine : Waiter → Bool) : State :=
  { s with
    sync.waits := s.sync.waits.map fun w => { w with gone := w.gone || mine w.who }
    sync.retry := s.sync.retry.filter fun w => !mine w.who
    sync.released := s.sync.released.filter fun r => !mine r.1 }

/-- Waits released in the order they registered (R382), each with one completion word. -/
def releaseAll (s : State) (c : Nat) (status : Nat) (ws : List Wait) : State :=
  s.foldS ws fun s w =>
    let s := if status = 3 then s.syncCount c .SYNC_ABANDON_REL else s
    if w.gone then s else s.release w.who (completion (s.counterOf c).value status)

/-- Every wait on a counter that its value satisfies is released (R381, R382). -/
def releaseSatisfied (s : State) (c : Nat) : State :=
  let v := (s.counterOf c).value
  let hit := fun (w : Wait) => w.counter == c && decide (w.n ≤ v)
  let ws := s.sync.waits.filter hit
  ({ s with sync.waits := s.sync.waits.filter fun w => !hit w }).releaseAll c 0 ws

/-- Every wait on a counter is released with ABANDONED (R389, R390). -/
def releaseAbandoned (s : State) (c : Nat) : State :=
  let ws := s.sync.waits.filter fun w => w.counter == c
  ({ s with sync.waits := s.sync.waits.filter fun w => w.counter != c }).releaseAll c 3 ws

/-- An add or subtract of n (R381): the completion word and the state. The last signaller is that of the last operation that changed
the value (R378). -/
def syncAdd (s : State) (agent seq c n : Nat) (sub : Bool) : Nat × State :=
  let k := s.counterOf c
  if k.abandoned then (completion k.value 3, s)
  else
    let s := s.syncCount c .SYNC_OPS
    if n = 0 then (completion k.value 0, s)
    else
      let sat := if sub then decide (k.value < n) else decide (2 ^ 32 - 1 < k.value + n)
      let v := if sub then k.value - n else min (k.value + n) (2 ^ 32 - 1)
      let k' := { k with
        value := v, satHi := k.satHi || (sat && !sub), satLo := k.satLo || (sat && sub),
        lastSig := if v = k.value then k.lastSig else agent, lastSeq := if v = k.value then k.lastSeq else seq % 2 ^ 32 }
      let s := s.setCounter c k'
      let s := if sat then s.syncCount c .SYNC_SAT else s
      (completion v (if sat then (if sub then 2 else 1) else 0), s.releaseSatisfied c)

/-- A read (R381). -/
def syncRead (s : State) (c : Nat) : Nat × State :=
  let k := s.counterOf c
  if k.abandoned then (completion k.value 3, s) else (completion k.value 0, s.syncCount c .SYNC_OPS)

/-- The waits a sync memory holds, and how many it can (R384). -/
def waitsIn (s : State) (m : Nat) : Nat := (s.sync.waits.filter fun w => syncMemOf w.counter == m).length
def waitRoom (s : State) (m : Nat) : Bool := s.waitsIn m < if m < 672 then 2048 else 4096

/-- A wait for N: the completion word where it completes at once, else none and the state with the wait registered, or
presented again later where the table is full (R381, R384). -/
def syncWait (s : State) (who : Waiter) (c n : Nat) : Option Nat × State :=
  let k := s.counterOf c
  if k.abandoned then (some (completion k.value 3), s)
  else if n ≤ k.value then (some (completion k.value 0), s.syncCount c .SYNC_OPS)
  else if s.waitRoom (syncMemOf c) then
    (none, { s.syncCount c .SYNC_OPS with sync.waits := s.sync.waits ++ [⟨c, n, who, false⟩] })
  else (none, { s.syncCount c .SYNC_WAITFULL with sync.retry := s.sync.retry ++ [⟨c, n, who, false⟩] })

/-- A signal of an engine's descriptor: an add of 1 that ignores its completion word (R381, R385). -/
def signal (s : State) (agent seq c : Nat) : State := (s.syncAdd agent seq c 1 false).2

/-- A claim (R389); refused for a counter whose sync memory row is beyond repair (R576). -/
def claim (s : State) (c owner : Nat) : State :=
  if s.err.syncDead.contains (c / 64) then s
  else
  let s := s.releaseAbandoned c
  s.setCounter c { s.counterOf c with value := 0, satHi := false, satLo := false, abandoned := false, owner := owner }

/-- Abandonment (R390). -/
def abandon (s : State) (c : Nat) : State :=
  (s.releaseAbandoned c).setCounter c { s.counterOf c with abandoned := true }

/-- A counter's value set by an agent, releasing the waits it satisfies (R396, R477); an ABANDONED counter stays as it is (R390). -/
def setValue (s : State) (agent seq c v : Nat) : State :=
  let k := s.counterOf c
  let n := v % 2 ^ 32
  if k.abandoned then s
  else
    (s.setCounter c { k with value := n, lastSig := if n = k.value then k.lastSig else agent,
                             lastSeq := if n = k.value then k.lastSeq else seq % 2 ^ 32 }).releaseSatisfied c

/-- The sticky flags cleared (R383, R396); an ABANDONED counter stays as it is (R390). -/
def clearFlags (s : State) (c : Nat) : State :=
  if (s.counterOf c).abandoned then s else s.setCounter c { s.counterOf c with satHi := false, satLo := false }

/-! ### Remote signals (R386 to R388) -/

def landingKey (module level seq : Nat) : Nat := (module * 4 + level) * 2 ^ 32 + seq
def tally (s : State) (key : Nat) : Nat := Tbl.get (fun _ => 0) s.sync.landing key

/-- A remote signal applied: 1 is added with the remote agent, and the landing entry is freed (R387). -/
def applyRemote (s : State) (h : Held) : State :=
  let s := s.signal (agentRemote h.level h.module) h.seq h.counter
  { s with sync.landing := Tbl.erase s.sync.landing (landingKey h.module h.level h.seq) }

/-- A remote signal arrives (R387): applied, held, or left waiting in its port's credit while 256 are held. -/
def remoteSignal (s : State) (module level seq c bytes : Nat) : State :=
  let h : Held := ⟨module, level, seq, c, bytes, s.time, false⟩
  if bytes = 0 ∨ bytes ≤ s.tally (landingKey module level seq) then s.applyRemote h
  else if s.sync.held.length < 256 then
    { s.count bHub .SYNC_RX_HELD with sync.held := s.sync.held ++ [h] }
  else s

/-- Room in the landing table for a key (R386, R387). -/
def landingRoom (s : State) (key : Nat) : Bool := (Tbl.find? s.sync.landing key).isSome || s.sync.landing.length < 4096

/-- A remote write's bytes are accepted: the tally rises, and a held signal it completes is applied (R387). -/
def landed (s : State) (module level seq n : Nat) : State :=
  let key := landingKey module level seq
  let t := s.tally key + n
  let s := { s with sync.landing := Tbl.put (fun _ => 0) s.sync.landing key t }
  let hit := fun (h : Held) => landingKey h.module h.level h.seq == key && decide (h.bytes ≤ t)
  let hs := s.sync.held.filter hit
  ({ s with sync.held := s.sync.held.filter fun h => !hit h }).foldS hs applyRemote

/-- The counter that a sync memory's SYNC_SEL names (R394). -/
def selected (s : State) (m : Nat) : Nat :=
  (if m < 672 then m * 4096 else 2752512) + s.getF (bSync m) Fld.SYNC_SEL_COUNTER

/-- A write of SYNC_SEL latches the counter's state into SYNC_VIEW (R394, R395). -/
def syncSel (s : State) (m v : Nat) : State :=
  let s := s.setF (bSync m) Fld.SYNC_SEL_COUNTER (if m < 672 then min v 4095 else v)
  let c := s.selected m
  let k := s.counterOf c
  let ws := s.sync.waits.filter fun w => w.counter == c
  let slot (i : Nat) : Nat := ((ws[i]?).map fun w => agentId w.who).getD 0xFFFFFFFF
  let b2 (b : Bool) (i : Nat) : Nat := if b then 2 ^ i else 0
  let set (s : State) (i n : Nat) : State := s.setReg (bSync m) .SYNC_VIEW i (BitVec.ofNat 64 n)
  let s := set s 0 (k.value + b2 k.satHi 32 + b2 k.satLo 33 + b2 k.abandoned 34 + ws.length % 2 ^ 13 * 2 ^ 35)
  let s := set s 1 (k.owner + k.lastSig * 2 ^ 32)
  let s := set s 2 k.lastSeq
  set (set s 3 (slot 0 + slot 1 * 2 ^ 32)) 4 (slot 2 + slot 3 * 2 ^ 32)

/-- SYNC_CMD acts on the selected counter (R396). Which control-core thread signs a value it sets is free (log entry 92). -/
def syncCmd (s : State) (m op arg : Nat) : State :=
  let c := s.selected m
  match op with
  | 1 => s.claim c (arg % 2 ^ 28)
  | 2 => s.abandon c
  | 3 => s.clearFlags c
  | 4 =>
    let (w, s) := s.freshWord
    s.setValue (2 * 2 ^ 28 + w.toNat % 2 ^ 13) 0 c arg
  | _ => s

def syncClear (s : State) (m : Nat) : State :=
  s.clearRegs (bSync m) 0 [.SYNC_OPS, .SYNC_SAT, .SYNC_ABANDON_REL, .SYNC_WAITFULL, .SYNC_RX_HELD]

end State

/-- A writer has the control complex's authority: firmware, and the code of an extension that is loaded (R480, R491). -/
def State.controls (s : State) (w : Writer) : Bool := w == .control || (w == .ext && s.rot.ext.isSome)

/-- A write is accepted only from the control complex. -/
def ifControl (w : Writer) (s t : State) : State := if s.controls w then t else s

/-- A write is accepted only from firmware: an extension's is denied (R480, R491). -/
def ifFirmware (w : Writer) (s t : State) : State := if w = .control then t else s

/-! ### The rows -/

/-- SYNC_OPERATION (R381): an operation of any agent arrives at the memory of its counter. -/
def execSyncOperation (who : Waiter) (op : Fin 4) (n seq : BitVec 32) (counter : CounterId) (s : State) :
    Host.Outcome State Fault Refusal :=
  .next (match op with
    | 0 => let (w, s) := s.syncAdd (agentId who) seq.toNat counter n.toNat false; s.complete who w
    | 1 => let (w, s) := s.syncAdd (agentId who) seq.toNat counter n.toNat true; s.complete who w
    | 2 => match s.syncWait who counter n.toNat with
      | (some w, s) => s.complete who w
      | (none, s) => s
    | 3 => let (w, s) := s.syncRead counter; s.complete who w)

/-- WAIT_RETRY (R384): the wait is presented again. -/
def execWaitRetry (index : Nat) (s : State) : Host.Outcome State Fault Refusal :=
  .next (match s.sync.retry[index]? with
    | none => s
    | some w =>
      let s := { s with sync.retry := s.sync.retry.eraseIdx index }
      match s.syncWait w.who w.counter w.n with
      | (some word, s) => s.release w.who word
      | (none, s) => s)

/-- REMOTE_SIGNAL_ARRIVE (R387). -/
def execRemoteSignalArrive (module : BitVec 16) (level : Fin 4) (seq : BitVec 32) (counter : CounterId) (bytes : BitVec 32)
    (s : State) : Host.Outcome State Fault Refusal :=
  .next (s.remoteSignal module.toNat level seq.toNat counter bytes.toNat)

/-- REMOTE_WRITE_LANDED (R386): the bytes are accepted at their point of coherence and tallied; while the landing table is full
the write waits in its port's credit (R387). -/
def execRemoteWriteLanded (module : BitVec 16) (level : Fin 4) (seq : BitVec 32) (addr : BitVec 52) (data : List Byte)
    (s : State) : Host.Outcome State Fault Refusal :=
  .next (if s.landingRoom (State.landingKey module.toNat level seq.toNat) then
      (s.setDevBytes addr.toNat data).landed module.toNat level seq.toNat data.length
    else s)

/-- HELD_SIGNAL_LATE (R388): a signal held past the limit in force is recorded and reported once, and stays held. -/
def execHeldSignalLate (index : Nat) (s : State) : Host.Outcome State Fault Refusal :=
  .next (match s.sync.held[index]? with
    | none => s
    | some h =>
      if h.late ∨ s.time - h.since ≤ s.getF bHub Fld.SYNC_CTRL_HOLD_LIMIT * 1000000 then s
      else
        let s := { s with sync.held := s.sync.held.set index { h with late := true } }
        let s := s.setF bHub Fld.SYNC_ERR_MODULE h.module
        let s := s.setF bHub Fld.SYNC_ERR_LEVEL h.level
        let s := s.setF bHub Fld.SYNC_ERR_SEQ h.seq
        let s := (s.setFlag bHub Fld.SYNC_STATUS_HOLD_LATE true).irq 3201
        s.event 0x0009 udHub (s.reg bHub .SYNC_ERR).toNat)

/-- SYNC_CLAIM (R389, R396): SYNC_CMD with OP 1. -/
def execSyncClaim (m : SyncMemId) (w : Writer) (owner : BitVec 28) (s : State) : Host.Outcome State Fault Refusal :=
  .next (ifControl w s (s.syncCmd m 1 owner.toNat))

/-- SYNC_ABANDON (R390, R396): SYNC_CMD with OP 2. -/
def execSyncAbandon (m : SyncMemId) (w : Writer) (s : State) : Host.Outcome State Fault Refusal :=
  .next (ifControl w s (s.syncCmd m 2 0))

/-- SYNC_CLEAR_FLAGS (R396): SYNC_CMD with OP 3. -/
def execSyncClearFlags (m : SyncMemId) (w : Writer) (s : State) : Host.Outcome State Fault Refusal :=
  .next (ifControl w s (s.syncCmd m 3 0))

/-- SYNC_SET_VALUE (R396): SYNC_CMD with OP 4. -/
def execSyncSetValue (m : SyncMemId) (w : Writer) (value : BitVec 32) (s : State) : Host.Outcome State Fault Refusal :=
  .next (ifControl w s (s.syncCmd m 4 value.toNat))

/-- SYNC_SEL_WRITE (R394). -/
def execSyncSelWrite (m : SyncMemId) (value : BitVec 16) (s : State) : Host.Outcome State Fault Refusal :=
  .next (s.syncSel m value.toNat)

/-- SYNC_CNT_CLEAR (R394). -/
def execSyncCntClear (m : SyncMemId) (w : Writer) (s : State) : Host.Outcome State Fault Refusal :=
  .next (ifControl w s (s.syncClear m))

end Sys2Proof.Machine
end

