-- ==== Sys2Proof/Machine/ErrorOps.lean ====
section
/-! DEFINITION. The hub's error log (R578, R579): writing and merging records. -/

namespace Sys2Proof.Machine

/-- The fields of an error record that the detecting unit gives (R579). -/
structure ErrInfo where
  unit : Nat
  store : Nat
  addr : Nat
  access : Nat
  seq : Nat
  step : Nat
  agent : Nat
  deriving DecidableEq, Repr

/-- The 256-bit record (R579). -/
def ErrInfo.record (e : ErrInfo) (kind count number : Nat) : Nat :=
  e.unit % 2 ^ 28 + e.store % 16 * 2 ^ 28 + e.addr % 2 ^ 52 * 2 ^ 32 + e.access % 16 * 2 ^ 84 + kind % 2 * 2 ^ 88
    + e.seq % 2 ^ 32 * 2 ^ 96 + e.step % 2 ^ 32 * 2 ^ 128 + e.agent % 2 ^ 32 * 2 ^ 160
    + min count 65535 * 2 ^ 192 + number % 2 ^ 32 * 2 ^ 224

namespace State

/-- The record in slot n mod 256 of the log. -/
def errRecord (s : State) (n : Nat) : Nat :=
  (upFrom 0 4).foldl (fun v k => v + (s.reg (bFn 7) .ERR_LOG (4 * (n % 256) + k)).toNat * 2 ^ (64 * k)) 0
def setErrRecord (s : State) (n v : Nat) : State :=
  s.foldS (upFrom 0 4) fun s k => s.setReg (bFn 7) .ERR_LOG (4 * (n % 256) + k) (BitVec.ofNat 64 (v / 2 ^ (64 * k)))

/-- A record written to the log; its number. -/
def errWrite (s : State) (e : ErrInfo) (kind count : Nat) : Nat × State :=
  let n := s.getF (bFn 7) Fld.ERR_STATUS_PRODUCED
  (n, (s.setErrRecord n (e.record kind count n)).setF (bFn 7) Fld.ERR_STATUS_PRODUCED (n + 1))

/-- An uncorrectable error detected (R578): a new record and event 0x000E, or merged into the latest one. -/
def uncorrectable (s : State) (e : ErrInfo) : State :=
  let fresh (s : State) : State :=
    let (n, s) := s.errWrite e 0 1
    let s := ({ s with err.lastUe := some (n, s.time) }).count (bFn 7) .ERR_UE
    s.event 0x000E e.unit (s.errRecord n)
  match s.err.lastUe with
  | none => fresh s
  | some (n, at_) =>
    let r := s.errRecord n
    if bitsOf r 0 84 = bitsOf (e.record 0 0 0) 0 84 ∧ s.time - at_ ≤ 1000000 then
      (s.setErrRecord n (setBits r 192 16 (min 65535 (bitsOf r 192 16 + 1)))).count (bFn 7) .ERR_MERGED
    else fresh s

/-- No location of the memory system fails, and the host answers. -/
def memorySound (s : State) : Bool :=
  s.mem.bad.isEmpty && s.mem.dead.isEmpty && s.mem.deadPairs.isEmpty && s.mem.badWords.isEmpty && s.hostUp

/-- What of [a, a + n) fails its check, as device addresses (R578): granules; in a granule that has not failed, the 64-bit words of a dirty
cache line. -/
def badIn (s : State) (a n : Nat) : List Nat :=
  if s.memorySound || n == 0 then []
  else
    let gs := ((upFrom (a / 64) ((a + n - 1) / 64 + 1 - a / 64)).map (64 * ·)).filter fun g => s.failing (s.target g)
    let ws := if s.mem.badWords.isEmpty then []
      else ((upFrom (a / 8) ((a + n - 1) / 8 + 1 - a / 8)).map (8 * ·)).filter fun w => s.wordFails (s.target w) && !gs.contains (w / 64 * 64)
    gs ++ ws

/-- The unit that detects an error at a device address, and the store (R579). -/
def detector (s : State) (a : Nat) : Nat × Nat :=
  match s.target a with
  | .fast k o => (udRegion k, if s.mem.badWords.contains (4, (k * 2 ^ 35 + o) / 8) && !s.failing (s.target a) then 4 else 5)
  | .slow o => (udSlow (o / 4096 % 6), 6)
  | _ => (udHub, 7)

/-- Reads of granules that fail their check are recorded (R578). -/
def readBad (s : State) (gs : List Nat) (agent seq step : Nat) : State :=
  s.foldS gs fun s g => s.uncorrectable ⟨(s.detector g).1, (s.detector g).2, g, 0, seq, step, agent⟩

/-- The scratch words of a tile that fail their check among those a test of byte ranges [lo, hi) names, by scratch address. -/
def badWords (s : State) (t : Nat) (reads : Nat → Nat → Bool) : List Nat :=
  ((s.mem.badScratch.filter fun w => w / 2 ^ 15 == t && reads (w % 2 ^ 15 * 8) (w % 2 ^ 15 * 8 + 8)).map fun w => w % 2 ^ 15 * 8).dedup

/-- Reads of scratch words that fail their check are recorded (R578). -/
def readBadWords (s : State) (t : Nat) (ws : List Nat) (agent seq step : Nat) : State :=
  s.foldS ws fun s a => s.uncorrectable ⟨udTile t, 0, a, 0, seq, step, agent⟩

/-- The words of a tile's accumulator (store 1) or vector registers (store 2) that fail their check among those named, by address within
the store (R578, R579). -/
def badStore (s : State) (store : Nat) (ws : List Nat) : List Nat :=
  if s.mem.badWords.isEmpty then []
  else (ws.filter fun w => s.mem.badWords.contains (store, w)).map fun w => w % (if store = 1 then 24576 else 512) * 8

/-- Reads of such words are recorded (R578). -/
def readBadStore (s : State) (t store : Nat) (ws : List Nat) (agent : Nat) : State :=
  s.foldS (s.badStore store ws) fun s a => s.uncorrectable ⟨udTile t, store, a, 0, 0, 0, agent⟩

/-- A repair record (R571, R579): `left` spares of the kind stay in the unit. -/
def repairRecord (s : State) (unit store addr left : Nat) : State :=
  (s.errWrite ⟨unit, store, addr, 6, 0, 0, 0xFFFFFFFF⟩ 1 left).2

end State

end Sys2Proof.Machine
end

