-- ==== Sys2Proof/Machine/QueueOps.lean ====
section
/-! DEFINITION. The hardware queues: the operations on queue contexts and the meanings of the queue rows (R481 to R485), with
the launch descriptor of R486. -/

namespace Sys2Proof.Machine

/-- Bits [lo + w - 1 : lo] of a descriptor. -/
def dbits (d : List Byte) (lo w : Nat) : Nat := bitsOf (leNat d) lo w
/-- A descriptor with bits replaced. -/
def dset (d : List Byte) (lo w v : Nat) : List Byte := leBytes d.length (setBits (leNat d) lo w v)
/-- The common word of R485. -/
def dStep (d : List Byte) : Nat := dbits d 448 32
def dPhase (d : List Byte) : Nat := dbits d 480 3
def dMark (d : List Byte) : Bool := dbits d 483 1 == 1

namespace State

def queue (s : State) (q : Nat) : QueueCtx := Tbl.get QueueCtx.reset s.queues q
def setQueue (s : State) (q : Nat) (v : QueueCtx) : State := { s with queues := Tbl.put QueueCtx.reset s.queues q v }
def modQueue (s : State) (q : Nat) (f : QueueCtx → QueueCtx) : State := s.setQueue q (f (s.queue q))

/-- A logical tile, cluster, region or die is present (R18, R19): its bit in its parent's UD.PRESENT, level by level. -/
def diePresent (s : State) (d : Nat) : Bool := (s.reg bPackage .UD 4).toNat.testBit d
def regionPresent (s : State) (r : Nat) : Bool := s.diePresent (r / 3) && (s.reg (bDie (r / 3)) .UD 4).toNat.testBit (r % 3)
def clusterPresent (s : State) (n : Nat) : Bool :=
  s.regionPresent (n / 56) && (s.reg (bRegion (n / 56)) .UD 4).toNat.testBit (n % 56)
def tilePresent (s : State) (t : Nat) : Bool :=
  s.clusterPresent (t / 16) && (s.reg (bCluster (t / 16)) .UD 4).toNat.testBit (t % 16)

/-- The logical tile of a queue of a tile queue set (R481). -/
def queueTile (q : Nat) : Nat := q / 65536 * 2688 + q % 65536 / 4

/-- Queue k of a tile's set (R140, R481). -/
def tileQueue (t k : Nat) : Nat := t / 2688 * 65536 + 4 * (t % 2688) + k

/-- The consumer of a queue is present (R482). -/
def consumerPresent (s : State) (q : Nat) : Bool :=
  let c := s.queue q
  match c.kind with
  | 0 | 1 | 2 | 3 => s.tilePresent (queueTile q)
  | 4 => s.regionPresent (c.unit / 4)
  | 5 => if c.unit < 12 then s.regionPresent c.unit else true
  | 7 => s.diePresent (q / 65536)
  | 15 => false
  | _ => true

/-- A queue counter gains, saturating (R485). -/
def qClamp (s : State) (q : Nat) (n : Nat := 1) : State := s.modQueue q fun c => { c with clamps := satAdd c.clamps n }
def qRefuse (s : State) (q : Nat) : State := s.modQueue q fun c => { c with refused := satAdd c.refused 1 }

end State

/-- Slots taken by descriptors that have a sequence and have not been consumed. -/
def QueueCtx.fill (c : QueueCtx) : Nat := (c.prod - c.cons).toNat + c.writing.length
/-- The queue is full (R481). -/
def QueueCtx.full (c : QueueCtx) : Bool := c.fill == 2 ^ c.log2
/-- The slot of a sequence (R481). -/
def QueueCtx.slot (c : QueueCtx) (n : Nat) : Nat := c.base + 64 * (n % 2 ^ c.log2)

/-- A launch descriptor with its fields in force, and how many were clamped (R486, R612). -/
def clampLaunch (d : List Byte) : List Byte × Nat :=
  let d1 := if dbits d 0 3 = 0 then d else dset d 0 3 0
  let k1 := if dbits d 0 3 = 0 then 0 else 1
  if dbits d 86 1 = 1 ∧ counterMax < dbits d 64 22 then (dset d1 64 22 counterMax, k1 + 1) else (d1, k1)

/-- A launch descriptor read from its bytes (R486). -/
def launchOf (d : List Byte) : LaunchDesc :=
  ⟨BitVec.ofNat 52 (dbits d 0 52), dbits d 52 2, dbits d 54 7, dbits d 61 1 == 1,
    if dbits d 86 1 = 1 then some (dbits d 64 22) else none,
    [BitVec.ofNat 64 (dbits d 128 64), BitVec.ofNat 64 (dbits d 192 64), BitVec.ofNat 64 (dbits d 256 64), BitVec.ofNat 64 (dbits d 320 64)]⟩

/-- What an append comes to (R482). -/
inductive Appended where
  | taken (seq : Half)
  | refused
  | full
  deriving DecidableEq, Repr

namespace State

/-- An append to a queue (R482), by the host or not: it takes the sequence PROD, counted over those being written; it is refused; or the
queue is full and the state unchanged. -/
def append (s : State) (q : Nat) (d : List Byte) (host : Bool := false) : Appended × State :=
  let c := s.queue q
  if c.mode = 1 ∨ c.log2 = 0 ∨ ¬ s.consumerPresent q then (.refused, s.qRefuse q)
  else if c.full then (.full, s)
  else
    let (d, k) := if c.kind = 3 then clampLaunch d else (d, 0)
    let s := s.modQueue q fun c => { c with writing := c.writing ++ [(host, d)], clamps := satAdd c.clamps k }
    (.taken (c.prod + BitVec.ofNat 32 c.writing.length), s)

/-- The level source of a die: a firmware-consumed queue is not empty (R498, k = 9). -/
def fwQueueLevel (s : State) (d : Nat) : State :=
  let any := s.queues.any fun e => e.1 / 65536 == d && e.2.kind == 8 && e.2.prod != e.2.cons
  s.irqLevel (srcDie d 9) any

/-- PROD advances (R482), behind the marker of a capture in progress (R590). -/
def advanceProd (s : State) (q : Nat) (p : Half) : State :=
  let s := (s.markerFirst (capOfQueue q)).modQueue q fun c => { c with prod := p }
  if (s.queue q).kind = 8 then s.fwQueueLevel (q / 65536) else s

/-- An append by the host (R482): counted and marked where the queue is full. -/
def hostAppend (s : State) (q : Nat) (d : List Byte) : State :=
  match s.append q d true with
  | (.full, s) => s.modQueue q fun c => { c with overflow := satAdd c.overflow 1, ovf := true }
  | (_, s) => s

/-- A doorbell (R482): PROD moves to the value given, clamped to the slots free; a value behind PROD is clamped to PROD. -/
def doorbell (s : State) (q : Nat) (p : Half) : State :=
  let c := s.queue q
  if c.mode = 0 ∨ c.log2 = 0 ∨ ¬ s.consumerPresent q then s.qRefuse q
  else
    let a := (p - c.cons).toNat
    if a < (c.prod - c.cons).toNat then s.qClamp q
    else if 2 ^ c.log2 < a then (s.qClamp q).advanceProd q (c.cons + BitVec.ofNat 32 (2 ^ c.log2))
    else s.advanceProd q p

end State

/-- QUEUE_APPEND (R482): a tile or firmware append to a full queue waits, a host append is discarded, counted and marked; the host's
reaches the module while BAR0 decodes (R510). -/
def execQueueAppend (q : QueueId) (src : AppendSrc) (desc : BitVec 512) (s : State) : Host.Outcome State Fault Refusal :=
  .next (if src = .host then (if s.barsDecode then s.hostAppend q (leBytes 64 desc.toNat) else s)
    else (s.append q (leBytes 64 desc.toNat)).2)

/-- APPEND_ACCEPTED (R482): the oldest slot write is accepted and PROD advances. -/
def execAppendAccepted (q : QueueId) (s : State) : Host.Outcome State Fault Refusal :=
  .next (match (s.queue q).writing with
    | [] => s
    | d :: rest =>
      let c := s.queue q
      if !s.memRuns (c.slot c.prod.toNat) 64 then s
      else
        let s := s.setDevBytes (c.slot c.prod.toNat) d.2
        (s.modQueue q fun c => { c with writing := rest }).advanceProd q (c.prod + 1))

/-- HOST_DOORBELL (R482): PROD is set, clamped, or the doorbell is discarded; it reaches the module while BAR0 decodes (R510). -/
def execHostDoorbell (q : QueueId) (p : BitVec 32) (s : State) : Host.Outcome State Fault Refusal :=
  .next (if s.barsDecode then s.doorbell q p else s)

/-- The agent that reads the slots of a queue (R379, R380): its engine; 0xFFFFFFFF for a tile sequencer and firmware (log entry 91). -/
def State.queueAgent (s : State) (q : Nat) : Nat :=
  let u := (s.queue q).unit
  match (s.queue q).kind with
  | 0 => agentEngine 0 3 (queueTile q / 16)
  | 1 => agentEngine 1 3 (queueTile q / 16)
  | 2 => agentEngine 0 2 (queueTile q / 896)
  | 4 => agentEngine 0 6 (8 * (u / 4) + 2 + u % 4)
  | 5 => agentEngine 0 (bUpd u).k (bUpd u).i
  | 6 => agentEngine 0 0 1
  | 7 => agentEngine 1 1 (q / 65536)
  | _ => 0xFFFFFFFF

namespace State

/-! ### Changes that wait for a step boundary (R20, R37) -/

/-- The region of a queue's consumer: its tile's, its DMA engine's or its fast-tier update engine's. -/
def queueRegion (q kind unit : Nat) : Option Nat :=
  if q % 65536 < 10752 then some (regionOfTile (queueTile q))
  else if kind = 4 then some (unit / 4)
  else if kind = 5 ∧ unit < 12 then some unit
  else none

/-- The die of a queue's consumer: its region's, or that of a Lightway transmit engine. -/
def queueDie (q kind unit : Nat) : Option Nat :=
  if kind = 7 then some (q / 65536) else (queueRegion q kind unit).map dieOfRegion

/-- A change that waits for a step boundary concerns the consumer of a queue (R20, R37). -/
def concerns (q kind unit : Nat) : Due → Bool
  | .reseed .. => decide (kind ≤ 5)
  | .reflect _ r _ _ | .pin r => kind == 2 && regionOfTile (queueTile q) == r
  | .tile t => q % 65536 < 10752 && queueTile q == t
  | .absent p bit =>
    let child := p % 2 ^ 20
    match p / 2 ^ 20 with
    | 3 => q % 65536 < 10752 && child * 16 + bit == queueTile q
    | 2 => q % 65536 < 10752 && child * 56 + bit == clusterOfTile (queueTile q)
    | 1 => queueRegion q kind unit == some (child * 3 + bit)
    | _ => queueDie q kind unit == some bit

/-- The first step whose descriptors a waiting change holds: the one after the boundary at which it is applied. -/
def dueStep (s : State) : Due → Half
  | .reseed _ n _ => BitVec.ofNat 32 n
  | _ => BitVec.ofNat 32 (s.getF bHub Fld.FR_SEAL_LOCAL + 2)

/-- A descriptor waits for a step boundary: its step is past the boundary, on a unit that a waiting change concerns (R37); the descriptor is
the later item of an unordered pair (R28). The unit is a queue's consumer; a DMA engine's FIFO counts as one of its queues. -/
def heldAtBoundary (s : State) (q kind unit : Nat) (d : List Byte) : Bool :=
  s.job.due.any fun x => concerns q kind unit x && !seqBefore (BitVec.ofNat 32 (dStep d)) (s.dueStep x)

/-- The queue number under which `concerns` knows a DMA engine's FIFO, which is no hardware queue. -/
def fifoQueue : Nat := 65535

/-- The counter bank of a queue's consumer (R582); the transmit engines and firmware have none of their own, so the dispatcher's stands for
them. -/
def consumerBank (q kind unit : Nat) : Nat :=
  match kind with
  | 0 => 10752 + 2 * (queueTile q / 16)
  | 1 => 10753 + 2 * (queueTile q / 16)
  | 2 => bankEmb (regionOfTile (queueTile q))
  | 3 => queueTile q
  | 4 => 12096 + 8 * (unit / 4) + 2 + unit % 4
  | 5 => bankUpd unit
  | _ => bankHub

/-- The step of a descriptor is compared with the boundary of the changes that concern its consumer (R28, R37): once for a descriptor and a
change, as the later of the two arrives. -/
def meetDues (s : State) (q kind unit : Nat) (d : List Byte) (l : List Due) : State :=
  s.foldS (l.filter (concerns q kind unit)) fun s x => s.compared (consumerBank q kind unit) (s.dueStep x) (BitVec.ofNat 32 (dStep d))

/-- A change begins to wait for a step boundary (R37). -/
def addDue (s : State) (x : Due) : State :=
  let s := s.foldS s.queues fun s e => s.foldS e.2.taken fun s d => s.meetDues e.1 e.2.kind e.2.unit d.2 [x]
  let s := s.foldS s.ms.dma fun s e => s.foldS e.2.fifo fun s d => s.meetDues fifoQueue 4 e.1 d.2 [x]
  { s with job.due := s.job.due ++ [x] }

/-- No launch of a tile that is due for its spare is taken (R574). -/
def launchesStopped (s : State) (q : Nat) : Bool := (s.queue q).kind == 3 && s.job.due.contains (.tile (queueTile q))

end State

/-- QUEUE_DESCRIPTOR_TAKE (R484): the consumer takes its own copy of the descriptor at CONS, once the one it took before has
started (log entry 11), and CONS advances; a slot that fails its check reads as zeros and is recorded (R578). A descriptor of an
update queue holds its slot until its apply pass ends (R355), so CONS advances then. A tile that is due takes no launch (R574). -/
def execQueueDescriptorTake (q : QueueId) (s : State) : Host.Outcome State Fault Refusal :=
  let c := s.queue q
  let n := if c.kind = 5 then c.cons + BitVec.ofNat 32 c.running.length else c.cons
  .next (if c.prod = n ∨ ¬ c.taken.isEmpty ∨ s.launchesStopped q ∨ ¬ s.memRuns (c.slot n.toNat) 64 then s
    else
      let raw := s.devBytes (c.slot n.toNat) 64
      let (d, k) := if c.kind = 3 then clampLaunch raw else (raw, 0)
      let s := s.readBad (s.badIn (c.slot n.toNat) 64) (s.queueAgent q) n.toNat 0
      let s := s.modQueue q fun c => { c with
        cons := if c.kind = 5 then c.cons else c.cons + 1
        taken := [(n.toNat, d)], clamps := satAdd c.clamps k, marked := false }
      let s := s.meetDues q c.kind c.unit d s.job.due
      if c.kind = 8 then s.fwQueueLevel (q / 65536) else s)

end Sys2Proof.Machine
end

