-- ==== Sys2Proof/Machine/LwOps.lean ====
section
/-! DEFINITION. Lightway packets and routing (R436 to R449): the packets of each type, the port a packet leaves by. -/

namespace Sys2Proof.Machine

/-- A packet's fields: type, level, destination, source, type-specific header bits from bit 64 on, payload (R438). -/
structure Packet where
  typ : Nat
  level : Nat
  dst : Nat
  src : Nat
  spec : Nat
  payload : List Byte
  deriving DecidableEq, Repr

/-- The credit class of a type (R436). -/
def classOf (typ : Nat) : Nat := [0, 0, 1, 2, 3, 4].getD typ 4
/-- Classes whose buffers have two halves (R436). -/
def hasHalves (cls : Nat) : Bool := decide (cls ≤ 2)
/-- The flits of each class, per half where it has halves (R436). -/
def classFlits (cls : Nat) : Nat := [2048, 512, 256, 8192, 512].getD cls 0

def flitsOf (n : Nat) : Nat := max 1 ((n + 255) / 256)
def padFlits (n : Nat) (l : List Byte) : List Byte := l ++ List.replicate (n - l.length) 0

/-- The bytes of a packet in whole flits, header first (R438). -/
def Packet.encode (p : Packet) : List Byte :=
  let f := flitsOf (32 + p.payload.length)
  let h := p.typ % 16 + (f - 1) % 128 * 16 + p.level % 4 * 2 ^ 11 + p.dst % 2 ^ 16 * 2 ^ 16 + p.src % 2 ^ 16 * 2 ^ 32
    + p.spec % 2 ^ 192 * 2 ^ 64
  padFlits (256 * f) (leBytes 32 h ++ p.payload)

/-- A packet read from its bytes. -/
def Packet.decode (b : List Byte) : Packet :=
  let h := leNat (b.take 32)
  ⟨bitsOf h 0 4, bitsOf h 11 2, bitsOf h 16 16, bitsOf h 32 16, h / 2 ^ 64, b.drop 32⟩

/-- Type-specific bits [lo + w − 1 : lo] of the header. -/
def Packet.bits (p : Packet) (lo w : Nat) : Nat := bitsOf p.spec (lo - 64) w

/-- A discovery control packet (R431, R442, R453 to R455): IDENT, MAP_ID, TOKEN; those that name the ends of a port alone, which a port of
role 0 exchanges too (R454). -/
def Packet.discovery (p : Packet) : Bool := p.typ == 5 && decide (1 ≤ p.bits 64 8) && decide (p.bits 64 8 ≤ 3)
def Packet.naming (p : Packet) : Bool := p.discovery && p.bits 64 8 != 3

namespace State

def port (s : State) (p : Nat) : LwPort := Tbl.get (fun _ => LwPort.reset) s.lw.ports p
def modPort (s : State) (p : Nat) (f : LwPort → LwPort) : State :=
  { s with lw.ports := Tbl.put (fun _ => LwPort.reset) s.lw.ports p (f (s.port p)) }

def lwState (s : State) (p : Nat) : Nat := s.getF (bDie (p / 8)) Fld.LW_STATUS_STATE (p % 8)
/-- The control complex has started and the rails are up: stage 4 of start-up has ended (R554). -/
def started (s : State) : Bool :=
  s.rot.input && !s.pwr.tripped && decide (4 ≤ s.getF (bFn 6) Fld.BOOT_STATUS_STAGE) && decide (s.getF (bFn 6) Fld.BOOT_STATUS_STAGE ≤ 6)
/-- Nothing holds a port OFF: start-up has come to the ports, the port is enabled and has light, its die's rail is up, and the module is
neither in PARK nor on its way there (R431, R525, R554, R572). -/
def lwReady (s : State) (p : Nat) : Bool :=
  s.started && s.flag (bDie (p / 8)) Fld.LW_CTRL_EN (p % 8) && !(s.port p).dark && !s.pwr.parked && !s.pwr.dark.contains (684 + p / 8)
/-- UP or DEGRADED (R431). -/
def lwUp (s : State) (p : Nat) : Bool := s.lwState p == 4 || s.lwState p == 5
/-- The port carries control packets (R431). -/
def lwTalks (s : State) (p : Nat) : Bool := decide (3 ≤ s.lwState p) && decide (s.lwState p ≤ 6)
def lwCount (s : State) (p : Nat) (r : Reg) (n : Nat := 1) : State := s.count (bDie (p / 8)) r n (p % 8)

/-- This module's identifier (R461). -/
def selfModule (s : State) : Nat := s.getF bHub Fld.LW_ID_MODULE

/-- A position of a module at a level (R445). -/
def position (m : LwMap) (id level : Nat) : Nat := bitsOf (Tbl.get (fun _ => 0) m.pos id) (16 * level) 16
/-- The identifier names a module of the pod; a ring member. -/
def inPod (m : LwMap) (id : Nat) : Bool := bitsOf (Tbl.get (fun _ => 0) m.pos id) 49 1 == 1
def isMember (m : LwMap) (id : Nat) : Bool := bitsOf (Tbl.get (fun _ => 0) m.pos id) 48 1 == 1
/-- Role, level and peer of a port entry (R445). -/
def mapRole (m : LwMap) (p : Nat) : Nat := bitsOf (m.ports.getD p 0) 0 2
def mapLevel (m : LwMap) (p : Nat) : Nat := bitsOf (m.ports.getD p 0) 2 2
def mapPeer (m : LwMap) (p : Nat) : Nat := bitsOf (m.ports.getD p 0) 4 16
def mapPeerPort (m : LwMap) (p : Nat) : Nat := bitsOf (m.ports.getD p 0) 20 5

/-- The up ports that carry traffic in a role at a level (R431, R454). -/
def upPorts (s : State) (level role : Nat) : List Nat :=
  match s.lw.map with
  | none => []
  | some m => (upFrom 0 32).filter fun p =>
    s.lwUp p && (s.port p).matched && mapRole m p == role && mapLevel m p == level

/-- The next port in turn (R447). -/
def takeTurn (s : State) (key : Nat) (ps : List Nat) : Option (Nat × State) :=
  let last := Tbl.get (fun _ => 31) s.lw.turns key
  match (ps.filter (last < ·)) ++ ps with
  | [] => none
  | p :: _ => some (p, { s with lw.turns := Tbl.put (fun _ => 31) s.lw.turns key p })

/-- The level and side of a packet toward a module: 1 successor, 2 predecessor (R447). -/
def routeSide (m : LwMap) (dst : Nat) : Option (Nat × Nat) :=
  match [2, 1, 0].find? fun l => decide (l < m.levels) && position m m.module l != position m dst l with
  | none => none
  | some l =>
    let n := m.n.getD l 1
    let f := (position m dst l + n - position m m.module l) % n
    some (l, if f ≤ n - f then 1 else 2)

/-- The half after a hop (R447): B once the packet crosses the level's dateline, A at each change of level. -/
def hopHalf (m : LwMap) (level side half : Nat) (prevLevel : Option Nat) : Nat :=
  let p := position m m.module level
  let crosses := if side = 1 then p + 1 == m.n.getD level 1 else p == 0
  if crosses then 1 else if prevLevel = some level then half else 0

/-- A packet joins a port's list. -/
def portSend (s : State) (p : Nat) (half : Nat) (k : Packet) (desc : Option (Nat × Nat) := none) : State :=
  s.modPort p fun q => { q with tx := q.tx ++ [⟨classOf k.typ, if hasHalves (classOf k.typ) then half else 0, k.encode, 0, desc⟩] }

/-- The oldest packet of a class a port has received leaves its buffer, and its credits are returned (R436, R437). -/
def rxTake (s : State) (p cls : Nat) (want : Packet → Bool) : Option (Packet × State) :=
  match (s.port p).rxq.find? fun k => k.cls == cls with
  | none => none
  | some k =>
    let d := Packet.decode k.bytes
    if want d then
      some (d, s.modPort p fun q => { q with
        rxq := q.rxq.erase k
        owed := if k.half < 2 then Tbl.upd (fun _ => 0) q.owed (2 * k.cls + k.half) (· + k.bytes.length / 256) else q.owed })
    else none

/-- A write, read or signal packet leaves for a module (R443, R447): over a backup link where the module is the peer of one, else
along the rings; with no route it is dropped. `from_`: the half and level it arrived with, and its port. -/
def routePacket (s : State) (k : Packet) (came : Option (Nat × Nat × Nat)) (desc : Option (Nat × Nat) := none) : State :=
  let drop (s : State) : State := match came with
    | some (_, _, p) => s.lwCount p .LW_DROPPED
    | none => s
  match s.lw.map with
  | none => drop s
  | some m =>
    let direct := (upFrom 0 32).filter fun p => mapRole m p == 3 && mapPeer m p == k.dst && s.lwUp p && (s.port p).matched
    match came.isNone, direct with
    | true, d :: r => match s.takeTurn 6 (d :: r) with
      | some (p, s) => s.portSend p 0 k desc
      | none => s
    | _, _ =>
      if !isMember m k.dst || !isMember m m.module then drop s
      else
        match routeSide m k.dst with
        | none => drop s
        | some (l, side) =>
          match s.takeTurn (2 * l + side - 1) (s.upPorts l side) with
          | none => drop s
          | some (p, s) =>
            let half := match came with
              | none => hopHalf m l side 0 none
              | some (h, pl, _) => hopHalf m l side h (some pl)
            s.portSend p half k desc

/-- The member whose rings this module takes part in: itself, or the one it backs (R412). -/
def ownMember (s : State) : Nat :=
  match (s.job.rings.getD 0 []).find? fun e => e.2 == some s.selfModule with
  | some e => e.1
  | none => s.selfModule

/-- A module is a member of the job's rings (R383, R398): one that a ring of this module lists, a backup of its level-0 ring, or a member of the map in another ring of
the job, which is one with positions that differ from this module's at two levels or more, all of them below L (log entry 89). -/
def jobMember (s : State) (module : Nat) : Bool :=
  (s.job.rings.any fun r => r.any fun e => e.1 == module) || ((s.job.rings.getD 0 []).any fun e => e.2 == some module)
    || match s.lw.map with
      | none => false
      | some m =>
        let apart := (upFrom 0 3).filter fun l => position m module l != position m s.ownMember l
        isMember m module && decide (2 ≤ apart.length) && apart.all fun l => decide (l < s.getF bHub Fld.FR_STATUS_LEVELS)

/-- A remote signal is refused (R383, R399): no job is open, the level is not one of its levels, or the module is not a member of its
rings. -/
def signalRefused (s : State) (module level : Nat) : Bool :=
  s.job.phase == 0 || !decide (level < s.getF bHub Fld.FR_STATUS_LEVELS) || !s.jobMember module

/-- A signal packet leaves for a module (R161, R439); one addressed to this module is applied here. -/
def sendSignal (s : State) (module level seq c bytes : Nat) : State :=
  if s.lw.map.isSome && module == s.selfModule then s.remoteSignal module level seq c bytes
  else s.routePacket ⟨3, level, module, s.selfModule, seq % 2 ^ 32 + bytes % 2 ^ 32 * 2 ^ 32 + c * 2 ^ 118, []⟩ none

end State

end Sys2Proof.Machine
end

