-- ==== Sys2Proof/Machine/Accum.lean ====
section
/-! DEFINITION. Accumulator memory (04_accumulation.md, R110 to R130): entries and rows, the addition into a running sum, the
comparison of MAX and MIN, the row-state checks in issue order, clearing. -/

namespace Sys2Proof.Machine

/-! Modes are numbered as READOUT numbers them: 0 H, 1 S, 2 X, 3 MAX, 4 MIN. -/

/-- The entries of a mode (R111). -/
def accRange (mode : Nat) : Nat := [768, 384, 19, 192, 192].getD mode 0

/-- The rows of an entry (R112). -/
def accRows (mode i : Nat) : List Nat :=
  match mode with
  | 0 => [i / 2]
  | 1 => [i]
  | 2 => upFrom (20 * i) 20
  | _ => [2 * i, 2 * i + 1]

/-- The rows of entries i to i + n − 1. -/
def accRowsN (mode i n : Nat) : List Nat := (upFrom i n).flatMap (accRows mode)

/-- The arrays of a mask. -/
def maskArrays (mask : Nat) : List Nat := (upFrom 0 4).filter fun a => mask / 2 ^ a % 2 == 1

namespace State

/-- A word of an accumulator row; a 64-bit word that fails its check reads as zero (R578). -/
def accWord (s : State) (t row col : Nat) : Half :=
  if s.mem.badWords.contains (1, (t * 49152 + row * 128 + col) / 2) then 0
  else Tbl.get (fun _ => 0) s.tile.acc (t * 49152 + row * 128 + col)
def setAcc (s : State) (t row col : Nat) (v : Half) : State :=
  { s with tile.acc := Tbl.put (fun _ => 0) s.tile.acc (t * 49152 + row * 128 + col) v }
def accTag (s : State) (t row col : Nat) : Nat := Tbl.get (fun _ => 0) s.tile.tags (t * 49152 + row * 128 + col)
def setTag (s : State) (t row col v : Nat) : State :=
  { s with tile.tags := Tbl.put (fun _ => 0) s.tile.tags (t * 49152 + row * 128 + col) v }
def rowSt (s : State) (t row a : Nat) : RowState := Tbl.get (fun _ => RowState.clear) s.tile.rows (t * 1536 + row * 4 + a)
def setRow (s : State) (t row a : Nat) (v : RowState) : State :=
  { s with tile.rows := Tbl.put (fun _ => RowState.clear) s.tile.rows (t * 1536 + row * 4 + a) v }

/-- The 640-bit number of an X entry (R112). -/
def xWord (s : State) (t e col : Nat) : Nat :=
  (upFrom 0 20).foldl (fun n k => n + (s.accWord t (20 * e + k) col).toNat * 2 ^ (32 * k)) 0

/-- An X entry's number written to its 20 rows. -/
def setXWord (s : State) (t e col n : Nat) : State :=
  s.foldS (upFrom 0 20) fun s k => s.setAcc t (20 * e + k) col (BitVec.ofNat 32 (n / 2 ^ (32 * k)))

/-- The value of an entry in a column (R112, R113, R120): zero where its row is CLEAR or its half is not live. -/
def accValue (s : State) (t mode i col : Nat) : FV :=
  let a := col / 32
  match mode with
  | 0 =>
    let st := s.rowSt t (i / 2) a
    if (if i % 2 = 0 then st.lo else st.hi) then
      Fmt.fp16.decode (bitsOf (s.accWord t (i / 2) col).toNat (16 * (i % 2)) 16)
    else .fin false 0 0
  | 1 => if (s.rowSt t i a).code = 0 then .fin false 0 0 else f32 (s.accWord t i col)
  | 2 =>
    if (s.rowSt t (20 * i) a).code = 0 then .fin false 0 0
    else match s.accTag t (20 * i) col with
      | 1 => .inf false
      | 2 => .inf true
      | 3 => .nan false
      | _ => let z := toSigned 640 (s.xWord t i col); .fin (decide (z < 0)) z.natAbs (-300)
  | _ => if (s.rowSt t (2 * i) a).code = 0 then .fin false 0 0 else f32 (s.accWord t (2 * i) col)

/-- The winner index of a MAX or MIN entry; 0xFFFF_FFFF where it is CLEAR (R130). -/
def accIndex (s : State) (t i col : Nat) : Half :=
  if (s.rowSt t (2 * i) (col / 32)).code = 0 then 0xFFFFFFFF#32 else s.accWord t (2 * i + 1) col

/-- The 64-bit words of rows in columns [lo, lo + n) (R579: two columns to a word). -/
def rowWords (t : Nat) (rows : List Nat) (lo n : Nat) : List Nat :=
  rows.flatMap fun r => upFrom ((t * 49152 + r * 128 + lo) / 2) (n / 2)

/-- An entry's rows are about to be written in an array's columns, each row by one write, from what they read as: the words that failed their
check pass it from then on. A write of an H entry fills but half of each column and leaves them failing (R578; log entry 121). -/
def renewRows (s : State) (t mode i a : Nat) : State :=
  if mode = 0 ∨ s.mem.badWords.isEmpty then s
  else
    let ws := (rowWords t (accRows mode i) (32 * a) 32).filter fun w => s.mem.badWords.contains (1, w)
    (s.foldS ws fun s w => { s with tile.acc := Tbl.dropRange s.tile.acc (2 * w) (2 * w + 2) }).healWords 1 ws

/-- Entries i to i + n − 1 of the arrays of a mask are read by a thread: words of live rows that fail their check are recorded (R578). -/
def readEntries (s : State) (t mode i n mask ctx : Nat) : State :=
  if s.mem.badWords.isEmpty then s
  else
    let ws := (maskArrays mask).flatMap fun a =>
      rowWords t ((accRowsN mode i n).filter fun r => (s.rowSt t r a).code != 0) (32 * a) 32
    s.readBadStore t 1 ws (agentId (.thread t ctx 0))

/-- Words of a row set to zero in the 32 columns of an array. -/
def zeroRow (s : State) (t row a : Nat) : State :=
  ({ s with tile.acc := Tbl.dropRange s.tile.acc (t * 49152 + row * 128 + 32 * a) (t * 49152 + row * 128 + 32 * a + 32) }).healWords 1
    (rowWords t [row] (32 * a) 32)

/-- An accumulation opens its entry in an array (R114): rows that are CLEAR start from zero and take the mode's state; in H
mode the addressed half becomes live, from zero, and the other half is as it was. -/
def openEntry (s : State) (t mode i a : Nat) : State :=
  let s := s.renewRows t mode i a
  if mode = 0 then
    let st := s.rowSt t (i / 2) a
    let s := if st.code = 0 then s.zeroRow t (i / 2) a
      else if (if i % 2 = 0 then st.lo else st.hi) then s
      else s.foldS (upFrom (32 * a) 32) fun s col =>
        s.setAcc t (i / 2) col (BitVec.ofNat 32 (setBits (s.accWord t (i / 2) col).toNat (16 * (i % 2)) 16 0))
    s.setRow t (i / 2) a ⟨1, st.lo || i % 2 == 0, st.hi || i % 2 == 1⟩
  else s.foldS (accRows mode i) fun s r =>
    if (s.rowSt t r a).code = 0 then (s.zeroRow t r a).setRow t r a ⟨mode + 1, false, false⟩ else s

/-- AM_OVF or AM_NF_IN counts, and its sticky bit is set whenever it does (R133). -/
def amCount (s : State) (t : Nat) (r : Reg) (f : Fld) : State :=
  if s.counting (bTile t) r 0 then (s.count (bTile t) r).setFlag (bTile t) f true else s
def amOvf (s : State) (t : Nat) : State := s.amCount t .AM_OVF Fld.AM_STATUS_OVF_SEEN
def amNf (s : State) (t : Nat) : State := s.amCount t .AM_NF_IN Fld.AM_STATUS_NF_SEEN

/-- The stored form of a value in an entry of H, S or X mode. -/
def storeAcc (s : State) (t mode i col : Nat) (code : Nat) : State :=
  match mode with
  | 0 => s.setAcc t (i / 2) col (BitVec.ofNat 32 (setBits (s.accWord t (i / 2) col).toNat (16 * (i % 2)) 16 code))
  | _ => s.setAcc t i col (BitVec.ofNat 32 code)

/-- One addition into the running sum of an open entry with the value e before it (R116 to R120). -/
def addAcc (s : State) (t mode i col : Nat) (e g : FV) (d : Drawer) : State × Drawer :=
  let s := if g.isFin then s else s.amNf t
  let r := e.add g
  if mode = 2 then
    match e, g, r with
    | .fin .., .fin .., .fin neg m ex =>
      let z := sgn neg (m * 2 ^ (ex + 300).toNat)
      if -(2 ^ 639) ≤ z ∧ z < 2 ^ 639 then ((s.setXWord t i col (ofSigned 640 z)).setTag t (20 * i) col 0, d)
      else
        let s := s.foldS (upFrom 0 20) fun s k =>
          let (w, s) := s.freshWord
          s.setAcc t (20 * i + k) col (w.truncate 32)
        ((s.amOvf t).setTag t (20 * i) col (if neg then 2 else 1), d)
    | _, _, .inf neg => (s.setTag t (20 * i) col (if neg then 2 else 1), d)
    | _, _, .nan _ => (s.setTag t (20 * i) col 3, d)
    | _, _, .fin .. => (s, d)
  else
    let f := if mode = 0 then Fmt.fp16 else Fmt.fp32
    match e, g with
    | .fin .., .fin .. =>
      let (rnd, d) := d.take
      let code := f.encode r rnd
      let s := if code % 2 ^ (f.eb + f.mb) = f.infCode then s.amOvf t else s
      (s.storeAcc t mode i col code, d)
    | _, _ => (s.storeAcc t mode i col (f.encode r .near), d)

/-- The group sums of one result added in order into an open entry's column (R82). -/
def addGroups (s : State) (t mode i col : Nat) (gs : List FV) (d : Drawer) : State × Drawer :=
  match gs with
  | [] => (s, d)
  | g :: rest =>
    let (s, d) := s.addAcc t mode i col (s.accValue t mode i col) g d
    s.addGroups t mode i col rest d

end State

/-- The comparison of R129: (v, j) takes over from (u, i); `min` asks for the smaller value. -/
def takesOver (min : Bool) (v : Half) (j : Nat) (u : Half) (i : Nat) : Bool :=
  let a := f32 v
  let b := f32 u
  if a.isNaN then (if b.isNaN then decide (j < i) else true)
  else if b.isNaN then false
  else (if min then a.lt b else b.lt a) || (!a.lt b && !b.lt a && decide (j < i))

namespace State

/-- One lane into a MAX or MIN entry (R129). -/
def maxAcc (s : State) (t mode i col : Nat) (v : Half) (j : Half) : State :=
  let a := col / 32
  let clear := (s.rowSt t (2 * i) a).code == 0
  if clear || takesOver (mode == 4) v j.toNat (s.accWord t (2 * i) col) (s.accWord t (2 * i + 1) col).toNat then
    let v := if (f32 v).isNaN then 0x7FC00000#32 else v
    (s.setAcc t (2 * i) col v).setAcc t (2 * i + 1) col j
  else s

/-- A row of an array returns to CLEAR with its tags finite (R115). -/
def clearRow (s : State) (t row a : Nat) : State :=
  let s := s.setRow t row a RowState.clear
  { s with tile.tags := Tbl.dropRange s.tile.tags (t * 49152 + row * 128 + 32 * a) (t * 49152 + row * 128 + 32 * a + 32) }

/-- An entry read with the clear flag: its rows return to CLEAR; an H row when both its halves are cleared (R115). -/
def clearEntry (s : State) (t mode i a : Nat) : State :=
  if mode = 0 then
    let st := s.rowSt t (i / 2) a
    let st' : RowState := if i % 2 = 0 then { st with lo := false } else { st with hi := false }
    if st'.lo || st'.hi then s.setRow t (i / 2) a st' else s.clearRow t (i / 2) a
  else s.foldS (accRows mode i) fun s r => s.clearRow t r a

/-- Every row of a tile returns to CLEAR (R115). -/
def clearAllRows (s : State) (t : Nat) : State :=
  { s with
    tile.rows := Tbl.dropRange s.tile.rows (t * 1536) (t * 1536 + 1536)
    tile.tags := Tbl.dropRange s.tile.tags (t * 49152) (t * 49152 + 49152) }

end State

/-! ### Row states in issue order (R114, R126) -/

/-- The accumulator entries an outstanding instruction writes or reads: mode, first entry, number, mask. -/
def opAcc : OpKind → Option (Nat × Nat × Nat × Nat)
  | .mma _ _ mask mode _ _ _ join _ index m _ _ => some (mode, index, m, if join then 1 else mask)
  | .readout mode index count mask _ _ _ _ _ _ _ _ _ _ => some (mode, index, count, mask)
  | .vacc op half entry _ _ _ => some (if op = 0 then 1 else op + 2, entry, 1, if half = 0 then 3 else 12)
  | _ => none

/-- The instruction is a readout. -/
def isReadout : OpKind → Bool | .readout .. => true | _ => false
/-- A readout with the clear flag. -/
def isClearing : OpKind → Bool | .readout _ _ _ _ _ _ _ c _ _ _ _ _ _ => c | _ => false

/-- What an instruction makes of a row's state. -/
def stepRow (k : OpKind) (row a : Nat) (st : RowState) : RowState :=
  match opAcc k with
  | none => st
  | some (mode, i, n, mask) =>
    if mask / 2 ^ a % 2 = 1 ∧ (accRowsN mode i n).contains row then
      if mode = 0 then
        let es := (upFrom i n).filter fun e => e / 2 == row
        let lo := es.any fun e => e % 2 == 0
        let hi := es.any fun e => e % 2 == 1
        if isReadout k then
          if isClearing k then
            let st' : RowState := { st with lo := st.lo && !lo, hi := st.hi && !hi }
            if st'.lo || st'.hi then st' else RowState.clear
          else st
        else ⟨1, st.lo || lo, st.hi || hi⟩
      else if isReadout k then (if isClearing k then RowState.clear else st)
      else ⟨mode + 1, false, false⟩
    else st

/-- A row's state after every outstanding instruction, in issue order, with the latest waiting CLEAR_ALL at its place. -/
def State.issueRow (s : State) (t row a : Nat) : RowState :=
  let tl := s.tileOf t
  let run (st : RowState) (ops : List TileOp) : RowState := ops.foldl (fun st o => stepRow o.kind row a st) st
  match tl.clearMarks.getLast? with
  | none => run (s.rowSt t row a) tl.ops
  | some m => run RowState.clear (tl.ops.filter fun o => m ≤ o.id)

/-- The check of R114 at issue over entries i to i + n − 1 of the arrays of a mask. -/
def State.rowsOk (s : State) (t mode i n mask : Nat) : Bool :=
  (maskArrays mask).all fun a => (upFrom i n).all fun e =>
    let cs := (accRows mode e).map fun r => (s.issueRow t r a).code
    if mode = 2 then cs.all (· == 0) || cs.all (· == 3) else cs.all fun c => c == 0 || c == mode + 1

/-- The index bound of R112. -/
def accBound (mode i n : Nat) : Bool := i + n ≤ accRange mode

/-- Two instructions touch a common row of a common array. -/
def accMeet (a b : OpKind) : Bool :=
  match opAcc a, opAcc b with
  | some (ma, ia, na, ka), some (mb, ib, nb, kb) =>
    (maskArrays ka).any (fun x => (maskArrays kb).contains x)
      && (accRowsN ma ia na).any fun r => (accRowsN mb ib nb).contains r
  | _, _ => false

/-- No earlier instruction still touches the rows of this one, one of them a readout (R126), and no CLEAR_ALL stands between (R132). -/
def State.accReady (s : State) (t : Nat) (o : TileOp) : Bool :=
  let tl := s.tileOf t
  (tl.ops.all fun p => !(p.id < o.id && (isReadout p.kind || isReadout o.kind) && accMeet p.kind o.kind))
    && (match tl.clearMarks with | [] => true | m :: _ => o.id < m)

end Sys2Proof.Machine
end

