-- ==== Sys2Proof/Machine/Thread.lean ====
section
/-! DEFINITION. Threads and issue (05_tile_sequencer.md, R136 to R147, R164): the registers an instruction touches, when a
context can issue, the guard, thread faults, the lease, outstanding instructions, starting a context; and queue segments
(R32, R485). -/

namespace Sys2Proof.Machine

/-! Register codes: 0 to 31 scalar, 32 to 39 predicates, 40 to 55 vector (R141). -/

/-- Every register an instruction reads or writes, its guard among them (R141): a register that its form does not use (rs1 + 1 of a READOUT
to a wide format, the tensor scale of a wide VCVT or VLDC, the indices of an ADD, rs2 beside an immediate) is not among them. -/
def instrRegs (i : Instr) : List Nat :=
  let g (h : Hdr) (l : List Nat) : List Nat := (32 + h.pred.toNat) :: l
  let v (r : BitVec 4) : Nat := 40 + r.toNat
  match i with
  | .nop h _ | .halt h _ | .fence h _ | .br h _ | .vrelease h _ | .vlease h _ => g h []
  | .add h o | .sub h o | .mul h o | .and h o | .or h o | .xor h o | .shl h o | .shr h o | .sra h o =>
    g h [o.rd.toNat, o.rs1.toNat, o.rs2.toNat]
  | .addi h o | .shli h o | .shri h o | .srai h o | .spawn h o => g h [o.rd.toNat, o.rs1.toNat]
  | .movi h o | .movhi h o | .call h o | .rdtime h o | .rdid h o => g h [o.rd.toNat]
  | .cmp h o => g h [o.rs1.toNat, o.rs2.toNat, 32 + o.pd.toNat]
  | .cmpi h o => g h [o.rs1.toNat, 32 + o.pd.toNat]
  | .plog h o => g h [32 + o.rs1.toNat, 32 + o.rs2.toNat, 32 + o.pd.toNat]
  | .jr h o => g h [o.rs1.toNat]
  | .wload h o => g h [o.rs1.toNat, o.rs2.toNat]
  | .mma h o => g h [o.rs1.toNat, o.rs2.toNat]
  | .readout h o =>
    g h ([o.rs1.toNat, o.rs2.toNat, o.rs2.toNat + 1] ++ (if fmtIsMX o.target.toNat then [o.rs1.toNat + 1] else [])
      ++ if o.dest = 0 then [o.rd.toNat]
        else upFrom (40 + o.rd.toNat % 16) ((if o.mode.toNat < 3 then 2 else 4) * (o.countMinus1.toNat + 1)))
  | .vadd h o | .vsub h o | .vmul h o | .vmax h o | .vmin h o => g h [v o.vd, v o.va, v o.vb]
  | .vfma h o => g h [v o.vd, v o.va, v o.vb, v o.vc]
  | .vrsqrt h o | .vrcp h o | .vexp2 h o | .vlog2 h o => g h [v o.vd, v o.va]
  | .vbcast h o | .vidx h o => g h [v o.vd, o.rs1.toNat]
  | .vsum h o | .vmaxr h o => g h [v o.va, o.rs2.toNat]
  | .vcvt h o => g h ([v o.va, o.rs1.toNat] ++ if fmtIsMX o.fmt.toNat then [o.rs2.toNat] else [])
  | .vldc h o => g h ([v o.vd, o.rs1.toNat] ++ if fmtIsMX o.fmt.toNat then [o.rs2.toNat] else [])
  | .vacc h o => g h (v o.va :: if o.imm.toNat / 2 ^ 10 % 4 = 0 then [] else [v o.vb])
  | .ld h o | .st h o | .dma h o => g h [o.rd.toNat, o.rs1.toNat]
  | .vld h o | .vst h o => g h [o.rs1.toNat, v o.vd]
  | .sadd h o | .ssub h o | .swait h o => g h ([o.rd.toNat, o.rs1.toNat] ++ if o.useImm = 1 then [] else [o.rs2.toNat])
  | .ssignal h o => g h [o.rd.toNat, o.rs1.toNat, o.rs2.toNat]
  | .sread h o => g h [o.rd.toNat, o.rs1.toNat]
  | .smpl h o | .gath h o | .scat h o | .embd h o => g h [o.rd.toNat, o.rs1.toNat]
  | .qpost h o => g h [o.rd.toNat, o.rs1.toNat, o.rs2.toNat]
  | _ => []

/-- The instruction uses vector registers or the vector unit (R146). -/
def usesVector : OpKind → Bool
  | .vecLanes .. | .vecScalar .. | .vacc .. | .vcvt .. | .vldc .. | .vld .. | .vst .. => true
  | .readout _ _ _ _ _ _ _ _ toVec _ _ _ _ _ => toVec
  | _ => false

/-- The instruction posts a descriptor to a queue or a DMA engine; `started` tells of a post that it has met a full one. -/
def isPost : OpKind → Bool
  | .post .. | .postDma .. => true
  | _ => false

namespace State

/-- The outstanding instructions of a context. -/
def opsOf (s : State) (t c : Nat) : List TileOp := (s.tileOf t).ops.filter fun o => o.ctx == c
/-- The context has a pending write to one of the registers (R141). -/
def pendingWrite (s : State) (t c : Nat) (regs : List Nat) : Bool :=
  (s.opsOf t c).any fun o => o.dst.any fun r => regs.contains r

/-- A post of the thread has met a full queue and no slot has come free for it: WAIT with cause 7 (R163, R328). -/
def slotWait (s : State) (t c : Nat) : Bool := (s.opsOf t c).any fun o => o.started && isPost o.kind

/-- The context can issue an instruction that touches these registers: READY under R141, with issue not halted (R145), no
zero-fill in progress (R182) and its cluster's island admitting work (R521, R523). -/
def canIssue (s : State) (t c : Nat) (regs : List Nat) : Bool :=
  (s.thr t c).run == .running && (s.thr t c).hold == 0 && !s.flag (bTile t) Fld.SEQ_CTRL_HALT_ISSUE
    && !s.flag (bTile t) Fld.BANK_STATUS_CLEARING && decide ((s.opsOf t c).length < 8) && !s.pendingWrite t c regs
    && !s.slotWait t c && s.takesWork (clusterOfTile t)

/-- The guard of R149. -/
def guard (s : State) (h : Hdr) : Bool := s.p h.tile h.ctx h.pred.toNat != h.neg

/-- The lease passes on (R146): the release has taken effect and the first waiter, if any, holds it and leaves WAIT. -/
def leaseHandover (s : State) (t : Nat) : State :=
  let tl := s.tileOf t
  match tl.leaseWait with
  | [] => s.setTile t { tl with lease := none, releasing := false }
  | c :: r => (s.setTile t { tl with lease := some c, releasing := false, leaseWait := r }).modThr t c fun th => { th with hold := 0 }

/-- The holder's outstanding vector instructions have completed (R146). -/
def leaseDrained (s : State) (t c : Nat) : Bool := (s.opsOf t c).all fun o => !usesVector o.kind

/-- A thread gives up the lease it holds: at once where no vector instruction of its is outstanding, else the release waits. -/
def leaseRelease (s : State) (t c : Nat) : State :=
  let tl := s.tileOf t
  if tl.lease = some c ∧ ¬ tl.releasing then
    if s.leaseDrained t c then s.leaseHandover t else s.setTile t { tl with releasing := true }
  else s

/-- The thread holds the lease for issue (R146). -/
def holdsLease (s : State) (t c : Nat) : Bool := (s.tileOf t).lease == some c && !(s.tileOf t).releasing

/-- The thread that faulted has nothing outstanding (R164): the lease passes on, the context is FAULTED, SEQ_FAULTS counts, the event
is raised. -/
def enterFaulted (s : State) (t c : Nat) : State :=
  let s := (s.modThr t c fun th => { th with run := .faulted }).leaseRelease t c
  let s := (s.count (bTile t) .SEQ_FAULTS).irq (srcCluster (clusterOfTile t) 0)
  s.event 0x0002 (udTile t) ((s.thr t c).fault + c * 2 ^ 64 + (s.thr t c).pc.toNat * 2 ^ 128)

/-- A thread fault (R164): the thread issues nothing further and enters FAULTED once its outstanding instructions have completed, at
once where there are none; AM_STATUS.STATE_FAULT marks those of R112 and R114 (R133). -/
def threadFault (s : State) (t c code : Nat) : State :=
  let s := if code = 2 then s.setFlag (bTile t) Fld.AM_STATUS_STATE_FAULT true else s
  let s := s.modThr t c fun th => { th with run := .faulting, fault := code, hold := 0 }
  if (s.opsOf t c).isEmpty then s.enterFaulted t c else s

/-- A context has issued in a slot: the slot is counted, the context is the last to have issued (R142, R172). -/
def slotTaken (s : State) (t c : Nat) : State :=
  let s := s.modThr t c fun th => { th with passed := 0 }
  let s := s.modTile t fun tl => { tl with last := tl.last.set (s.thr t c).prio c, lastAny := c }
  (s.count (bTile t) .SEQ_ISSUED).workItem t

/-- An instruction has issued and the program counter advances. -/
def issued (s : State) (t c : Nat) : State := (s.modThr t c fun th => { th with pc := th.pc + 8 }).slotTaken t c

/-- An instruction has issued and faults (R164, R165): it counts as issued (log entry 30), and the program counter stays at it. -/
def issueFault (s : State) (t c code : Nat) : State := (s.slotTaken t c).threadFault t c code

end State

/-- The lowest-numbered cause that holds (R164). -/
def firstFault : List (Nat × Bool) → Option Nat
  | [] => none
  | (k, b) :: r =>
    match firstFault r with
    | none => if b then some k else none
    | some j => if b then some (min k j) else some j

namespace State

/-- A context issues an instruction (R141, R150, R164): decode causes first, then the guard, then the other causes, then the
effect on the state with the program counter moved on. A context that cannot issue it leaves the state as it is. -/
def issue (s : State) (i : Instr) (h : Hdr) (reserved : Bool) (faults : List (Nat × Bool)) (eff : State → State) : State :=
  if s.canIssue h.tile h.ctx (instrRegs i) then
    if i.reserved || reserved then s.issueFault h.tile h.ctx 1
    else if s.guard h then
      match firstFault faults with
      | some k => s.issueFault h.tile h.ctx k
      | none => eff (s.issued h.tile h.ctx)
    else s.issued h.tile h.ctx
  else s

/-- An outstanding instruction enters its unit's list. -/
def push (s : State) (t c : Nat) (dst : List Nat) (k : OpKind) : State :=
  s.modTile t fun tl =>
    { tl with nextId := tl.nextId + 1, ops := tl.ops ++ [⟨tl.nextId, c, dst.filter fun r => r != 0 && r != 32, k, false, 0⟩] }

/-- An outstanding instruction by its number, which may go on while its cluster's island is ON (R521). -/
def op? (s : State) (t id : Nat) : Option TileOp :=
  if s.runs (clusterOfTile t) then (s.tileOf t).ops.find? fun o => o.id == id else none

/-- An outstanding instruction changed. -/
def modOp (s : State) (t id : Nat) (f : TileOp → TileOp) : State :=
  s.modTile t fun tl => { tl with ops := tl.ops.map fun o => if o.id = id then f o else o }

/-- Waiting CLEAR_ALLs are carried out, oldest first, as far as the accesses issued before them have completed (R132). -/
def settleMarks (s : State) (t : Nat) : List Nat → State
  | [] => s.modTile t fun tl => { tl with clearMarks := [] }
  | m :: r =>
    if (s.tileOf t).ops.any fun o => o.id < m && (opAcc o.kind).isSome then s.modTile t fun tl => { tl with clearMarks := m :: r }
    else (s.clearAllRows t).settleMarks t r

def settleClear (s : State) (t : Nat) : State :=
  match (s.tileOf t).clearMarks with
  | [] => s
  | l => s.settleMarks t l

/-- An instruction completes: it leaves the list, a FENCE whose instructions are all complete ends its wait (R151), a thread
fault that waited for it is taken (R164), a waiting CLEAR_ALL may be carried out. -/
def finish (s : State) (t : Nat) (o : TileOp) : State :=
  let s := s.modTile t fun tl => { tl with ops := tl.ops.filter fun p => p.id != o.id }
  let s := if (s.thr t o.ctx).hold = 8 ∧ (s.opsOf t o.ctx).isEmpty then s.modThr t o.ctx fun th => { th with hold := 0 } else s
  let s := if (s.thr t o.ctx).run = .faulting ∧ (s.opsOf t o.ctx).isEmpty then s.enterFaulted t o.ctx else s
  s.settleClear t

/-- The lowest-numbered FREE context (R138). -/
def freeCtx (s : State) (t : Nat) : Option Nat := (upFrom 0 128).find? fun c => (s.thr t c).run == .free

/-- A context started (R138): registers zero but those given from x1 on, predicates clear but p0, pin flag clear; the address of its last
HALT is kept for when it is FREE again (R171). -/
def startThr (s : State) (t c : Nat) (pc : BitVec 52) (prio : Nat) (xs : List Word) (launched : Bool) (done : Option Nat) : State :=
  let k := (t * 128 + c) * 32
  let s := { s with tile.xreg := Tbl.dropRange s.tile.xreg k (k + 32) }
  let s := s.setThr t c { Thread.reset with run := .running, prio := prio, pc := pc, launched := launched, done := done, halted := (s.thr t c).halted }
  (s.foldS ((upFrom 1 xs.length).zip xs) fun s e => s.setX t c e.1 e.2)

/-! ### Queue segments and the operating point of a cluster island (R31, R32, R485) -/

/-- Every queue whose segments a cluster island can hold: sampler, gather/scatter and launch queues of its tiles. -/
def clusterQueues (n : Nat) : List Nat :=
  (upFrom 0 16).flatMap fun t => [tileQueue (16 * n + t) 0, tileQueue (16 * n + t) 1, tileQueue (16 * n + t) 3]

/-- The operating-point entry of a phase (R527). -/
def phaseEntry (s : State) (p : Nat) : Nat := bitsOf (s.reg (bFn 5) .PM_PHASEMAP).toNat (4 * p) 4
/-- The core target voltage of an entry (R526). -/
def entryMv (s : State) (e : Nat) : Nat := s.getF (bFn 5) Fld.PM_OPP_VCORE_MV e

/-- The phases of a queue's segments that are in the island (R485), and of a marked descriptor about to start whose operating point has
been applied (R31). -/
def phasesIn (c : QueueCtx) : List Nat :=
  ((if c.inIsland then c.segs else c.segs.dropLast).map fun g => g.2.1)
    ++ if c.marked then (c.taken.take 1).map fun e => dPhase e.2 else []

/-- The entry with the higher target among those of the phases in a cluster island; IDLE's where it holds none (R32). -/
def clusterEntry (s : State) (n : Nat) : Nat :=
  match ((clusterQueues n).flatMap fun q => phasesIn (s.queue q)).map s.phaseEntry with
  | [] => s.phaseEntry 0
  | e :: r => r.foldl (fun b e => if s.entryMv b < s.entryMv e then e else b) e

/-- An island moves to an entry (R527, R529): the entry is in force. A ramp toward its voltage begins where the island is ON, its
voltage differs and no droop hold is in force; one in progress goes on toward the new target. -/
def setEntry (s : State) (b : Blk) (e : Nat) : State :=
  let s := s.setF b Fld.ISL_STATUS_OPP e
  s.setFlag b Fld.ISL_STATUS_RAMPING (s.flag b Fld.ISL_STATUS_RAMPING
    || (s.getF b Fld.ISL_STATUS_VCORE_MV != s.entryMv e && !s.flag b Fld.ISL_STATUS_DROOP_HOLD && s.getF b Fld.ISL_STATUS_STATE == 0))

/-- A cluster island takes the operating point its segments ask for. -/
def retarget (s : State) (n : Nat) : State := s.setEntry (bCluster n) (s.clusterEntry n)

/-- The cluster whose island holds a queue's segments, if any. -/
def queueCluster (q : Nat) : Option Nat :=
  if q % 65536 < 10752 ∧ q % 4 ≠ 2 then some (queueTile q / 16) else none

/-- The last segment of a list changed. -/
def lastSeg (l : List (Nat × Nat × Nat)) (f : Nat × Nat × Nat → Nat × Nat × Nat) : List (Nat × Nat × Nat) :=
  match l.reverse with
  | [] => []
  | g :: r => (f g :: r).reverse

/-- A descriptor of a queue starts: its segment, or the one it opens, is in the island (R485). -/
def descStart (s : State) (q n : Nat) (d : List Byte) : State :=
  let s := s.modQueue q fun c =>
    { c with taken := [], running := c.running ++ [(n, d)], marked := false, inIsland := true,
             segs := if dMark d then (if c.inIsland then c.segs else c.segs.dropLast) ++ [(n, dPhase d, 1)]
                     else lastSeg c.segs fun g => (g.1, g.2.1, g.2.2 + 1) }
  match queueCluster q with
  | none => s
  | some n => s.retarget n

/-- The position of the segment a sequence belongs to: the last one that does not begin after it. -/
def segOf (l : List (Nat × Nat × Nat)) (n : Nat) : Nat :=
  ((upFrom 0 l.length).filter fun i => i == 0 || !seqBefore (BitVec.ofNat 32 n) (BitVec.ofNat 32 (l.getD i (0, 0, 0)).1)).getLastD 0

/-- A descriptor of a queue completes: its segment leaves where it was the last one taken while the queue is empty or its next
descriptor is marked (R485), and the island moves (R32). -/
def descDone (s : State) (q n : Nat) : State :=
  let s := if (s.queue q).kind = 5 then s.modQueue q fun c => { c with cons := c.cons + 1 } else s
  let c := s.queue q
  let i := segOf c.segs n
  let g := c.segs.getD i (0, 7, 0)
  let last := i + 1 == c.segs.length
  let segs := if !last && g.2.2 ≤ 1 then c.segs.eraseIdx i else c.segs.set i (g.1, g.2.1, g.2.2 - 1)
  let at_ := if c.kind = 5 then c.cons + BitVec.ofNat 32 (c.running.length - 1) else c.cons
  let marked := match c.taken with
    | e :: _ => dMark e.2
    | [] => c.prod == at_ || dMark (s.devBytes (c.slot at_.toNat) 64)
  let leaves := last && g.2.2 ≤ 1 && marked
  let s := s.modQueue q fun c =>
    { c with running := c.running.filter fun e => e.1 != n, segs := segs, inIsland := c.inIsland && !leaves }
  match queueCluster q with
  | none => s
  | some n => s.retarget n

/-- The island of a queue's consumer admits descriptors (R523): a cluster's, a region controller's, a die fabric's, or the control complex
(R522). A slow-tier engine and the exchange have no island of their own. -/
def consumerOn (s : State) (q : Nat) : Bool :=
  let c := s.queue q
  match c.kind with
  | 2 => s.takesWork (672 + regionOfTile (queueTile q))
  | 4 => s.takesWork (672 + c.unit / 4)
  | 5 => decide (12 ≤ c.unit) || s.takesWork (672 + c.unit)
  | 7 => s.takesWork (684 + q / 65536)
  | 8 => s.pwr.cc == 0
  | _ => match queueCluster q with
    | some n => s.takesWork n
    | none => true

/-- The descriptor a queue's consumer has taken and may start: a marked one only after its operating point is applied (R31), one past
a step boundary only after the changes that concern its unit (R37), none while the consumer's island admits nothing (R523). -/
def startable (s : State) (q : Nat) : Option (Nat × List Byte) :=
  match (s.queue q).taken with
  | [] => none
  | (n, d) :: _ => if (dMark d && !(s.queue q).marked) || s.heldAtBoundary q (s.queue q).kind (s.queue q).unit d || !s.consumerOn q then none else some (n, d)

end State

end Sys2Proof.Machine
end

