-- ==== Sys2Proof/Machine/Banks.lean ====
section
/-! DEFINITION. Scratch banks (06_tile_memory.md, R173 to R187): who may access a bank, handovers, the counts of waits. -/

namespace Sys2Proof.Machine

/-- Scratch bytes a to a + n − 1 lie in the scratch address range (R159). -/
def inScratch (a n : Nat) : Bool := decide (a + n ≤ 0x40000)

/-- An access of the feeder or the vector unit: inside scratch, and within one bank where its data is unaligned (R159, R179). -/
def rotateOk (a n : Nat) : Bool := inScratch a n && (a % 64 == 0 || a / 0x10000 == (a + n - 1) / 0x10000)

/-- The banks of a byte range. -/
def banksOf (a n : Nat) : List Nat := (upFrom 0 4).filter fun k => decide (a < (k + 1) * 0x10000) && decide (k * 0x10000 < a + n)

/-- The parts of a byte range in each bank that it meets: bank, address, size. -/
def bankParts (a n : Nat) : List (Nat × Nat × Nat) :=
  (upFrom 0 4).filterMap fun k =>
    let lo := max a (k * 0x10000)
    let hi := min (a + n) ((k + 1) * 0x10000)
    if lo < hi then some (k, lo, hi - lo) else none

/-- The next multiple of 64 at or after an address. -/
def align64 (a : Nat) : Nat := (a + 63) / 64 * 64

namespace State

/-- Work a bank's old owner accepted before a pending handover (R176). -/
def drainsOf (s : State) (t k : Nat) : List Token := Tbl.get (fun _ => []) s.tile.drains (t * 4 + k)
def setDrains (s : State) (t k : Nat) (l : List Token) : State :=
  { s with tile.drains := Tbl.put (fun _ => []) s.tile.drains (t * 4 + k) l }

/-- A bank serves an access of a master, of a thread where the sequencer is the owner, that belongs to some work (R175,
R176). -/
def bankServes (s : State) (t k master ctx : Nat) (work : Token) : Bool :=
  s.getF (bTile t) Fld.BANK_OWN_CUR_OWNER k == master
    && (master != 0 || !s.flag (bTile t) Fld.BANK_OWN_CUR_THREAD_EN k || s.getF (bTile t) Fld.BANK_OWN_CUR_THREAD k == ctx)
    && (!s.flag (bTile t) Fld.BANK_OWN_PENDING k || (s.drainsOf t k).contains work)
    && !s.flag (bTile t) Fld.BANK_STATUS_CLEARING

/-- Every bank of a byte range serves the access. -/
def banksServe (s : State) (t a n master ctx : Nat) (work : Token) : Bool :=
  (banksOf a n).all fun k => s.bankServes t k master ctx work

/-- Beats a master's accesses waited (R180); they feed the stall causes of the counter bank of the engine that waited, where it has one
(R587). -/
def bankWaits (s : State) (t master own port : Nat) (bank : Option Nat) : State :=
  let s := (s.count (bTile t) .BANK_WAIT_OWN own master).count (bTile t) .BANK_WAIT_PORT port master
  match bank with
  | some b => (s.bankCount b 3 own).bankCount b 4 port
  | none => s

/-- Failing scratch words that a tile instruction's reads of byte ranges meet are recorded (R578, log entry 99). -/
def opBad (s : State) (t : Nat) (o : TileOp) (rs : List (Nat × Nat)) : State :=
  s.readBadWords t (s.badWords t fun lo hi => rs.any fun r => decide (lo < r.1 + r.2) && decide (r.1 < hi))
    (agentId (.thread t o.ctx 0)) 0 0

/-- The new owner takes the bank (R176). -/
def handover (s : State) (t k : Nat) : State :=
  let o := s.getF (bTile t) Fld.BANK_OWN_OWNER k
  let s := s.setF (bTile t) Fld.BANK_OWN_CUR_OWNER o k
  let s := s.setF (bTile t) Fld.BANK_OWN_CUR_THREAD_EN (s.getF (bTile t) Fld.BANK_OWN_THREAD_EN k) k
  let s := s.setF (bTile t) Fld.BANK_OWN_CUR_THREAD (s.getF (bTile t) Fld.BANK_OWN_THREAD k) k
  (s.setFlag (bTile t) Fld.BANK_OWN_PENDING false k).setDrains t k []

end State

/-- The scratch byte ranges an outstanding tile instruction accesses, and the master it accesses them as (R174). -/
def opRanges : OpKind → Nat × List (Nat × Nat)
  | .vcvt a f _ _ _ _ => (2, [(a, 8 * fmtBits f + if fmtIsMX f then 2 else 0)])
  | .vldc a f _ _ _ => (2, [(a, 8 * fmtBits f + if fmtIsMX f then 2 else 0)])
  | .ld a n _ _ => (0, [(a, n)])
  | .st a n _ => (0, [(a, n)])
  | .vld a _ => (0, [(a, 256)])
  | .vst a _ => (0, [(a, 256)])
  | .post a _ _ _ => (0, [(a, 64)])
  | .postDma a _ copy => (0, if copy.isSome then [] else [(a, 64)])
  | _ => (1, [])

end Sys2Proof.Machine
end

