-- ==== Sys2Proof/Machine/Descs.lean ====
section
/-! DEFINITION. The descriptors of the memory and data engines read from their bytes, with the values in force after clamping
(R238, R239, R277, R329), and the scratch they name. -/

namespace Sys2Proof.Machine

/-- The BANK_OWN value of an owner-after field (R177, R238): owner, THREAD_EN and THREAD. -/
def oaOf (d : List Byte) (en own : Nat) : Option Nat :=
  if dbits d en 1 = 1 then some (min 4 (dbits d own 3) + dbits d (own + 3) 1 * 8 + dbits d (own + 4) 7 * 16) else none

/-- A counter field with its enable bit. -/
def counterField (d : List Byte) (en at_ : Nat) : Option Nat := if dbits d en 1 = 1 then some (dbits d at_ 22) else none

/-- A counter field that is off, or names a counter (R612). -/
def counterFieldOk : Option Nat → Bool
  | none => true
  | some c => counterOk c

/-- TABLE_STRIDE in force (R238, R239). -/
def gsStride (raw bytes : Nat) : Nat := if raw = 0 then bytes else max bytes ((raw + 3) / 4 * 4)

/-- A gather or scatter descriptor (R238, R239). -/
def gsOf (d : List Byte) : GsD :=
  let scatter := dbits d 58 1 == 1
  let bytes := 4 * (dbits d 180 10 + 1)
  { srcAddr := dbits d 0 52
    srcKind := if dbits d 52 2 = 3 then 0 else dbits d 52 2
    flush := scatter && dbits d 54 1 == 1
    srcFmt := if dbits d 55 3 = 1 then 1 else 0
    scatter := scatter
    first := dbits d 64 32
    count := dbits d 96 32
    base := dbits d 128 52
    bytes := bytes
    imax := dbits d 192 40
    stride := gsStride (dbits d 232 24) bytes
    scBase := dbits d 256 52
    scBytes := if scatter then 0 else min 128 (dbits d 308 8)
    dest := dbits d 320 18
    destSc := dbits d 338 18
    destStride := dbits d 356 18
    destScStride := dbits d 374 8
    done := counterField d 406 384
    progress := counterField d 429 407
    chunk := 32 * 2 ^ dbits d 430 3
    oa := if scatter then none else oaOf d 433 434
    step := dStep d }

/-- How many of its fields are clamped; fields that its kind ignores are not (R239). -/
def gsClamps (d : List Byte) : Nat :=
  let scatter := dbits d 58 1 == 1
  let bytes := 4 * (dbits d 180 10 + 1)
  let raw := dbits d 232 24
  ([dbits d 52 2 == 3, scatter && decide (2 ≤ dbits d 55 3), raw != 0 && gsStride raw bytes != raw,
    !scatter && decide (128 < dbits d 308 8), !scatter && decide (5 ≤ dbits d 434 3)].filter id).length

/-- A DMA descriptor (R329). -/
def dmaOf (d : List Byte) : DmaD :=
  { src := dbits d 0 52
    srcTile := if dbits d 52 1 = 1 then some (dbits d 53 10) else none
    dst := dbits d 64 52
    dstTile := if dbits d 116 1 = 1 then some (dbits d 117 10) else none
    len := dbits d 128 24
    rows := dbits d 152 24
    srcStride := dbits d 176 48
    dstStride := dbits d 224 48
    sparsity := if dbits d 272 3 = 7 then 0 else dbits d 272 3
    transpose := dbits d 275 1 == 1
    fill := dbits d 276 1 == 1
    fmt := if 8 < dbits d 277 4 then 0 else dbits d 277 4
    done := counterField d 306 284
    oa := oaOf d 307 308
    step := dStep d }

/-- How many of its fields are clamped (R329). -/
def dmaClamps (d : List Byte) : Nat :=
  ([dbits d 272 3 == 7, decide (5 ≤ dbits d 308 3), decide (8 < dbits d 277 4)].filter id).length

/-- A lookup descriptor (R277). -/
def embOf (d : List Byte) : EmbD :=
  { table := dbits d 0 52
    pool := if dbits d 52 2 = 3 then 0 else dbits d 52 2
    backward := dbits d 54 1 == 1
    weighted := dbits d 55 1 == 1
    stale := dbits d 56 8
    offs := dbits d 64 52
    idx := dbits d 128 52
    wgt := dbits d 192 52
    firstBag := dbits d 256 32
    bags := dbits d 288 32
    dest := dbits d 320 18
    destStride := dbits d 338 18
    destIdx := dbits d 356 18
    done := counterField d 406 384
    oa := oaOf d 407 408
    step := dStep d }

def embClamps (d : List Byte) : Nat :=
  ([dbits d 52 2 == 3, dbits d 54 1 == 0 && decide (5 ≤ dbits d 408 3)].filter id).length

/-! ### Runs of bytes -/

/-- `count` ranges of n bytes, the first at `base`, a stride apart. -/
structure Run where
  base : Nat
  stride : Nat
  n : Nat
  count : Nat
  deriving DecidableEq, Repr

/-- The end of the last range; 0 where the run is empty. -/
def Run.top (r : Run) : Nat := if r.n = 0 ∨ r.count = 0 then 0 else r.base + (r.count - 1) * r.stride + r.n

/-- Some byte of the run lies in [lo, hi). -/
def Run.meets (r : Run) (lo hi : Nat) : Bool :=
  let j := if lo < r.base + r.n then 0 else if r.stride = 0 then r.count else (lo - r.base - r.n) / r.stride + 1
  decide (0 < r.n) && decide (j < r.count) && decide (r.base + j * r.stride < hi)

/-- The banks a scratch run names, as far as its bytes lie within scratch (R177). -/
def Run.banks (r : Run) : List Nat := (upFrom 0 4).filter fun k => r.meets (k * 0x10000) ((k + 1) * 0x10000)

/-- Bytes of a row element in scratch (R238), and of a scratch row: a scatter's may be BF16. -/
def GsD.srcWidth (d : GsD) : Nat := if d.scatter ∧ d.srcFmt = 1 then 2 else 4
def GsD.rowBytes (d : GsD) : Nat := d.bytes / 4 * d.srcWidth

/-- The scratch runs of a gather or scatter descriptor. -/
def GsD.runs (d : GsD) : List Run := [⟨d.dest, d.destStride, d.rowBytes, d.count⟩, ⟨d.destSc, d.destScStride, d.scBytes, d.count⟩]

/-- Bytes of an element array of n elements (R43). -/
def elemBytes (fmt n : Nat) : Nat := (n * fmtBits fmt + 7) / 8

/-- N and P of an N:8 operation of a DMA descriptor (R329, R330). -/
def nOf (sp : Nat) : Nat := if sp = 1 ∨ sp = 3 then 4 else 2
def pOf (sp : Nat) : Nat := if sp = 1 ∨ sp = 3 then 2 else 4

/-- Bytes of a dense image (R90) and of a sparse image (R190), scale array included; images start on 64-byte boundaries. -/
def denseImage (fmt : Nat) : Nat := if fmt ≤ 5 then (32 * 4 * fmtBits fmt + 63) / 64 * 64 + 32 else 128 * fmtBits fmt
def sparseImage (fmt p : Nat) : Nat :=
  if fmt ≤ 5 then (32 * (4 * fmtBits fmt + 12) + 63) / 64 * 64 + 32 * p else 32 * (4 * fmtBits fmt + 12)

/-- What a DMA descriptor does (R330): FILL, then TRANSPOSE, then SPARSITY decides (log entry 16). -/
inductive DmaOp where
  | copy | fill | transpose | pack | expand | bitPack | bitUnpack
  deriving DecidableEq, Repr

def DmaD.op (d : DmaD) : DmaOp :=
  if d.fill then .fill
  else if d.transpose then .transpose
  else [DmaOp.copy, .pack, .pack, .expand, .expand, .bitPack, .bitUnpack].getD d.sparsity .copy

/-- A multiple of 32 at or above a length (R299). -/
def pad32 (n : Nat) : Nat := (n + 31) / 32 * 32

/-- The source runs of a DMA descriptor; a bitmap's payloads are not among them. -/
def DmaD.srcRuns (d : DmaD) : List Run :=
  match d.op with
  | .copy => [⟨d.src, d.srcStride, d.len, d.rows⟩]
  | .fill => []
  | .transpose => [⟨d.src, d.srcStride, elemBytes d.fmt d.len, d.rows⟩]
  | .pack => [⟨d.src, d.srcStride, denseImage d.fmt, d.rows * pOf d.sparsity⟩]
  | .expand => [⟨d.src, d.srcStride, sparseImage d.fmt (pOf d.sparsity), d.rows⟩]
  | .bitPack => [⟨d.src, 0, elemBytes d.fmt d.len, 1⟩]
  | .bitUnpack => [⟨d.src, 0, 8 * ((d.len + 1023) / 1024), 1⟩]

/-- The destination runs; a bitmap pack names its directory and its capacity. -/
def DmaD.dstRuns (d : DmaD) : List Run :=
  match d.op with
  | .copy | .fill => [⟨d.dst, d.dstStride, d.len, d.rows⟩]
  | .transpose => [⟨d.dst, d.dstStride, elemBytes d.fmt (pad32 d.rows), pad32 d.len⟩]
  | .pack => [⟨d.dst, d.dstStride, sparseImage d.fmt (pOf d.sparsity), d.rows⟩]
  | .expand => [⟨d.dst, d.dstStride, denseImage d.fmt, d.rows * pOf d.sparsity⟩]
  | .bitPack => [⟨d.dst, 0, d.dstStride, 1⟩]
  | .bitUnpack => [⟨d.dst, 0, elemBytes d.fmt d.len, 1⟩]

/-- Where the scale array of an image starts, from its first byte (R90, R190). -/
def scaleAt (n : Nat) : Nat := (n + 63) / 64 * 64

/-- The payload bytes a directory entry names. -/
def payloadLen (w entry : Nat) : Nat :=
  if bitsOf entry 59 1 = 1 then 128 * w else 128 + (min 1024 (bitsOf entry 48 11) * w + 7) / 8

namespace State

/-- Bytes of a side: a tile's scratch or device memory; host-window granules that failed deliver zeros (R312). -/
def sideBytes (s : State) (r : Nat) (tile : Option Nat) (hostBad : List Nat) (a n : Nat) : List Byte :=
  match tile with
  | some t => s.scratchBytes (r * 896 + t) a n
  | none =>
    let bs := s.devBytes a n
    if hostBad.isEmpty then bs else (bs.zip (upFrom a n)).map fun p => if hostBad.contains (p.2 / 64 * 64) then 0 else p.1

/-- Where the payloads of a bitmap image start (R330). -/
def payBase (a len : Nat) : Nat := scaleAt (a + 8 * ((len + 1023) / 1024))

/-- The payload runs that a bitmap unpack reads, from its directory. -/
def payRuns (s : State) (r : Nat) (d : DmaD) : List Run :=
  (upFrom 0 ((d.len + 1023) / 1024)).map fun k =>
    let e := leNat (s.sideBytes r d.srcTile [] (d.src + 8 * k) 8)
    ⟨payBase d.src d.len + bitsOf e 0 48, 0, payloadLen (fmtBits d.fmt) e, 1⟩

def dmaSrcRuns (s : State) (r : Nat) (d : DmaD) : List Run :=
  d.srcRuns ++ if d.op = .bitUnpack then s.payRuns r d else []

/-- The runs the packer reads of the dense images of an N:8 pack: of each column the elements before position `len` (R197), and the
scale array. -/
def packRuns (d : DmaD) : List Run :=
  let w := fmtBits d.fmt
  (upFrom 0 (d.rows * pOf d.sparsity)).flatMap fun i =>
    let at_ := d.src + i * d.srcStride
    ⟨at_, 4 * w, (min 32 (d.len - 32 * i) * w + 7) / 8, 32⟩ :: if fmtIsMX d.fmt then [⟨at_ + scaleAt (128 * w), 0, 32, 1⟩] else []

/-- The runs that a descriptor reads. -/
def dmaReadRuns (s : State) (r : Nat) (d : DmaD) : List Run := if d.op = .pack then packRuns d else s.dmaSrcRuns r d

/-- The banks of a tile of region r that a DMA descriptor reads or writes. -/
def dmaBanks (s : State) (r tile : Nat) (d : DmaD) : List Nat :=
  (if d.srcTile.map (r * 896 + ·) = some tile then (s.dmaReadRuns r d).flatMap Run.banks else [])
    ++ if d.dstTile.map (r * 896 + ·) = some tile then d.dstRuns.flatMap Run.banks else []

end State

/-! ### Embedding tables (R268, R269) -/

/-- A table descriptor with its values in force. -/
structure TableD where
  rowBase : Nat
  map : Nat
  rowFmt : Nat
  combine : Nat
  hashBits : Nat
  slowBase : Nat
  hostBase : Nat
  imax : Nat
  elems : Nat
  hashMul : Nat
  qDiv : Nat
  fastRows : Nat
  tableId : Nat
  hitEn : Bool
  dropLate : Bool
  slowRows : Nat
  hitBase : Nat
  gradBase : Nat
  touchBase : Nat
  listBase : Nat
  listCap : Nat
  shards : Nat
  shardPos : Nat
  shardLevel : Nat
  version : Nat
  rowmapBase : Nat
  rowmapEn : Bool
  deriving DecidableEq, Repr

def noThree (n : Nat) : Nat := if n = 3 then 0 else n

def tableOf (d : List Byte) : TableD :=
  let map := noThree (dbits d 52 2)
  let shards := max 1 (dbits d 736 16)
  { rowBase := dbits d 0 52
    map := map
    rowFmt := noThree (dbits d 54 2)
    combine := noThree (dbits d 56 2)
    hashBits := clampTo 1 40 (dbits d 58 6)
    slowBase := dbits d 64 52
    hostBase := dbits d 128 52
    imax := dbits d 192 40
    elems := dbits d 232 10 + 1
    hashMul := setBits (dbits d 256 64) 0 1 1
    qDiv := max 1 (dbits d 256 40)
    fastRows := dbits d 320 40
    tableId := dbits d 360 16
    hitEn := dbits d 376 1 == 1
    dropLate := dbits d 377 1 == 1
    slowRows := dbits d 384 40
    hitBase := dbits d 448 52
    gradBase := dbits d 512 52
    touchBase := dbits d 576 52
    listBase := dbits d 640 52
    listCap := dbits d 704 32
    shards := shards
    shardPos := min (shards - 1) (dbits d 752 16)
    shardLevel := dbits d 768 2
    version := dbits d 776 8
    rowmapBase := dbits d 832 52
    rowmapEn := dbits d 884 1 == 1 }

/-- How many values are clamped; those of the other map kinds are not read (R269). -/
def tableClamps (d : List Byte) : Nat :=
  let map := noThree (dbits d 52 2)
  ([dbits d 52 2 == 3, dbits d 54 2 == 3, dbits d 56 2 == 3, map == 1 && (dbits d 58 6 == 0 || decide (40 < dbits d 58 6)),
    map == 1 && dbits d 256 1 == 0, map == 2 && dbits d 256 40 == 0, decide (max 1 (dbits d 736 16) ≤ dbits d 752 16),
    dbits d 736 16 == 0].filter id).length

namespace State

def tableAt (s : State) (a : Nat) : TableD := tableOf (s.devBytes a 128)

/-- Elements of a bag's output row (R272, R280). -/
def outElems (s : State) (t : TableD) : Nat :=
  if t.map = 2 then (s.tableAt t.rowBase).elems + if t.combine = 2 then (s.tableAt t.slowBase).elems else 0 else t.elems

/-- The scratch runs of a lookup descriptor: output or gradient rows, and winner rows for maximum (R277). -/
def embRuns (s : State) (d : EmbD) : List Run :=
  let n := 4 * s.outElems (s.tableAt d.table)
  ⟨d.dest, d.destStride, n, d.bags⟩ :: if d.pool = 2 then [⟨d.destIdx, d.destStride, n, d.bags⟩] else []

end State

/-- The scratch a remote-write descriptor of die d reads (R448): tile and run. -/
def rwRun (d : Nat) (b : List Byte) : Option (Nat × Run) :=
  if dbits b 52 1 = 1 then some (d * 2688 + dbits b 116 12, ⟨dbits b 0 18, 0, dbits b 192 24, 1⟩) else none

namespace State

def gather (s : State) (n : Nat) : Gather := Tbl.get (fun _ => Gather.reset) s.gs n
def modGs (s : State) (n : Nat) (f : Gather → Gather) : State :=
  { s with gs := Tbl.put (fun _ => Gather.reset) s.gs n (f (s.gather n)) }
/-- The queue that brought a descriptor of a gather/scatter engine. -/
def gsQueue (d : GsDesc) : Nat := tileQueue d.tile 1

def embReg (s : State) (r : Nat) : EmbRegion := Tbl.get (fun _ => EmbRegion.reset) s.emb r
def modEmb (s : State) (r : Nat) (f : EmbRegion → EmbRegion) : State :=
  { s with emb := Tbl.put (fun _ => EmbRegion.reset) s.emb r (f (s.embReg r)) }
/-- The queue that brought a lookup descriptor. -/
def embQueue (k : EmbJob) : Nat := tileQueue k.tile 2

/-- The banks that a gather or scatter descriptor in progress has yet to access: the rows of entries not admitted, those of its references
that have not been written, or read where their entry has not issued. -/
def gsLeft (s : State) (n : Nat) (k : GsDesc) : List Nat :=
  let rest (r : Run) : Run :=
    if k.d.scatter then { r with count := r.count - k.admitted }
    else { r with base := r.base + k.admitted * r.stride, count := r.count - k.admitted }
  (k.d.runs.map rest).flatMap Run.banks ++ (s.gather n).window.flatMap fun e =>
    (e.refs.filter fun r => r.desc == k.id).flatMap fun r =>
      if k.d.scatter then (if e.issued then [] else banksOf r.row (e.size / 4 * k.d.srcWidth))
      else ((bankParts r.row e.size).map Prod.fst).filter (fun b => !r.rowIn.contains b)
        ++ ((bankParts r.scale e.scSize).map Prod.fst).filter fun b => !r.scaleIn.contains b

/-- The bags whose scratch rows a lookup descriptor in progress has yet to write, or to read for the requests it has not made. -/
def embBags (k : EmbJob) : List Nat :=
  if k.d.backward then (k.todo.filter fun q => !q.sent).flatMap fun q => q.entries.map Prod.fst else k.left

def embLeft (s : State) (k : EmbJob) : List Nat :=
  (embBags k).dedup.flatMap fun b =>
    ((s.embRuns k.d).map fun r => ({ r with base := r.base + b * r.stride, count := 1 } : Run)).flatMap Run.banks

/-- The banks of a tile that a taken or running descriptor of a queue has yet to access as a master (R174, R176). A remote write reads its
bytes as it starts. -/
def descBanks (s : State) (q tile master n : Nat) (b : List Byte) : List Nat :=
  let c := s.queue q
  match master, c.kind with
  | 3, 4 => s.dmaBanks (c.unit / 4) tile (dmaOf b)
  | 3, 7 => match rwRun (q / 65536) b with
    | some (t, r) => if t = tile ∧ c.taken.any (fun d => d.1 == n) then r.banks else []
    | none => []
  | 4, 1 =>
    if queueTile q ≠ tile then []
    else match (s.gather (tile / 16)).active.find? fun k => k.tile == tile && k.seq == n with
      | some k => s.gsLeft (tile / 16) k
      | none => (gsOf b).runs.flatMap Run.banks
  | 4, 2 =>
    if queueTile q ≠ tile then []
    else match (s.embReg (regionOfTile tile)).active.find? fun k => k.tile == tile && k.seq == n with
      | some k => s.embLeft k
      | none => (s.embRuns (embOf b)).flatMap Run.banks
  | _, _ => []

end State

end Sys2Proof.Machine
end

