-- ==== Sys2Proof/Machine/Matrix.lean ====
section
/-! DEFINITION. The matrix class: weight loads, multiplies and readouts (03_matrix_arrays.md, 04_accumulation.md, R152 to R156,
R188 to R194). -/

namespace Sys2Proof.Machine

/-! ### Layouts -/

/-- The bytes of a column block or sparse column record (R90, R190). -/
def colBytes (fmt sp : Nat) : Nat := 4 * fmtBits fmt + if sp = 0 then 0 else 12
/-- Scale bytes of a column: one for each K block of the load (R90, R190). -/
def colScales (fmt sp : Nat) : Nat := if fmtIsMX fmt then [1, 2, 4].getD sp 1 else 0
/-- N of an N:8 pattern (R188). -/
def sparseN (sp : Nat) : Nat := if sp = 1 then 4 else 2
/-- Stream elements of one vector (R79, R88, R193). -/
def streamLen (mirror : Bool) (sp : Nat) : Nat := if mirror then 128 else [32, 64, 128].getD sp 32

/-- The scratch ranges of one array's weights. -/
def wloadRanges (fmt sp a : Nat) : List (Nat × Nat) :=
  (a, 32 * colBytes fmt sp) ::
    if fmtIsMX fmt then [(align64 (a + 32 * colBytes fmt sp), 32 * colScales fmt sp)] else []

/-- The feeder's accesses for one array's weights: a column block a beat, then the scale array (R90). -/
def wloadReads (fmt sp a : Nat) : List (Nat × Nat) :=
  ((upFrom 0 32).map fun n => (a + n * colBytes fmt sp, colBytes fmt sp)) ++ (wloadRanges fmt sp a).drop 1

/-- A 64-bit address sum. -/
def addr64 (a b : Nat) : Nat := (a + b) % 2 ^ 64

/-- Fields of the stream layout register (R154). -/
def layStride (l : Nat) : Nat := bitsOf l 0 18
def layScale (l : Nat) : Nat := bitsOf l 18 18
def layScaleStride (l : Nat) : Nat := bitsOf l 36 18

/-- The scratch ranges of stream vector m: its elements and, for an MX format, its scale bytes. -/
def streamRanges (fmt base lay n m : Nat) : List (Nat × Nat) :=
  (addr64 base (m * layStride lay), n * fmtBits fmt / 8) ::
    if fmtIsMX fmt then [(layScale lay + m * layScaleStride lay, n / 32)] else []

def rangesOk (l : List (Nat × Nat)) : Bool := l.all fun r => inScratch r.1 r.2
/-- The feeder's accesses raise no fault (R159, R179; log entry 31). -/
def accessesOk (l : List (Nat × Nat)) : Bool := l.all fun r => rotateOk r.1 r.2

namespace State

def rangesServe (s : State) (t master ctx : Nat) (work : Token) (l : List (Nat × Nat)) : Bool :=
  l.all fun r => s.banksServe t r.1 r.2 master ctx work

/-! ### Planes -/

def plane (s : State) (arr p : Nat) : Plane := Tbl.get (fun _ => Plane.reset) s.tile.planes (arr * 2 + p)
def setPlane (s : State) (arr p : Nat) (v : Plane) : State :=
  { s with tile.planes := Tbl.put (fun _ => Plane.reset) s.tile.planes (arr * 2 + p) v }
/-- The plane holds a completed load (R106). -/
def planeValid (s : State) (arr p : Nat) : Bool :=
  s.flag (bArray arr) (if p = 0 then Fld.ARR_STATUS_A_VALID else Fld.ARR_STATUS_B_VALID)
/-- The format code a plane shows. -/
def setPlaneFmt (s : State) (arr p f : Nat) : State :=
  s.setF (bArray arr) (if p = 0 then Fld.ARR_STATUS_A_FMT else Fld.ARR_STATUS_B_FMT) f

/-- ARR_CTRL.HOLD stops neither new elements nor loads on the arrays of a mask (R105). -/
def loadOpen (s : State) (t mask : Nat) : Bool := (maskArrays mask).all fun a => !s.flag (bArray (t * 4 + a)) Fld.ARR_CTRL_HOLD

/-- The hold that stops new elements on the arrays of a mask (R96), by the counter of its beats in the tile's bank (R536, R585, R587): a
droop hold, 11; the issue throttle of the power cap, 10; ARR_CTRL.HOLD, whose beats are idle, 13. A droop hold and a throttle stop elements
only, not loads (DEDUCED, log entry 94). -/
def entryHold (s : State) (t mask : Nat) : Option Nat :=
  if s.flag (bCluster (t / 16)) Fld.ISL_STATUS_DROOP_HOLD then some 11
  else if s.throttled (clusterOfTile t) 1 then some 10
  else if s.loadOpen t mask then none
  else some 13

/-- No hold stops new elements on the arrays of a mask. -/
def entryOpen (s : State) (t mask : Nat) : Bool := (s.entryHold t mask).isNone

/-- A held element boundary is counted as a beat of its hold (R536; log entry 122); a throttled one is one of the run of 64 (R532). -/
def heldBeat (s : State) (t mask : Nat) : State :=
  match s.entryHold t mask with
  | none => s
  | some k =>
    let s := s.bankCount t k 1
    if k = 10 then s.passed (clusterOfTile t) 1 false else s

/-- Plane, mask of a weight load; plane, mask and direction of a multiply. -/
def loadOf : OpKind → Option (Nat × Nat)
  | .wload _ _ plane mask _ _ _ => some (plane, mask)
  | _ => none
def mmaOf : OpKind → Option (Nat × Nat × Bool)
  | .mma _ plane mask _ _ _ mirror _ _ _ _ _ _ => some (plane, mask, mirror)
  | _ => none

/-- Two masks share an array. -/
def maskMeet (a b : Nat) : Bool := (maskArrays a).any fun x => (maskArrays b).contains x

/-- A weight load of a plane of array a is outstanding. -/
def loadPending (s : State) (t a plane : Nat) : Bool :=
  (s.tileOf t).ops.any fun o => loadOf o.kind |>.any fun l => l.1 == plane && l.2 / 2 ^ a % 2 == 1

/-- The most weight pieces among the arrays of a mask (R92). -/
def weightPieces (s : State) (t mask plane : Nat) : Nat :=
  ((maskArrays mask).map fun a => fmtPieces (s.plane (t * 4 + a) plane).fmt).foldl max 1

end State

/-- An element of a started multiply has entered and its results are still to write: the first one, from the start on (R96); each later one
enters as its results are written. -/
def entered (o : TileOp) : Bool := o.progress == 0

/-- The pass set of R92 in the order of R63. -/
def passSet (ps pw : Nat) (reduced : Bool) : List (Nat × Nat) :=
  (upFrom 0 (ps + pw - 1)).flatMap fun t =>
    if reduced && decide (max ps pw ≤ t) then []
    else (upFrom 0 ps).filterMap fun i => if i ≤ t ∧ t - i < pw then some (i, t - i) else none

/-- The planes of an array during a multi-pass multiply (R93): the plane in use and both planes' contents; a pass whose piece the
plane in use does not hold moves it from the piece buffer into the other plane. -/
structure Planes where
  cur : Nat
  a : Plane
  b : Plane
  deriving DecidableEq, Repr

def Planes.here (p : Planes) : Plane := if p.cur = 0 then p.a else p.b

def Planes.step (buf : List Nat) (p : Planes) (j : Nat) : Planes :=
  if fmtPieces p.here.fmt = 1 ∨ p.here.piece = j then p
  else
    let n : Plane := ⟨buf.headD 0, 0, j, buf.tail, [], [], false⟩
    if p.cur = 0 then ⟨1, p.a, n⟩ else ⟨0, n, p.b⟩

def Planes.walk (buf : List Nat) (p : Planes) : List (Nat × Nat) → Planes
  | [] => p
  | (_, j) :: r => (p.step buf j).walk buf r

/-! ### Operands and products -/

/-- An operand: its full value and the piece a pass uses, block scale included (R62, R84, R85). -/
structure Operand where
  full : FV
  piece : FV
  deriving DecidableEq, Repr

/-- Piece i of a value of a wide format (R62). -/
def pieceOf (fmt i : Nat) (v : FV) : FV :=
  match v with
  | .fin neg m e =>
    if fmt = 7 then .fin neg (m * 32 / 256 ^ (1 - i) % 256) (e + 3 - 8 * i)
    else if fmt = 8 then .fin neg (m / 256 ^ (2 - i) % 256) (e + 16 - 8 * i)
    else v
  | _ => v

/-- An element's value under a block scale code (R46, R84). -/
def blockValue (fmt scale code : Nat) : FV :=
  if fmtIsMX fmt then
    if scale = 0xFF then .nan false else (mxElem fmt code).mul (.fin false 1 ((scale : Int) - 127))
  else (fmtOf fmt).decode code

def operand (fmt i scale code : Nat) : Operand :=
  let v := blockValue fmt scale code
  ⟨v, pieceOf fmt i v⟩

/-- A product: non-finite where the operands make it so (R85), else the exact product of the pieces. A product of an empty slot is not formed
(`Plane.columnProducts`, log entry 95). -/
def Operand.mul (a b : Operand) : FV :=
  if a.full.isFin && b.full.isFin then a.piece.mul b.piece else a.full.mul b.full

/-- The exact group sums of 32 products, in ascending group order (R82, R85). A sum that is zero is +0, whatever the signs of its products
(R82 gives no sign: DESIGN CHOICE, log entry 115). -/
def groupSums (g : Nat) (ps : List FV) : List FV :=
  (chunks g 32 ps).map fun c => c.foldl FV.add (.fin false 0 0)

namespace State

/-- The operands of stream vector m, piece i. -/
def streamVec (s : State) (t fmt i base lay n m : Nat) : List Operand :=
  let es := unpackBytes (fmtBits fmt) n (s.scratchBytes t (addr64 base (m * layStride lay)) (n * fmtBits fmt / 8))
  let sc := layScale lay + m * layScaleStride lay
  let scs := s.scratchBytes t sc (n / 32)
  (upFrom 0 n).map fun k => operand fmt i (scs.getD (k / 32) 0).toNat (es.getD k 0)

end State

/-- The weight of cell (row k, column n) in a plane (R75, R90, R190). -/
def Plane.weight (p : Plane) (k n : Nat) : Operand :=
  let blk := if p.sparsity = 0 then 0 else k / sparseN p.sparsity / 4
  operand p.fmt p.piece (p.scales.getD (n * colScales p.fmt p.sparsity + blk) 0) (p.elems.getD (32 * n + k) 0)

/-- A slot of a sparse plane that holds +0, or 0x00 in MXINT8, under a finite scale (R191). -/
def Plane.emptySlot (p : Plane) (k n : Nat) : Bool :=
  p.sparsity != 0 && p.elems.getD (32 * n + k) 0 == 0 && (p.weight k n).full.isFin

/-- The 32 products of column n in a normal read (R79, R189). An empty slot contributes nothing, whatever element its position names, an
infinity or a NaN among them (R191; log entry 95). -/
def Plane.columnProducts (p : Plane) (xs : Array Operand) (n : Nat) : List FV :=
  (upFrom 0 32).map fun k =>
    let i := if p.sparsity = 0 then k else 8 * (k / sparseN p.sparsity) + p.pos.getD (32 * n + k) 0
    if p.emptySlot k n then .fin false 0 0 else (xs.getD i ⟨.fin false 0 0, .fin false 0 0⟩).mul (p.weight k n)

/-- The 32 products of row k in a mirror read; array a receives elements 32a to 32a + 31 (R86, R88). -/
def Plane.rowProducts (p : Plane) (xs : Array Operand) (a k : Nat) : List FV :=
  (upFrom 0 32).map fun n => (xs.getD (32 * a + n) ⟨.fin false 0 0, .fin false 0 0⟩).mul (p.weight k n)

/-! ### Scratch accesses of one thread (R160) -/

/-- The destination ranges of a readout in scratch: for each entry and array with a column to write, the block or the columns'
bytes, and the scale byte of an MX block (R156). -/
def readoutRanges (mode count mask target dest colMask : Nat) : List (Nat × Nat) :=
  (upFrom 0 count).flatMap fun e => (maskArrays mask).flatMap fun a =>
    if bitsOf colMask (32 * a) 32 = 0 then []
    else if 3 ≤ mode then [(addr64 dest ((e * 128 + 32 * a) * 8), 256)]
    else if fmtIsMX target then
      let bb := 4 * fmtBits target
      [(addr64 dest ((e * 4 + a) * bb), bb), (addr64 (align64 (dest + count * 4 * bb)) (e * 4 + a), 1)]
    else [(addr64 dest ((e * 128 + 32 * a) * (fmtBits target / 8)), 4 * fmtBits target)]

/-- Two byte ranges overlap. -/
def rangesMeet (a b : Nat × Nat) : Bool := decide (a.1 < b.1 + b.2) && decide (b.1 < a.1 + a.2)

/-- An instruction that writes scratch. -/
def writesScratch : OpKind → Bool
  | .st .. | .vst .. | .vcvt .. => true
  | .readout _ _ _ _ _ _ _ _ toVec _ _ _ _ _ => !toVec
  | _ => false

namespace State

/-- The ranges a load reads. -/
def wloadAll (fmt sp mask base stride : Nat) : List (Nat × Nat) :=
  (maskArrays mask).flatMap fun a => wloadRanges fmt sp (addr64 base (a * stride))

/-- The sparsity an array's plane has when its turn of a multiply comes: that of the last load issued before the multiply. -/
def sparsityFor (s : State) (t id a plane : Nat) : Nat :=
  match ((s.tileOf t).ops.filter fun p => decide (p.id < id) && (loadOf p.kind).any fun l => l.1 == plane && l.2 / 2 ^ a % 2 == 1).getLast? with
  | some p => (match p.kind with
    | .wload _ _ _ _ sp _ _ => sp
    | _ => 0)
  | none => (s.plane (t * 4 + a) plane).sparsity

/-- The scratch ranges an outstanding tile instruction has yet to access, by any master. -/
def opAccess (s : State) (t : Nat) (o : TileOp) : List (Nat × Nat) :=
  match o.kind with
  | .wload fmt _ _ mask sp base stride => wloadAll fmt sp mask base stride
  | .mma fmt plane mask _ _ reduced mirror _ _ _ m base lay =>
    let n := ((maskArrays mask).map fun a => streamLen mirror (s.sparsityFor t o.id a plane)).foldl max 32
    let last := (passSet (fmtPieces fmt) (s.weightPieces t mask plane) reduced).length ≤ o.progress / m + 1
    ((upFrom 0 m).filter fun k => !last || decide (o.progress % m ≤ k)).flatMap fun k => streamRanges fmt base lay n k
  | .readout mode _ count mask target _ _ _ toVec _ _ _ colMask dest =>
    if toVec then [] else readoutRanges mode count mask target dest colMask
  | k => (opRanges k).2

/-- Scratch accesses of one thread to overlapping bytes take effect in program order (R160): no earlier instruction of the thread that
accesses bytes of these ranges is outstanding, where it or this one writes. -/
def scratchTurn (s : State) (t : Nat) (o : TileOp) (rs : List (Nat × Nat)) : Bool :=
  (s.tileOf t).ops.all fun p =>
    !(p.id < o.id && p.ctx == o.ctx && (writesScratch p.kind || writesScratch o.kind)
      && (s.opAccess t p).any fun r => rs.any fun q => rangesMeet r q)

end State

/-! ### WLOAD -/

/-- The largest sparsity code recorded for a plane of the arrays of a mask (R192). Where the arrays of a mask hold planes of different
sparsity the largest code judges the faults, and a stream vector has the length of the longest (DEDUCED, log entry 96). -/
def Tile.sparse (tl : Tile) (plane mask : Nat) : Nat :=
  ((maskArrays mask).map fun a => bitsOf (if plane = 0 then tl.sparseA else tl.sparseB) (2 * a) 2).foldl max 0
/-- A load's sparsity is recorded for its plane of the arrays of its mask. -/
def Tile.setSparse (tl : Tile) (plane mask sp : Nat) : Tile :=
  let put (n : Nat) : Nat := (maskArrays mask).foldl (fun n a => setBits n (2 * a) 2 sp) n
  if plane = 0 then { tl with sparseA := put tl.sparseA } else { tl with sparseB := put tl.sparseB }

/-- WLOAD (R152, R81, R192): the load waits in the list of outstanding instructions; a mask of zero completes at once with no
effect. -/
def execWload (h : Hdr) (o : WloadOps) (s : State) : Host.Outcome State Fault Refusal :=
  let base := (s.x h.tile h.ctx o.rs1.toNat).toNat
  let stride := (s.x h.tile h.ctx o.rs2.toNat).toNat
  let sp := o.sparsity.toNat
  let mask := o.mask.toNat
  let reads := (maskArrays mask).flatMap fun a => wloadReads o.fmt.toNat sp (addr64 base (a * stride))
  .next (s.issue (.wload h o) h false [(7, !accessesOk reads)] fun t =>
    if mask = 0 then t
    else
      (t.modTile h.tile fun tl => tl.setSparse o.plane.toNat mask sp).push h.tile h.ctx []
        (.wload o.fmt.toNat o.piece.toNat o.plane.toNat mask sp base stride))

namespace State

/-- No earlier multiply or load keeps the plane, and no running multi-pass multiply holds both planes (R91, R93). -/
def planeFree (s : State) (t : Nat) (o : TileOp) (plane mask : Nat) : Bool :=
  (s.tileOf t).ops.all fun p =>
    match p.kind with
    | .mma fmt pl msk _ _ _ _ _ _ _ _ _ _ =>
      let multi := p.started && (fmtPieces fmt != 1 || s.weightPieces t msk pl != 1)
      !(maskMeet msk mask && ((p.id < o.id && pl == plane) || (p.started && pl == plane) || multi))
    | .wload _ _ pl msk _ _ _ => !(p.id < o.id && pl == plane && maskMeet msk mask)
    | _ => true

end State

/-- WLOAD_START (R91, R105, R160): every array of the mask has let go of the plane, HOLD does not stop the load (a droop hold never does:
R96 names elements only, log entry 94), the thread's earlier writes of its bytes have landed, the feeder owns the banks. -/
def execWloadStart (tile : TileId) (op : Nat) (s : State) : Host.Outcome State Fault Refusal :=
  .next (match s.op? tile op with
    | some o =>
      match o.kind with
      | .wload fmt _ plane mask sp base stride =>
        if o.started ∨ ¬ s.planeFree tile o plane mask ∨ ¬ s.loadOpen tile mask
          ∨ ¬ s.scratchTurn tile o (State.wloadAll fmt sp mask base stride)
          ∨ ¬ s.rangesServe tile 1 o.ctx (.op op) (State.wloadAll fmt sp mask base stride) then s
        else
          let s := s.modOp tile op fun o => { o with started := true }
          s.foldS (maskArrays mask) fun s a =>
            s.setPlane (tile * 4 + a) plane { s.plane (tile * 4 + a) plane with loading := true }
      | _ => s
    | none => s)

namespace State

/-- One array's plane filled from scratch (R90, R93, R190). -/
def fillPlane (s : State) (t a fmt piece plane sp addr : Nat) : State :=
  let cb := colBytes fmt sp
  let eb := 4 * fmtBits fmt
  let cols := (upFrom 0 32).map fun n => s.scratchBytes t (addr + n * cb) cb
  let elems := cols.flatMap fun c => unpackBytes (fmtBits fmt) 32 (c.take eb)
  let pos := if sp = 0 then [] else cols.flatMap fun c => unpackBytes 3 32 (c.drop eb)
  let scales := if fmtIsMX fmt then (s.scratchBytes t (align64 (addr + 32 * cb)) (32 * colScales fmt sp)).map BitVec.toNat else []
  let arr := t * 4 + a
  let s := if fmtPieces fmt = 1 then s else { s with tile.pieces := Tbl.put (fun _ => []) s.tile.pieces arr (fmt :: elems) }
  let s := s.setPlane arr plane ⟨fmt, sp, piece, elems, pos, scales, false⟩
  (s.setFlag (bArray arr) (if plane = 0 then Fld.ARR_STATUS_A_VALID else Fld.ARR_STATUS_B_VALID) true).setPlaneFmt arr plane fmt

end State

/-- WLOAD_DONE (R90): the last beat; the planes are valid with their format recorded. -/
def execWloadDone (tile : TileId) (op : Nat) (waitOwn waitPort : Nat) (s : State) : Host.Outcome State Fault Refusal :=
  .next (match s.op? tile op with
    | some o =>
      match o.kind with
      | .wload fmt piece plane mask sp base stride =>
        if o.started then
          let s := s.foldS (maskArrays mask) fun s a => s.fillPlane tile a fmt piece plane sp (addr64 base (a * stride))
          let s := s.opBad tile o (State.wloadAll fmt sp mask base stride)
          (s.bankWaits tile 1 waitOwn waitPort (some tile)).finish tile o
        else s
      | _ => s
    | none => s)

/-! ### MMA -/

/-- MMA (R153, R109, R91, R112, R114, R192): checked and handed to the arrays. With a mask of zero it completes at once with no effect
(R81). -/
def execMma (h : Hdr) (o : MmaOps) (s : State) : Host.Outcome State Fault Refusal :=
  let base := (s.x h.tile h.ctx o.rs1.toNat).toNat
  let lay := (s.x h.tile h.ctx o.rs2.toNat).toNat
  let fmt := o.fmt.toNat
  let plane := o.plane.toNat
  let mask := o.mask.toNat
  let mirror := o.mirror == 1
  let join := o.join == 1
  let mode := o.mode.toNat
  let m := o.mMinus1.toNat + 1
  let sp := (s.tileOf h.tile).sparse plane mask
  let reserved := sp != 0 && (decide (7 ≤ fmt) || mirror)
  let accMask := if join then 1 else mask
  let ranges := if mask = 0 then [] else (upFrom 0 m).flatMap fun k => streamRanges fmt base lay (streamLen mirror sp) k
  .next (s.issue (.mma h o) h reserved
    [(2, mask != 0 && !(accBound mode o.index.toNat m && s.rowsOk h.tile mode o.index.toNat m accMask)),
     (3, (maskArrays mask).any fun a => !s.planeValid (h.tile * 4 + a) plane && !s.loadPending h.tile a plane),
     (4, sp != 0 && o.grouping == 0),
     (7, !accessesOk ranges)] fun t =>
    if mask = 0 then t
    else t.push h.tile h.ctx []
      (.mma fmt plane mask mode (4 * 2 ^ o.grouping.toNat) (o.pass == 1) mirror join (o.rnd == 1) o.index.toNat m base lay))

namespace State

/-- A multiply's first element may enter (R89, R91, R93): earlier multiplies have started, its plane is loaded, no change of
direction or multi-pass multiply is under way. -/
def mmaReady (s : State) (t : Nat) (o : TileOp) (fmt plane mask : Nat) (mirror : Bool) : Bool :=
  let multi := fmtPieces fmt != 1 || s.weightPieces t mask plane != 1
  (s.tileOf t).ops.all fun p =>
    match p.kind with
    | .mma pf pl msk _ _ _ pm _ _ _ _ _ _ =>
      let pmulti := fmtPieces pf != 1 || s.weightPieces t msk pl != 1
      !(p.id < o.id && (!p.started || pm != mirror || (maskMeet msk mask && (multi || pmulti))))
    | .wload _ _ pl msk _ _ _ =>
      !(maskMeet msk mask && ((p.id < o.id && pl == plane) || (p.started && (pl == plane || multi))))
    | _ => true

end State

/-- MMA_STREAM_START (R89, R91, R96, R532): the first stream element enters. ARR_STATUS.MIRROR shows the read of the last multiply started; a load,
which has no direction, leaves it (R106 leaves it open whether a load counts: DESIGN CHOICE, log entry 115). -/
def execMmaStreamStart (tile : TileId) (op : Nat) (s : State) : Host.Outcome State Fault Refusal :=
  .next (match s.op? tile op with
    | some o =>
      match o.kind with
      | .mma fmt plane mask _ _ _ mirror _ _ _ _ _ _ =>
        if o.started ∨ ¬ s.mmaReady tile o fmt plane mask mirror then s
        else if ¬ s.entryOpen tile mask then s.heldBeat tile mask
        else ((s.passed (clusterOfTile tile) 1 true).modOp tile op fun o => { o with started := true }).foldS (maskArrays mask) fun s a =>
          s.setFlag (bArray (tile * 4 + a)) Fld.ARR_STATUS_MIRROR mirror
      | _ => s
    | none => s)

namespace State

/-- The planes of an array as a multiply finds them. -/
def planesOf (s : State) (arr plane : Nat) : Planes := ⟨plane, s.plane arr 0, s.plane arr 1⟩

/-- The planes of an array as a multi-pass multiply leaves them (R93). -/
def settlePlanes (s : State) (arr : Nat) (p : Planes) : State :=
  let set (s : State) (k : Nat) (v : Plane) : State :=
    if s.plane arr k = v then s else (s.setPlane arr k v).setPlaneFmt arr k v.fmt
  set (set s 0 p.a) 1 p.b

/-- No earlier accumulation of the same thread to these rows is pending (R126). -/
def accTurn (s : State) (t : Nat) (o : TileOp) : Bool :=
  s.accReady t o && (s.tileOf t).ops.all fun p => !(p.id < o.id && p.ctx == o.ctx && accMeet p.kind o.kind)

end State

/-- RESULT_GROUP_WRITE (R79 to R94, R116 to R120, R189, R193): one stream vector of one pass streams through the arrays and its
result groups are added into their entries, arrays and columns in ascending order (log entry 15); the last one completes the
multiply. A hold stops it between elements only (R96). The beats are the environment's (R95, R98). -/
def execResultGroupWrite (tile : TileId) (op : Nat) (bt : ArrBeats) (waitOwn waitPort : Nat) (s : State) :
    Host.Outcome State Fault Refusal :=
  .next (match s.op? tile op with
    | some o =>
      match o.kind with
      | .mma fmt plane mask mode g reduced mirror join stoch index m base lay =>
        let passes := passSet (fmtPieces fmt) (s.weightPieces tile mask plane) reduced
        let k := o.progress % m
        let done := passes.take (o.progress / m + 1)
        let (i, j) := done.getLastD (0, 0)
        let n := ((maskArrays mask).map fun a => streamLen mirror (s.plane (tile * 4 + a) plane).sparsity).foldl max 32
        if ¬ o.started ∨ ¬ s.accTurn tile o ∨ ¬ s.scratchTurn tile o (streamRanges fmt base lay n k)
          ∨ ¬ s.rangesServe tile 1 o.ctx (.op op) (streamRanges fmt base lay n k) then s
        else if ¬ entered o ∧ ¬ s.entryOpen tile mask then s.heldBeat tile mask
        else
          let s := if entered o then s else s.passed (clusterOfTile tile) 1 true
          let xs := (s.streamVec tile fmt i base lay n k).toArray
          let e := index + k
          let one (p : State × Drawer) (a : Nat) : State × Drawer :=
            let arr := tile * 4 + a
            let own := passSet (fmtPieces fmt) (fmtPieces (p.1.plane arr plane).fmt) reduced
            if own.contains (i, j) then
              let w := (p.1.planesOf arr plane).walk (Tbl.get (fun _ => []) p.1.tile.pieces arr) (done.filter own.contains)
              let s := p.1.openEntry tile mode e (if join then 0 else a)
              (upFrom 0 32).foldl (fun p c =>
                let ps := if mirror then w.here.rowProducts xs a c else w.here.columnProducts xs c
                p.1.addGroups tile mode e (if join then c else 32 * a + c) (groupSums g ps) p.2) (s, p.2)
            else p
          let d := s.gen tile s.job.seed stoch
          let (s, d) := (maskArrays mask).foldl one (s.readEntries tile mode e 1 (if join then 1 else mask) o.ctx, d)
          let s := s.setGen tile d
          let s := s.foldS (maskArrays mask) fun s a =>
            let b := bArray (tile * 4 + a)
            (((s.count b .ARR_BEATS bt.beats).count b .ARR_BUB_FEED bt.feed).count b .ARR_BUB_ACC bt.acc).count b .ARR_BUB_WGT bt.wgt
          let s := (s.opBad tile o (streamRanges fmt base lay n k)).bankWaits tile 1 waitOwn waitPort (some tile)
          if o.progress + 1 < passes.length * m then s.modOp tile op fun o => { o with progress := o.progress + 1 }
          else
            let s := s.foldS (maskArrays mask) fun s a =>
              let arr := tile * 4 + a
              let own := passSet (fmtPieces fmt) (fmtPieces (s.plane arr plane).fmt) reduced
              s.settlePlanes arr ((s.planesOf arr plane).walk (Tbl.get (fun _ => []) s.tile.pieces arr) own)
            s.finish tile o
      | _ => s
    | none => s)

/-! ### READOUT -/

/-- READOUT (R155, R121, R112, R114, R146): checked and handed to accumulator memory. With a mask of zero it completes at once with no
effect (R81, log entry 25). -/
def execReadout (h : Hdr) (o : ReadoutOps) (s : State) : Host.Outcome State Fault Refusal :=
  let x (r : Nat) := (s.x h.tile h.ctx r).toNat
  let r1 := o.rs1.toNat
  let r2 := o.rs2.toNat
  let mode := o.mode.toNat
  let count := o.countMinus1.toNat + 1
  let mask := o.mask.toNat
  let target := o.target.toNat
  let toVec := o.dest == 1
  let vd := o.rd.toNat % 16
  let vregs := (if mode < 3 then 2 else 4) * count
  let colMask := x r2 + x (r2 + 1) * 2 ^ 64
  let dest := if toVec then vd else x o.rd.toNat
  let scale (v : Nat) : Half := (tensorScale (BitVec.ofNat 32 v)).1
  let pairs := r1 % 2 == 1 || r2 % 2 == 1
  .next (s.issue (.readout h o) h false ((
    [(2, !(accBound mode o.index.toNat count && s.rowsOk h.tile mode o.index.toNat count mask)),
     (5, pairs || (toVec && (decide (16 ≤ o.rd.toNat) || decide (16 < vd + vregs) || target != 8))),
     (6, toVec && !s.holdsLease h.tile h.ctx),
     (7, !toVec && !accessesOk (readoutRanges mode count mask target dest colMask))] : List (Nat × Bool)).filter fun _ => mask != 0) fun t =>
    if mask = 0 then t
    else t.push h.tile h.ctx (if toVec then upFrom (40 + vd) vregs else [])
      (.readout mode o.index.toNat count mask target o.cls.toNat (o.rnd == 1) (o.clear == 1) toVec
        (scale (x r1)) (scale (x r1 / 2 ^ 32)) (scale (x (r1 + 1))) colMask dest))

/-- READOUT_START (R156): no accumulation issued before it to any entry it reads is pending. -/
def execReadoutStart (tile : TileId) (op : Nat) (s : State) : Host.Outcome State Fault Refusal :=
  .next (match s.op? tile op with
    | some o => if isReadout o.kind ∧ s.accReady tile o then s.modOp tile op fun o => { o with started := true } else s
    | none => s)

/-- A value read (R122): its FP32 form, whether the entry held an infinity, whether the rounding saturated or vanished. -/
structure Cell where
  v : Half
  held : Bool
  sat : Bool
  van : Bool
  deriving DecidableEq, Repr

/-- An entry's value scaled and rounded once to FP32; every value read takes a draw (R122), which decides the rounding in X mode only
(R55, log entry 90). -/
def readCell (mode : Nat) (a : FV) (ts tw : Half) (d : Drawer) : Cell × Drawer :=
  let (q, d) := d.take
  let r := if mode = 2 then q else .near
  let p := (a.mul (f32 ts)).mul (f32 tw)
  match a, p with
  | .fin _ m _, .fin .. =>
    let code := Fmt.fp32.encode p r
    (⟨BitVec.ofNat 32 code, false, code % 2 ^ 31 == 0x7F800000, m != 0 && code % 2 ^ 31 == 0⟩, d)
  | _, _ => (⟨toF32 a, a.isInf, false, false⟩, d)

/-- The cells of one array of one entry, columns in ascending order. -/
def State.readCells (s : State) (t mode i a : Nat) (ts tw : Half) : List Nat → Drawer → List Cell × Drawer
  | [], d => ([], d)
  | c :: r, d =>
    let (x, d) := readCell mode (s.accValue t mode i (32 * a + c)) ts tw d
    let (xs, d) := s.readCells t mode i a ts tw r d
    (x :: xs, d)

/-- The values a readout delivers from one array of one entry: written columns with their code (R123), the scale byte of an
MX block, the statistics. A finite entry whose scaled value overflowed is saturated also in a block whose elements are not converted, an
infinity that the entry held is not (R122, R123). -/
def convertCells (target : Nat) (td : Half) (keep : List Bool) (cs : List Cell) (d : Drawer) :
    List Nat × Nat × Stat × Drawer :=
  let kept := cs.zip keep
  let n (f : Cell → Bool) : Nat := kept.countP fun p => p.2 && f p.1
  if fmtIsMX target then
    if keep.any id then
      let (codes, sc, st, d) := mxBlock target td (cs.map Cell.v) keep d
      let sat := if sc = 0xFF then n Cell.sat else st.sat - n Cell.held
      (codes, sc, { st with sat := sat, van := st.van + n Cell.van }, d)
    else ([], 0, .none, d)
  else
    let one (p : List Nat × Stat × Drawer) (c : Cell × Bool) : List Nat × Stat × Drawer :=
      let (codes, st, d) := p
      if c.2 then
        let (code, q, d) := if target = 8 then (c.1.v.toNat, (⟨1, 0, 0, 0, if (f32 c.1.v).isNaN then 1 else 0⟩ : Stat), d)
          else toWide target (f32 c.1.v) d
        let q := { q with sat := max q.sat (if c.1.sat then 1 else 0), van := max q.van (if c.1.van then 1 else 0) }
        (code :: codes, st.add q, d)
      else (0 :: codes, st, d)
    let (codes, st, d) := kept.foldl one ([], .none, d)
    (codes.reverse, 0, st, d)

namespace State

/-- A block's bytes with the kept elements replaced (R124). -/
def mergeBlock (w : Nat) (old : Nat) (codes : List Nat) (keep : List Bool) : Nat :=
  ((codes.zip keep).zip (upFrom 0 codes.length)).foldl
    (fun n p => if p.1.2 then setBits n (w * p.2) w p.1.1 else n) old

/-- The values of one array of one entry written to their destination (R156). -/
def deliver (s : State) (t mode count target dest e a i : Nat) (toVec : Bool) (keep : List Bool) (codes : List Nat) (scale : Nat) :
    State :=
  let cols := ((upFrom 0 32).zip (codes.zip keep)).filter fun p => p.2.2
  if toVec then
    let r := dest + (if mode < 3 then 2 else 4) * e + a / 2
    let whole := (upFrom 0 16).filter fun j => keep.getD (2 * j) false && keep.getD (2 * j + 1) false
    let words (r : Nat) : List Nat := whole.flatMap fun j => laneWords t r (32 * (a % 2) + 2 * j) 2
    let s := s.foldS cols fun s p =>
      let s := s.setLane t r (32 * (a % 2) + p.1) (BitVec.ofNat 32 p.2.1)
      if mode < 3 then s else s.setLane t (r + 2) (32 * (a % 2) + p.1) (s.accIndex t i (32 * a + p.1))
    s.healWords 2 (words r ++ if mode < 3 then [] else words (r + 2))
  else if 3 ≤ mode then
    s.foldS cols fun s p =>
      let n := 32 * a + p.1
      s.setScratch t (addr64 dest ((e * 128 + n) * 8)) (leBytes 4 p.2.1 ++ leBytes 4 (s.accIndex t i n).toNat)
  else if fmtIsMX target then
    if keep.any id then
      let w := fmtBits target
      let at_ := addr64 dest ((e * 4 + a) * (4 * w))
      let s := s.setScratch t at_ (leBytes (4 * w) (mergeBlock w (s.scratchNat t at_ (4 * w)) codes keep))
      s.setScratch t (addr64 (align64 (dest + count * 4 * (4 * w))) (e * 4 + a)) [BitVec.ofNat 8 scale]
    else s
  else
    let w := fmtBits target / 8
    s.foldS cols fun s p => s.setScratch t (addr64 dest ((e * 128 + 32 * a + p.1) * w)) (leBytes w p.2.1)

end State

/-- READOUT_DONE (R122 to R126, R130, R156): entries and arrays in ascending order; the rows read return to CLEAR where the
clear flag asks. A readout with a zero column mask, which only clears (R124), still takes the draw of each value it reads (DEDUCED, log
entry 90). -/
def execReadoutDone (tile : TileId) (op : Nat) (waitOwn waitPort : Nat) (s : State) : Host.Outcome State Fault Refusal :=
  .next (match s.op? tile op with
    | some o =>
      match o.kind with
      | .readout mode index count mask target cls stoch clear toVec ts tw td colMask dest =>
        if ¬ o.started
          ∨ ¬ (toVec ∨ (s.scratchTurn tile o (readoutRanges mode count mask target dest colMask)
            ∧ s.rangesServe tile 1 o.ctx (.op op) (readoutRanges mode count mask target dest colMask))) then s
        else
          let one (p : State × Drawer × Stat) (ea : Nat × Nat) : State × Drawer × Stat :=
            let (s, d, st) := p
            let (e, a) := ea
            let keep := (upFrom 0 32).map fun c => bitsOf colMask (32 * a + c) 1 == 1
            let (cs, d) := s.readCells tile mode (index + e) a ts tw (upFrom 0 32) d
            let (codes, sc, q, d) := convertCells target td keep cs d
            let s := s.deliver tile mode count target dest e a (index + e) toVec keep codes sc
            (if clear then s.clearEntry tile mode (index + e) a else s, d, st.add q)
          let todo := (upFrom 0 count).flatMap fun e => (maskArrays mask).map fun a => (e, a)
          let (s, d, st) := todo.foldl one (s.readEntries tile mode index count mask o.ctx, s.gen tile s.job.seed stoch, .none)
          let s := ((s.setGen tile d).countStats tile target cls st).nanSeen tile st
          (s.bankWaits tile 1 waitOwn waitPort (some tile)).finish tile o
      | _ => s
    | none => s)

end Sys2Proof.Machine
end

