-- ==== Sys2Proof/Machine/Vector.lean ====
section
/-! DEFINITION. The vector class (R128, R129, R146, R157): the results are formed at issue from the lanes read there and land
with VECTOR_RESULT, or with BANK_ACCESS where scratch takes part. -/

namespace Sys2Proof.Machine

/-- A stored NaN is canonical (R45, R129). -/
def canon (x : Half) : Half := if (f32 x).isNaN then 0x7FC00000#32 else x

/-- VMAX and VMIN of a lane: the comparison of R129; on equality the first operand. -/
def vmaxLane (min : Bool) (a b : Half) : Half := canon (if takesOver min b 1 a 0 then b else a)

/-- A value within 1 ulp of an exact one, picked among all of them: the FP32 values on either side, or the value itself and its
neighbours where it is exact. -/
def within1 (t : FV) (pick : Nat) : Half :=
  let neg := t.neg?
  let mag (x : FV) : FV := x.abs
  let c := Fmt.fp32.encode (mag t) (.stoch 0)
  let v := Fmt.fp32.decode c
  let exact := !v.lt (mag t) && !(mag t).lt v
  let cs := if c = Fmt.fp32.infCode then [c] else if exact && decide (0 < c) then [c, c + 1, c - 1] else [c, c + 1]
  BitVec.ofNat 32 (Fmt.fp32.signed neg (cs.getD (pick % cs.length) c))

/-- VRSQRT of a lane: the results R157 lists, else within 1 ulp. -/
def vrsqrtLane (x : Half) : Half :=
  match f32 x with
  | .nan _ => 0x7FC00000#32
  | .inf neg => if neg then 0x7FC00000#32 else 0#32
  | .fin neg m _ =>
    if m = 0 then BitVec.ofNat 32 (Fmt.fp32.signed neg Fmt.fp32.infCode)
    else if neg then 0x7FC00000#32
    else within1 (f32 x).rsqrt (Config.rsqrtPick x)

/-- VRCP of a lane; the reciprocal of an infinity is a zero of its sign, as IEEE 754 gives it (R45). -/
def vrcpLane (x : Half) : Half :=
  match f32 x with
  | .nan _ => 0x7FC00000#32
  | .inf neg => BitVec.ofNat 32 (Fmt.fp32.signed neg 0)
  | .fin neg m _ =>
    if m = 0 then BitVec.ofNat 32 (Fmt.fp32.signed neg Fmt.fp32.infCode)
    else within1 ((FV.fin false 1 0).div (f32 x)) (Config.rcpPick x)

/-- The roots 2^(2^-1), 2^(2^-2) and so on, each rounded down to 80 fraction bits. -/
def exp2Roots : Nat → Nat → List Nat
  | 0, _ => []
  | n + 1, c => let r := FV.isqrt (c * 2 ^ 80) 81 0; r :: exp2Roots n r

/-- 64 roots: 2^(F / 2^64) is the product of those whose bits F has. -/
def exp2Table : List Nat := exp2Roots 64 (2 ^ 81)

/-- 2^(F / 2^64) with 80 fraction bits, rounded down, for F below 2^64. -/
def exp2Frac (f : Nat) : Nat :=
  (exp2Table.zip (upFrom 0 64)).foldl (fun p c => if f.testBit (63 - c.2) then p * c.1 / 2 ^ 80 else p) (2 ^ 80)

/-- The first n fraction bits of log2 (y / 2^160), for y / 2^160 from 1 to below 2, appended to l: the bits that squaring shows. -/
def log2Frac : Nat → Nat → Nat → Nat
  | 0, _, l => l
  | n + 1, y, l =>
    let z := y * y / 2 ^ 160
    if 2 ^ 161 ≤ z then log2Frac n (z / 2) (2 * l + 1) else log2Frac n z (2 * l)

/-- The FP32 value within 2 ulp of one that lies at FP32 magnitude c, or between c and the next: numbers at most two steps away. -/
def within2 (neg : Bool) (c : Nat) (exact : Bool) (pick : Nat) : Half :=
  let below := (if 1 ≤ c then [(neg, c - 1)] else []) ++ (if exact ∧ 2 ≤ c then [(neg, c - 2)] else [])
  let across := if exact ∧ c = 0 then [(true, 1), (true, 2)] else []
  let cs := ([(neg, c), (neg, c + 1), (neg, c + 2)].filter fun p => decide (p.2 ≤ Fmt.fp32.infCode)) ++ below ++ across
  let p := cs.getD (pick % cs.length) (neg, c)
  BitVec.ofNat 32 (Fmt.fp32.signed p.1 p.2)

/-- m × 2^e with 64 fraction bits, rounded down, and whether it is an integer. -/
def fixed64 (neg : Bool) (m : Nat) (e : Int) : Int × Bool :=
  let v : Int := if neg then -(m : Int) else m
  if 0 ≤ e then (v * 2 ^ (e.toNat + 64), true)
  else (v * 2 ^ 64 / 2 ^ (-e).toNat, v % 2 ^ (-e).toNat == 0)

/-- VEXP2 of a lane: 0 and +∞ where the result lies outside FP32, else within 2 ulp. Below −200 the result is nearer to 0 than to any
other number. -/
def vexp2Lane (x : Half) : Half :=
  match f32 x with
  | .nan _ => 0x7FC00000#32
  | .inf neg => if neg then 0#32 else 0x7F800000#32
  | .fin neg m e =>
    if !(FV.fin neg m e).lt (.fin false 128 0) then 0x7F800000#32
    else if (FV.fin neg m e).lt (.fin true 200 0) then within2 false 0 false (Config.exp2Pick x)
    else
      let (q, exact) := fixed64 neg m e
      let c := Fmt.fp32.encode (.fin false (exp2Frac (q % 2 ^ 64).toNat) (q / 2 ^ 64 - 80)) (.stoch 0)
      within2 false c exact (Config.exp2Pick x)

/-- VLOG2 of a lane; the logarithm of +∞ is +∞, as IEEE 754 arithmetic gives it (R45). -/
def vlog2Lane (x : Half) : Half :=
  match f32 x with
  | .nan _ => 0x7FC00000#32
  | .inf neg => if neg then 0x7FC00000#32 else 0x7F800000#32
  | .fin neg m e =>
    if m = 0 then 0xFF800000#32
    else if neg then 0x7FC00000#32
    else
      let k := Nat.log2 m
      let l := log2Frac 64 (m * 2 ^ (160 - k)) 0
      let v : Int := ((k : Int) + e) * 2 ^ 64 + l
      let c := Fmt.fp32.encode (.fin false v.natAbs (-64)) (.stoch 0)
      within2 (decide (v < 0)) c (m == 2 ^ k) (Config.log2Pick x)

/-- The pairwise tree of VSUM: pairs (0, 1), (2, 3) and so on, level by level. -/
def pairSum : List Half → List Half
  | a :: b :: r => fadd a b :: pairSum r
  | l => l
def treeSum (l : List Half) : Half := (pairSum (pairSum (pairSum (pairSum (pairSum (pairSum l)))))).headD 0

/-- The largest lane and its number (R129). -/
def largestLane : List (Half × Nat) → Half × Nat
  | [] => (0, 0)
  | p :: r => r.foldl (fun b q => if takesOver false q.1 q.2 b.1 b.2 then q else b) p

/-- The vector registers that an instruction reads (R157, R158). -/
def vecReads : Instr → List Nat
  | .vadd _ o | .vsub _ o | .vmul _ o | .vmax _ o | .vmin _ o => [o.va.toNat, o.vb.toNat]
  | .vfma _ o => [o.va.toNat, o.vb.toNat, o.vc.toNat]
  | .vrsqrt _ o | .vrcp _ o | .vexp2 _ o | .vlog2 _ o | .vsum _ o | .vmaxr _ o | .vcvt _ o => [o.va.toNat]
  | .vacc _ o => if o.imm.toNat / 2 ^ 10 % 4 = 0 then [o.va.toNat] else [o.va.toNat, o.vb.toNat]
  | .vst _ o => [o.vd.toNat]
  | _ => []

/-- The instruction reads its vector registers: words that fail their check are recorded (R578). -/
def State.readVec (s : State) (i : Instr) (h : Hdr) : State :=
  s.readBadStore h.tile 2 ((vecReads i).flatMap fun r => laneWords h.tile r 0 64) (agentId (.thread h.tile h.ctx 0))

/-- An instruction that needs the lease and leaves lanes for vd. -/
def vecOp (i : Instr) (h : Hdr) (vd : BitVec 4) (lanes : State → List Half) (s : State) : Host.Outcome State Fault Refusal :=
  .next (s.issue i h false [(6, !s.holdsLease h.tile h.ctx)] fun t =>
    (t.readVec i h).push h.tile h.ctx [40 + vd.toNat] (.vecLanes vd.toNat (lanes s)))

/-- An instruction that needs the lease and leaves a scalar for the rs2 register. -/
def vecScalarOp (i : Instr) (h : Hdr) (rd : BitVec 5) (v : State → Word) (s : State) : Host.Outcome State Fault Refusal :=
  .next (s.issue i h false [(6, !s.holdsLease h.tile h.ctx)] fun t =>
    (t.readVec i h).push h.tile h.ctx [rd.toNat] (.vecScalar rd.toNat (v s)))

/-- The lanes of va, vb, vc. -/
def laneA (h : Hdr) (o : VecOps) (s : State) : List Half := s.v h.tile o.va.toNat
def laneB (h : Hdr) (o : VecOps) (s : State) : List Half := s.v h.tile o.vb.toNat
def laneC (h : Hdr) (o : VecOps) (s : State) : List Half := s.v h.tile o.vc.toNat

def execVadd (h : Hdr) (o : VecOps) (s : State) : Host.Outcome State Fault Refusal :=
  vecOp (.vadd h o) h o.vd (fun s => List.zipWith fadd (laneA h o s) (laneB h o s)) s
def execVsub (h : Hdr) (o : VecOps) (s : State) : Host.Outcome State Fault Refusal :=
  vecOp (.vsub h o) h o.vd (fun s => List.zipWith fsub (laneA h o s) (laneB h o s)) s
def execVmul (h : Hdr) (o : VecOps) (s : State) : Host.Outcome State Fault Refusal :=
  vecOp (.vmul h o) h o.vd (fun s => List.zipWith fmul (laneA h o s) (laneB h o s)) s
def execVfma (h : Hdr) (o : VecOps) (s : State) : Host.Outcome State Fault Refusal :=
  vecOp (.vfma h o) h o.vd
    (fun s => ((laneA h o s).zip ((laneB h o s).zip (laneC h o s))).map fun p => ffma p.1 p.2.1 p.2.2) s
def execVmax (h : Hdr) (o : VecOps) (s : State) : Host.Outcome State Fault Refusal :=
  vecOp (.vmax h o) h o.vd (fun s => List.zipWith (vmaxLane false) (laneA h o s) (laneB h o s)) s
def execVmin (h : Hdr) (o : VecOps) (s : State) : Host.Outcome State Fault Refusal :=
  vecOp (.vmin h o) h o.vd (fun s => List.zipWith (vmaxLane true) (laneA h o s) (laneB h o s)) s
def execVrsqrt (h : Hdr) (o : VecOps) (s : State) : Host.Outcome State Fault Refusal :=
  vecOp (.vrsqrt h o) h o.vd (fun s => (laneA h o s).map vrsqrtLane) s
def execVrcp (h : Hdr) (o : VecOps) (s : State) : Host.Outcome State Fault Refusal :=
  vecOp (.vrcp h o) h o.vd (fun s => (laneA h o s).map vrcpLane) s
def execVexp2 (h : Hdr) (o : VecOps) (s : State) : Host.Outcome State Fault Refusal :=
  vecOp (.vexp2 h o) h o.vd (fun s => (laneA h o s).map vexp2Lane) s
def execVlog2 (h : Hdr) (o : VecOps) (s : State) : Host.Outcome State Fault Refusal :=
  vecOp (.vlog2 h o) h o.vd (fun s => (laneA h o s).map vlog2Lane) s
def execVbcast (h : Hdr) (o : VecOps) (s : State) : Host.Outcome State Fault Refusal :=
  vecOp (.vbcast h o) h o.vd (fun s => List.replicate 64 ((s.x h.tile h.ctx o.rs1.toNat).truncate 32)) s
def execVidx (h : Hdr) (o : VecOps) (s : State) : Host.Outcome State Fault Refusal :=
  vecOp (.vidx h o) h o.vd
    (fun s => (upFrom 0 64).map fun i => (s.x h.tile h.ctx o.rs1.toNat).truncate 32 + BitVec.ofNat 32 i) s
def execVsum (h : Hdr) (o : VecOps) (s : State) : Host.Outcome State Fault Refusal :=
  vecScalarOp (.vsum h o) h o.rs2 (fun s => (treeSum (laneA h o s)).zeroExtend 64) s
def execVmaxr (h : Hdr) (o : VecOps) (s : State) : Host.Outcome State Fault Refusal :=
  vecScalarOp (.vmaxr h o) h o.rs2 (fun s =>
    let b := largestLane ((laneA h o s).zip (upFrom 0 64))
    BitVec.ofNat 64 ((canon b.1).toNat + b.2 * 2 ^ 32)) s

/-- The scratch bytes of a VCVT or VLDC (R157). -/
def vcvtBytes (fmt : Nat) : Nat := 8 * fmtBits fmt + if fmtIsMX fmt then 2 else 0

/-- VCVT (R157): the lanes are read at issue, converted and stored with BANK_ACCESS. -/
def execVcvt (h : Hdr) (o : VecOps) (s : State) : Host.Outcome State Fault Refusal :=
  let a := (s.x h.tile h.ctx o.rs1.toNat).toNat
  .next (s.issue (.vcvt h o) h false
    [(6, !s.holdsLease h.tile h.ctx), (7, !rotateOk a (vcvtBytes o.fmt.toNat))] fun t =>
    (t.readVec (.vcvt h o) h).push h.tile h.ctx []
      (.vcvt a o.fmt.toNat o.cls.toNat (o.rnd == 1) (tensorScale ((s.x h.tile h.ctx o.rs2.toNat).truncate 32)).1 (laneA h o s)))

/-- VLDC (R157): the elements are read and decoded with BANK_ACCESS. -/
def execVldc (h : Hdr) (o : VecOps) (s : State) : Host.Outcome State Fault Refusal :=
  let a := (s.x h.tile h.ctx o.rs1.toNat).toNat
  .next (s.issue (.vldc h o) h false
    [(6, !s.holdsLease h.tile h.ctx), (7, !rotateOk a (vcvtBytes o.fmt.toNat))] fun t =>
    t.push h.tile h.ctx [40 + o.vd.toNat]
      (.vldc a o.fmt.toNat o.cls.toNat o.vd.toNat (tensorScale ((s.x h.tile h.ctx o.rs2.toNat).truncate 32)).1))

/-- The accumulation mode of a VACC operation: S, MAX, MIN. -/
def vaccMode (op : Nat) : Nat := if op = 0 then 1 else op + 2

/-- VACC (R128, R112, R114): lanes and indices are read at issue; the addition is done with VECTOR_RESULT. -/
def execVacc (h : Hdr) (o : VecOps) (s : State) : Host.Outcome State Fault Refusal :=
  let entry := bitsOf o.imm.toNat 0 10
  let op := bitsOf o.imm.toNat 10 2
  let half := bitsOf o.imm.toNat 12 1
  .next (s.issue (.vacc h o) h false
    [(2, !(accBound (vaccMode op) entry 1 && s.rowsOk h.tile (vaccMode op) entry 1 (if half = 0 then 3 else 12))),
     (6, !s.holdsLease h.tile h.ctx)] fun t =>
    (t.readVec (.vacc h o) h).push h.tile h.ctx [] (.vacc op half entry (o.rnd == 1) (laneA h o s) (laneB h o s)))

/-- VLEASE (R146): granted at once if the lease is free, else the thread waits with cause 4, which is no outstanding
instruction (DEDUCED, log entry 93); by the holder it has no effect. -/
def execVlease (h : Hdr) (o : VecOps) (s : State) : Host.Outcome State Fault Refusal :=
  .next (s.issue (.vlease h o) h false [] fun t =>
    let tl := t.tileOf h.tile
    if t.holdsLease h.tile h.ctx then t
    else if tl.lease = none then t.setTile h.tile { tl with lease := some h.ctx.val }
    else (t.setTile h.tile { tl with leaseWait := tl.leaseWait ++ [h.ctx.val] }).modThr h.tile h.ctx fun th => { th with hold := 4 })

/-- VRELEASE (R146): the release takes effect once the thread's vector instructions have completed. -/
def execVrelease (h : Hdr) (o : VecOps) (s : State) : Host.Outcome State Fault Refusal :=
  .next (s.issue (.vrelease h o) h false [(6, !s.holdsLease h.tile h.ctx)] fun t => t.leaseRelease h.tile h.ctx)

namespace State

/-- The 64 lanes of a VACC added or compared into their entry, lanes in ascending order (R128). -/
def vaccLanes (s : State) (t op half entry : Nat) (d : Drawer) : List (Half × Half × Nat) → State × Drawer
  | [] => (s, d)
  | (v, j, i) :: r =>
    let col := 64 * half + i
    if op = 0 then
      let (s, d) := s.addAcc t 1 entry col (s.accValue t 1 entry col) (f32 v) d
      s.vaccLanes t op half entry d r
    else
      let s := s.maxAcc t (vaccMode op) entry col v j
      s.vaccLanes t op half entry d r

/-- The rows of a MAX or MIN entry take their state once its lanes are in (R114). -/
def markEntry (s : State) (t mode i mask : Nat) : State :=
  s.foldS (maskArrays mask) fun s a => s.foldS (accRows mode i) fun s r => s.setRow t r a ⟨mode + 1, false, false⟩

end State

/-- VECTOR_RESULT (R157, R128): a result lands in its vector or scalar register, or in accumulator memory after `waited` beats
for a write slot (R127). -/
def execVectorResult (tile : TileId) (op : Nat) (waited : Nat) (s : State) : Host.Outcome State Fault Refusal :=
  .next (match s.op? tile op with
    | some o =>
      match o.kind with
      | .vecLanes vd lanes => (s.setLanes tile vd 0 lanes).finish tile o
      | .vecScalar rd v => (s.setX tile o.ctx rd v).finish tile o
      | .vacc op half entry stoch vals idxs =>
        if s.accTurn tile o then
          let mask := if half = 0 then 3 else 12
          let s := (s.count (bTile tile) .AM_VEC_WAIT waited).readEntries tile (vaccMode op) entry 1 mask o.ctx
          let lanes := vals.zip (idxs.zip (upFrom 0 64))
          if op = 0 then
            let s := s.foldS (maskArrays mask) fun s a => s.openEntry tile 1 entry a
            let (s, d) := s.vaccLanes tile op half entry (s.gen tile s.job.seed stoch) lanes
            (s.setGen tile d).finish tile o
          else
            let s := s.foldS (maskArrays mask) fun s a => s.renewRows tile (vaccMode op) entry a
            let (s, _) := s.vaccLanes tile op half entry ⟨false, 0, 0⟩ lanes
            (s.markEntry tile (vaccMode op) entry mask).finish tile o
        else s
      | _ => s
    | none => s)

end Sys2Proof.Machine
end

