-- ==== Sys2Proof/Machine/TileMem.lean ====
section
/-! DEFINITION. The memory class and the scratch banks (R158 to R160, R173 to R186): LD, ST, VLD, VST, DMA, the accesses served at
the banks, handovers. Device accesses complete in DeviceSpace.lean. -/

namespace Sys2Proof.Machine

/-- rs1 + sext(offset) (R158). -/
def memAddr (h : Hdr) (o : MemOps) (s : State) : Nat :=
  (s.x h.tile h.ctx o.rs1.toNat + o.offset.signExtend 64).toNat

/-- The size in bytes (R158). -/
def memSize (o : MemOps) : Nat := 2 ^ o.size.toNat

/-- A register block stands at K, I (R313). -/
def blockAt (k i : Nat) : Bool :=
  match k with
  | 0 => i < 8
  | 1 => i < 4
  | 2 => i < 12
  | 3 => i < 672
  | 4 => i < 10752
  | 5 => i < 43008
  | 6 => i < 96 && i % 8 < 6
  | 7 => i < 6
  | 8 => i < 4
  | 9 => i < 1032
  | _ => false

/-- A device address is mapped (R306, R313). -/
def State.devMapped (s : State) (a : Nat) : Bool :=
  match s.target a with
  | .unmapped => false
  | .regs off => blockAt (off / 2 ^ 40) (off % 2 ^ 40 / 2 ^ 16)
  | _ => true

/-- The address causes of a scalar access (R159). -/
def scalarFaults (h : Hdr) (o : MemOps) (s : State) : List (Nat × Bool) :=
  let a := memAddr h o s
  let n := memSize o
  if o.space = 0 then [(7, a % n != 0 || !inScratch a n)]
  else [(8, a % n != 0 || !s.devMapped a)]

/-- The address causes of a vector access (R159, R179). -/
def vectorFaults (h : Hdr) (o : MemOps) (s : State) : List (Nat × Bool) :=
  let a := memAddr h o s
  if o.space = 0 then
    [(6, !s.holdsLease h.tile h.ctx),
     (7, !inScratch a 256 || (o.rotate == 0 && a % 64 != 0) || a / 0x10000 != (a + 255) / 0x10000)]
  else [(6, !s.holdsLease h.tile h.ctx), (8, true)]

/-- LD (R158). -/
def execLd (h : Hdr) (o : MemOps) (s : State) : Host.Outcome State Fault Refusal :=
  let a := memAddr h o s
  .next (s.issue (.ld h o) h false (scalarFaults h o s) fun t =>
    t.push h.tile h.ctx [o.rd.toNat]
      (if o.space = 0 then .ld a (memSize o) o.rd.toNat (o.signed == 1) else .devLd a (memSize o) o.rd.toNat (o.signed == 1)))

/-- ST (R158): the register's value is read at issue. -/
def execSt (h : Hdr) (o : MemOps) (s : State) : Host.Outcome State Fault Refusal :=
  let a := memAddr h o s
  let v := s.x h.tile h.ctx o.rd.toNat
  .next (s.issue (.st h o) h false (scalarFaults h o s) fun t =>
    t.push h.tile h.ctx [] (if o.space = 0 then .st a (memSize o) v else .devSt a (memSize o) v))

/-- VLD (R158). -/
def execVld (h : Hdr) (o : MemOps) (s : State) : Host.Outcome State Fault Refusal :=
  let a := memAddr h o s
  .next (s.issue (.vld h o) h false (vectorFaults h o s) fun t => t.push h.tile h.ctx [40 + o.vd.toNat] (.vld a o.vd.toNat))

/-- VST (R158): the lanes are read at issue. -/
def execVst (h : Hdr) (o : MemOps) (s : State) : Host.Outcome State Fault Refusal :=
  let a := memAddr h o s
  .next (s.issue (.vst h o) h false (vectorFaults h o s) fun t =>
    (t.readVec (.vst h o) h).push h.tile h.ctx [] (.vst a (s.v h.tile o.vd.toNat)))

/-- DMA (R158, R159, R328): the descriptor at rs1 + sext(offset) (log entry 93) is copied at issue and posted with BANK_ACCESS; where its
bytes cannot be read then, because the sequencer does not own their bank (R175) or an earlier write of the thread is yet to land (R160),
BANK_ACCESS reads them first (log entry 97). -/
def execDma (h : Hdr) (o : MemOps) (s : State) : Host.Outcome State Fault Refusal :=
  let a := memAddr h o s
  .next (s.issue (.dma h o) h false [(7, !inScratch a 64)] fun t =>
    let id := (t.tileOf h.tile).nextId
    let op : TileOp := ⟨id, h.ctx, [], .postDma a o.rd.toNat none, false, 0⟩
    if t.scratchTurn h.tile op [(a, 64)] && t.banksServe h.tile a 64 0 h.ctx (.op id) then
      (t.opBad h.tile op [(a, 64)]).push h.tile h.ctx [o.rd.toNat] (.postDma a o.rd.toNat (some (t.scratchBytes h.tile a 64)))
    else t.push h.tile h.ctx [o.rd.toNat] (.postDma a o.rd.toNat none))

/-! ### Banks -/

/-- A value extended to 64 bits (R158). -/
def extended (n : Nat) (signed : Bool) (v : Nat) : Word :=
  if signed then BitVec.ofInt 64 (toSigned (8 * n) v) else BitVec.ofNat 64 v

/-- The lanes a stored vector register holds, little-endian. -/
def lanesOf (bs : List Byte) : List Half := (chunks 4 64 bs).map fun c => BitVec.ofNat 32 (leNat c)

namespace State

def dmaEng (s : State) (e : Nat) : DmaEng := Tbl.get (fun _ => DmaEng.reset) s.ms.dma e
def modDma (s : State) (e : Nat) (f : DmaEng → DmaEng) : State :=
  { s with ms.dma := Tbl.put (fun _ => DmaEng.reset) s.ms.dma e (f (s.dmaEng e)) }

/-- A post has met a full queue: its thread waits, with cause 7, until a slot frees for it (R163, R328). -/
def waitSlot (s : State) (t id : Nat) : State := s.modOp t id fun o => { o with started := true }

/-- The work of a scratch access that its bank serves: VCVT, VLDC, LD, ST, VLD, VST and the posts of descriptors. -/
def serve (s : State) (t : Nat) (o : TileOp) : State :=
  match o.kind with
  | .ld a n rd sg => (s.setX t o.ctx rd (extended n sg (s.scratchNat t a n))).finish t o
  | .st a n v => (s.setScratch t a (leBytes n v.toNat)).finish t o
  | .vld a vd => (s.setLanes t vd 0 (lanesOf (s.scratchBytes t a 256))).finish t o
  | .vst a ls => (s.setScratch t a (ls.flatMap fun l => leBytes 4 l.toNat)).finish t o
  | .vcvt a f cls stoch scale ls =>
    let d := s.gen t s.job.seed stoch
    let w := fmtBits f
    if fmtIsMX f then
      let (codes, scs, st, d) := mxBlocks f scale (chunks 32 2 ls) d
      let s := s.setScratch t a (packBytes w codes ++ scs.map (BitVec.ofNat 8 ·))
      (((s.setGen t d).countStats t f cls st).nanSeen t st).finish t o
    else
      let (codes, st, d) := wideAll f ls d
      let s := s.setScratch t a (packBytes w codes)
      (((s.setGen t d).countStats t f cls st).nanSeen t st).finish t o
  | .vldc a f cls vd scale =>
    let w := fmtBits f
    let es := unpackBytes w 64 (s.scratchBytes t a (8 * w))
    let scs := s.scratchBytes t (a + 8 * w) 2
    let one (p : Nat × Nat) : Half × Stat :=
      if fmtIsMX f then mxToF32 f scale (scs.getD (p.2 / 32) 0).toNat p.1
      else
        let (c, st, _) := toWide 8 ((fmtOf f).decode p.1) ⟨false, 0, 0⟩
        (BitVec.ofNat 32 c, st)
    let vs := (es.zip (upFrom 0 64)).map one
    let st := vs.foldl (fun a p => a.add p.2) Stat.none
    (((s.setLanes t vd 0 (vs.map (·.1))).countStats t 8 cls st).nanSeen t st).finish t o
  | .post a rd q sc =>
    let d := s.scratchBytes t a 64
    let d := match sc with | some b => dset d 58 1 (if b then 1 else 0) | none => d
    match s.append q d with
    | (.taken n, s) => (s.setX t o.ctx rd (n.zeroExtend 64)).finish t o
    | (.refused, s) => (s.setX t o.ctx rd (-1)).finish t o
    | (.full, s) => s.waitSlot t o.id
  | .postDma a rd copy =>
    let d := copy.getD (s.scratchBytes t a 64)
    let e := regionOfTile t * 4 + dbits d 281 2
    let eng := s.dmaEng e
    if 64 ≤ eng.fifo.length then (s.modOp t o.id fun o => { o with kind := .postDma a rd (some d) }).waitSlot t o.id
    else
      let s := s.modDma e fun g => { g with seq := (g.seq + 1) % 2 ^ 32, fifo := g.fifo ++ [(g.seq, d)] }
      ((s.meetDues fifoQueue 4 e d s.job.due).setX t o.ctx rd (BitVec.ofNat 64 eng.seq)).finish t o
  | _ => s

end State

/-- BANK_ACCESS (R160, R173, R175, R178, R180): the access is served once its master owns the banks and the thread's earlier accesses to its
bytes have taken effect; the beats it waited on ownership and on the port are counted. Which of the owner's accesses the port grants in
one beat is timing, given by the order of the rows (log entry 5). -/
def execBankAccess (tile : TileId) (op : Nat) (waitOwn waitPort : Nat) (s : State) : Host.Outcome State Fault Refusal :=
  .next (match s.op? tile op with
    | some o =>
      let (master, rs) := opRanges o.kind
      if (rs.isEmpty ∧ ¬ o.kind matches .postDma ..) ∨ ¬ s.scratchTurn tile o rs ∨ ¬ s.rangesServe tile master o.ctx (.op op) rs then s
      else
        let t := s.serve tile o
        let waits := (t.op? tile op).any fun p => p.kind == o.kind
        (if waits || writesScratch o.kind then t else t.opBad tile o rs).bankWaits tile master waitOwn waitPort (some tile)
    | none => s)

end Sys2Proof.Machine
end

