-- ==== Sys2Proof/Machine/Handover.lean ====
section
/-! DEFINITION. Bank handovers (R176, R177, R181, R182) and their rows. -/

namespace Sys2Proof.Machine

namespace State

/-- What a bank's owner in force has accepted and not completed that accesses the bank (R176). -/
def ownerWork (s : State) (t k : Nat) : List Token :=
  let own := s.getF (bTile t) Fld.BANK_OWN_CUR_OWNER k
  let th := s.flag (bTile t) Fld.BANK_OWN_CUR_THREAD_EN k
  let c := s.getF (bTile t) Fld.BANK_OWN_CUR_THREAD k
  let ops := (s.tileOf t).ops.filter fun o =>
    (opRanges o.kind).1 == own && (own != 0 || !th || o.ctx == c) &&
      (s.opAccess t o).any fun r => (banksOf r.1 r.2).contains k
  let descs := s.queues.flatMap fun e =>
    (e.2.taken ++ e.2.running).filterMap fun d => if (s.descBanks e.1 t own d.1 d.2).contains k then some (.desc e.1 d.1) else none
  let fifos := if own = 3 then (upFrom (4 * regionOfTile t) 4).flatMap fun e =>
      (s.dmaEng e).active.filterMap (fun j =>
        if j.queue.isNone && (s.dmaBanks (regionOfTile t) t j.d).contains k then some (Token.fifo e j.seq) else none)
        ++ (s.dmaEng e).fifo.filterMap fun p =>
          if (s.dmaBanks (regionOfTile t) t (dmaOf p.2)).contains k then some (Token.fifo e p.1) else none
    else []
  ops.map (fun o => .op o.id) ++ descs ++ fifos

/-- Work a token names has yet to access the bank (R176). -/
def tokenLive (s : State) (t k : Nat) : Token → Bool
  | .op i => (s.tileOf t).ops.any fun o => o.id == i && (s.opAccess t o).any fun r => (banksOf r.1 r.2).contains k
  | .desc q n => ((s.queue q).taken ++ (s.queue q).running).any fun d =>
      d.1 == n && (s.descBanks q t (s.getF (bTile t) Fld.BANK_OWN_CUR_OWNER k) n d.2).contains k
  | .fifo e n => ((s.dmaEng e).active.any fun j => j.queue.isNone && j.seq == n) || (s.dmaEng e).fifo.any fun p => p.1 == n

/-- A write of BANK_OWN (R176, R184): owner codes 5 to 7 are clamped to 4. `self` is the work that makes the write as it completes. -/
def bankOwnWrite (s : State) (t k v : Nat) (self : Option Token := none) : State :=
  let b := bTile t
  let own := min 4 (bitsOf v 0 3)
  let en := bitsOf v 3 1
  let th := bitsOf v 4 7
  let s := ((s.setF b Fld.BANK_OWN_OWNER own k).setF b Fld.BANK_OWN_THREAD_EN en k).setF b Fld.BANK_OWN_THREAD th k
  if s.flag b Fld.BANK_OWN_PENDING k then s
  else if own = s.getF b Fld.BANK_OWN_CUR_OWNER k
    ∧ (own ≠ 0 ∨ (en = s.getF b Fld.BANK_OWN_CUR_THREAD_EN k ∧ (en = 0 ∨ th = s.getF b Fld.BANK_OWN_CUR_THREAD k))) then s
  else
    match (s.ownerWork t k).filter fun w => some w != self with
    | [] => s.handover t k
    | ws => (s.setFlag b Fld.BANK_OWN_PENDING true k).setDrains t k ws

/-- Owner-after: as a descriptor completes, the owner is written to the BANK_OWN of each named bank of a tile (R177). -/
def ownerAfter (s : State) (t : Nat) (oa : Option Nat) (banks : List Nat) (self : Token) : State :=
  match oa with
  | none => s
  | some v => s.foldS ((upFrom 0 4).filter banks.contains) fun s k => s.bankOwnWrite t k v (some self)

end State

/-- BANK_OWN_WRITE (R176). -/
def execBankOwnWrite (tile : TileId) (bank : Fin 4) (value : BitVec 32) (s : State) : Host.Outcome State Fault Refusal :=
  .next (s.ifReached (bTile tile) (s.bankOwnWrite tile bank value.toNat))

/-- BANK_HANDOVER_DONE (R176): nothing the old owner had accepted is outstanding and the new owner takes the bank. -/
def execBankHandoverDone (tile : TileId) (bank : Fin 4) (s : State) : Host.Outcome State Fault Refusal :=
  .next (s.ifRuns (clusterOfTile tile) (if s.flag (bTile tile) Fld.BANK_OWN_PENDING bank
      ∧ (s.drainsOf tile bank).all (fun w => !s.tokenLive tile bank w) then s.handover tile bank
    else s))

/-- BANK_LONG_WAIT (R181): the bit and the event, unless the bit is set. -/
def execBankLongWait (tile : TileId) (bank : Fin 4) (s : State) : Host.Outcome State Fault Refusal :=
  let b := bTile tile
  let bits := s.getF b Fld.BANK_STATUS_LONG_WAIT
  .next (if bitsOf bits bank 1 = 1 then s
    else ((s.setF b Fld.BANK_STATUS_LONG_WAIT (setBits bits bank 1 1)).irq (srcCluster (clusterOfTile tile) 0)).event 0x0003
      (udTile tile) bank)

namespace State

/-- Every bank of a tile returns to owner 0, every thread, nothing pending (R182). -/
def resetBanks (s : State) (t : Nat) : State :=
  s.foldS (upFrom 0 4) fun s k => (s.setReg (bTile t) .BANK_OWN k 0).setDrains t k []

/-- Scratch, accumulator memory and vector registers of a tile filled with zeros (R115, R147, R182). -/
def zeroFill (s : State) (t : Nat) : State :=
  let s := { s with
    mem.scratch := Memory.clearRange s.mem.scratch (scratchKey t 0) (scratchKey t 0x40000)
    mem.badScratch := s.mem.badScratch.filter fun w => w < t * 2 ^ 15 || (t + 1) * 2 ^ 15 ≤ w
    mem.badWords := s.mem.badWords.filter fun e => !((e.1 == 1 && e.2 / 24576 == t) || (e.1 == 2 && e.2 / 512 == t))
    tile.acc := Tbl.dropRange s.tile.acc (t * 49152) (t * 49152 + 49152)
    tile.vreg := Tbl.dropRange s.tile.vreg (t * 1024) (t * 1024 + 1024) }
  (s.clearAllRows t).resetBanks t

end State

/-- ZERO_FILL_DONE (R182): the fill that a wake from OFF began completes and waiting accesses proceed. -/
def execZeroFillDone (tile : TileId) (s : State) : Host.Outcome State Fault Refusal :=
  .next (s.ifRuns (clusterOfTile tile) (if s.flag (bTile tile) Fld.BANK_STATUS_CLEARING then
      (s.zeroFill tile).setFlag (bTile tile) Fld.BANK_STATUS_CLEARING false
    else s))

end Sys2Proof.Machine
end

