-- ==== Sys2Proof/Machine/TileSync.lean ====
section
/-! DEFINITION. The synchronisation and graph classes (R161 to R163). -/

namespace Sys2Proof.Machine

/-! ### Synchronisation class -/

/-- The counter number in rs1 and its cause of fault (R161). -/
def syncCounter (h : Hdr) (o : SyncOps) (s : State) : Nat := (s.x h.tile h.ctx o.rs1.toNat).toNat
def syncFaults (h : Hdr) (o : SyncOps) (s : State) : List (Nat × Bool) := [(10, !counterOk (syncCounter h o s))]

/-- The operand n or N (R161). -/
def syncN (h : Hdr) (o : SyncOps) (s : State) : Nat :=
  if o.useImm = 1 then o.imm.toNat else (s.x h.tile h.ctx o.rs2.toNat).toNat % 2 ^ 32

/-- SADD (R161): outstanding until it is released (R162). -/
def execSadd (h : Hdr) (o : SyncOps) (s : State) : Host.Outcome State Fault Refusal :=
  .next (s.issue (.sadd h o) h false (syncFaults h o s) fun t =>
    t.push h.tile h.ctx [o.rd.toNat] (.sync false (syncN h o s) (syncCounter h o s) o.rd.toNat))

/-- SSUB (R161). -/
def execSsub (h : Hdr) (o : SyncOps) (s : State) : Host.Outcome State Fault Refusal :=
  .next (s.issue (.ssub h o) h false (syncFaults h o s) fun t =>
    t.push h.tile h.ctx [o.rd.toNat] (.sync true (syncN h o s) (syncCounter h o s) o.rd.toNat))

/-- The counter of an outstanding operation of the synchronisation class: the module for a remote one, and the number. -/
def syncTarget : OpKind → Option (Option Nat × Nat)
  | .sync _ _ c _ | .syncWait _ c _ | .syncRead c _ => some (none, c)
  | .signal c _ _ _ module _ => some (some module, c)
  | _ => none

/-- An earlier operation of the thread on a counter is outstanding: the operations of one agent on one counter arrive in the order it
issued them (R382). -/
def State.syncBehind (s : State) (t c id : Nat) (k : Option Nat × Nat) : Bool :=
  (s.opsOf t c).any fun p => p.id < id && syncTarget p.kind == some k

/-- SWAIT (R161): the completion word is written at once, or the thread waits with cause 5; behind an operation of its own on the
counter the wait is outstanding, and the thread waits with cause 6 until that operation has been released (R162, R170; log entry 98).
A thread that waits with cause 5 has no outstanding instruction by it (DEDUCED, log entry 93). -/
def execSwait (h : Hdr) (o : SyncOps) (s : State) : Host.Outcome State Fault Refusal :=
  .next (s.issue (.swait h o) h false (syncFaults h o s) fun t =>
    let c := syncCounter h o s
    if t.syncBehind h.tile h.ctx (t.tileOf h.tile).nextId (none, c) then
      (t.push h.tile h.ctx [o.rd.toNat] (.syncWait (syncN h o s) c o.rd.toNat)).modThr h.tile h.ctx fun th => { th with hold := 6 }
    else
      match t.syncWait (.thread h.tile h.ctx o.rd.toNat) c (syncN h o s) with
      | (some w, t) => t.setX h.tile h.ctx o.rd.toNat (BitVec.ofNat 64 w)
      | (none, t) => t.modThr h.tile h.ctx fun th => { th with hold := 5 })

/-- SREAD (R161): rd takes the completion word, whose low half is the counter's value (R383); behind an operation of its own on the
counter the read is outstanding. -/
def execSread (h : Hdr) (o : SyncOps) (s : State) : Host.Outcome State Fault Refusal :=
  .next (s.issue (.sread h o) h false (syncFaults h o s) fun t =>
    let c := syncCounter h o s
    if t.syncBehind h.tile h.ctx (t.tileOf h.tile).nextId (none, c) then
      t.push h.tile h.ctx [o.rd.toNat] (.syncRead c o.rd.toNat)
    else
      let (w, t) := t.syncRead c
      t.setX h.tile h.ctx o.rd.toNat (BitVec.ofNat 64 w))

/-- SSIGNAL (R161): outstanding until it is released. -/
def execSsignal (h : Hdr) (o : SyncOps) (s : State) : Host.Outcome State Fault Refusal :=
  let v := (s.x h.tile h.ctx o.rs2.toNat).toNat
  .next (s.issue (.ssignal h o) h false (syncFaults h o s) fun t =>
    t.push h.tile h.ctx [o.rd.toNat]
      (.signal (syncCounter h o s) o.rd.toNat (v % 2 ^ 32) (v / 2 ^ 32) (bitsOf o.imm.toNat 0 16) (bitsOf o.imm.toNat 16 2)))

/-- A write that a sync operation of the same thread waits for (R162). -/
def isWrite : OpKind → Bool
  | .st .. | .vst .. | .vcvt .. | .devSt .. => true
  | .readout _ _ _ _ _ _ _ _ toVec _ _ _ _ _ => !toVec
  | _ => false

/-- The completion word of a remote signal and the state (R383, R387): REFUSED without effect; one to this module shows the counter's
value; the value of a counter of another module is not stated and is free (log entry 32). -/
def State.signalWord (s : State) (c seq bytes module level : Nat) : Nat × State :=
  if s.signalRefused module level then
    let (v, s) := s.freshWord
    (completion v.toNat 4, s)
  else
    let s := s.sendSignal module level seq c bytes
    if module = s.selfModule then (completion (s.counterOf c).value (if (s.counterOf c).abandoned then 3 else 0), s)
    else
      let (v, s) := s.freshWord
      (completion v.toNat 0, s)

/-- SYNC_OP_RELEASE (R162, R381, R382, R387): the add or subtract takes effect at its memory, or the remote signal leaves for its
module, once every earlier write of the thread has completed; a wait or read that stands behind them takes its turn. -/
def execSyncOpRelease (tile : TileId) (op : Nat) (s : State) : Host.Outcome State Fault Refusal :=
  .next (match s.op? tile op with
    | some o =>
      let writes := (s.tileOf tile).ops.any fun p => p.ctx == o.ctx && p.id < o.id && isWrite p.kind
      let behind := match syncTarget o.kind with
        | some k => s.syncBehind tile o.ctx o.id k
        | none => false
      if behind then s
      else
        match o.kind with
        | .sync sub n c rd =>
          if writes then s
          else
            let (w, s) := s.syncAdd (agentId (.thread tile o.ctx 0)) 0 c n sub
            (s.setX tile o.ctx rd (BitVec.ofNat 64 w)).finish tile o
        | .signal c rd sq bytes module level =>
          if writes then s
          else
            let (w, s) := s.signalWord c sq bytes module level
            (s.setX tile o.ctx rd (BitVec.ofNat 64 w)).finish tile o
        | .syncWait n c rd =>
          match s.syncWait (.thread tile o.ctx rd) c n with
          | (some w, s) => ((s.setX tile o.ctx rd (BitVec.ofNat 64 w)).modThr tile o.ctx fun th => { th with hold := 0 }).finish tile o
          | (none, s) => (s.modThr tile o.ctx fun th => { th with hold := 5 }).finish tile o
        | .syncRead c rd =>
          let (w, s) := s.syncRead c
          (s.setX tile o.ctx rd (BitVec.ofNat 64 w)).finish tile o
        | _ => s
    | none => s)

/-! ### Graph and queue class -/

/-- The descriptor address in rs1 (R163). -/
def graphAddr (h : Hdr) (o : GraphOps) (s : State) : Nat := (s.x h.tile h.ctx o.rs1.toNat).toNat

/-- The causes of a post (R163, R164). -/
def graphFaults (h : Hdr) (o : GraphOps) (s : State) : List (Nat × Bool) :=
  [(7, graphAddr h o s % 64 != 0 || !inScratch (graphAddr h o s) 64)]

/-- A post goes outstanding with the number of its queue (R140, R163). -/
def State.pushPost (s : State) (h : Hdr) (o : GraphOps) (a q : Nat) (scatter : Option Bool) : State :=
  s.push h.tile h.ctx [o.rd.toNat] (.post a o.rd.toNat q scatter)

/-- SMPL (R163). -/
def execSmpl (h : Hdr) (o : GraphOps) (s : State) : Host.Outcome State Fault Refusal :=
  .next (s.issue (.smpl h o) h false (graphFaults h o s) fun t => t.pushPost h o (graphAddr h o s) (State.tileQueue h.tile 0) none)

/-- GATH (R163, R237). -/
def execGath (h : Hdr) (o : GraphOps) (s : State) : Host.Outcome State Fault Refusal :=
  .next (s.issue (.gath h o) h false (graphFaults h o s) fun t =>
    t.pushPost h o (graphAddr h o s) (State.tileQueue h.tile 1) (some false))

/-- SCAT (R163, R237). -/
def execScat (h : Hdr) (o : GraphOps) (s : State) : Host.Outcome State Fault Refusal :=
  .next (s.issue (.scat h o) h false (graphFaults h o s) fun t =>
    t.pushPost h o (graphAddr h o s) (State.tileQueue h.tile 1) (some true))

/-- EMBD (R163). -/
def execEmbd (h : Hdr) (o : GraphOps) (s : State) : Host.Outcome State Fault Refusal :=
  .next (s.issue (.embd h o) h false (graphFaults h o s) fun t => t.pushPost h o (graphAddr h o s) (State.tileQueue h.tile 2) none)

/-- QPOST (R163): the queue context numbered rs2. -/
def execQpost (h : Hdr) (o : GraphOps) (s : State) : Host.Outcome State Fault Refusal :=
  let q := (s.x h.tile h.ctx o.rs2.toNat).toNat
  .next (s.issue (.qpost h o) h false ((11, decide (262143 < q)) :: graphFaults h o s) fun t =>
    t.pushPost h o (graphAddr h o s) q none)

end Sys2Proof.Machine
end

