-- ==== Sys2Proof/Machine/TileRegs.lean ====
section
/-! DEFINITION. Writes of the tiles' and arrays' control registers that have rows of their own (R69, R103, R105, R132, R143,
R145, R167, R170, R185, R205). -/

namespace Sys2Proof.Machine
namespace State

/-! ### Arrays -/

/-- A load or multiply that has started is in an array (R105, R106). -/
def arrayWork (s : State) (arr : Nat) : Bool :=
  (s.tileOf (arr / 4)).ops.any fun o => o.started && (match o.kind with
    | .wload _ _ _ mask _ _ _ | .mma _ _ mask _ _ _ _ _ _ _ _ _ _ => (maskArrays mask).contains (arr % 4)
    | _ => false)

/-- The array has drained: no load is in it, and of a multiply no element that entered has its results still to write (R96, R106). A
multiply held between elements has none. -/
def drained (s : State) (arr : Nat) : Bool :=
  (s.tileOf (arr / 4)).ops.all fun o => !(o.started && (match o.kind with
    | .wload _ _ _ mask _ _ _ => (maskArrays mask).contains (arr % 4)
    | .mma _ _ mask _ _ _ _ _ _ _ _ _ _ => entered o && (maskArrays mask).contains (arr % 4)
    | _ => false))

/-- HELD_SW: HOLD is 1 and the array has drained (R106). -/
def heldSw (s : State) (arr : Nat) : Bool := s.flag (bArray arr) Fld.ARR_CTRL_HOLD && s.drained arr

/-- A piece of a wide weight moves into the other plane of an array (R93, R106): the multiply in it has a later pass that names another
weight piece than the pass in progress; the move shows for the whole of that pass (log entry 94). -/
def pieceMove (s : State) (arr : Nat) : Bool :=
  (s.tileOf (arr / 4)).ops.any fun o => o.started && (match o.kind with
    | .mma fmt plane mask _ _ reduced _ _ _ _ m _ _ =>
      (maskArrays mask).contains (arr % 4) &&
        let own := passSet (fmtPieces fmt) (fmtPieces (s.plane arr plane).fmt) reduced
        let all := passSet (fmtPieces fmt) (s.weightPieces (arr / 4) mask plane) reduced
        match ((all.take (o.progress / m + 1)).filter own.contains).getLast?, ((all.drop (o.progress / m + 1)).filter own.contains).head? with
        | some p, some q => p.2 != q.2
        | _, _ => false
    | _ => false)

/-- The blown fuses keep a field of the remap (R103): bits [5:0] row, [11:6] column. -/
def remapMerge (old fuse new : Nat) : Nat :=
  let pick (lo : Nat) : Nat := if bitsOf fuse (lo + 5) 1 = 1 then bitsOf old lo 6 else bitsOf new lo 6
  pick 0 + pick 6 * 2 ^ 6

/-- An array's fuse row failed its parity: it counts as blown, and its spares as used (R577). -/
def fuseRowBad (s : State) (arr : Nat) : Bool := bitsOf (s.reg (bArray arr) .UD).toNat 52 4 == 2

/-- A write of ARR_REMAP (R103, R577); a spare that it brings in is recorded (R571). -/
def arrRemap (s : State) (arr v : Nat) : State :=
  let b := bArray arr
  if s.heldSw arr then
    if s.fuseRowBad arr then s
    else
      let old := (s.reg b .ARR_REMAP).toNat
      let v := remapMerge old (s.reg b .ARR_FUSE).toNat v
      let t := s.setReg b .ARR_REMAP 0 (BitVec.ofNat 64 v)
      if (v.testBit 5 && !old.testBit 5) || (v.testBit 11 && !old.testBit 11) then
        t.repairRecord (udArray arr) 0 0 (2 - bitsOf v 5 1 - bitsOf v 11 1)
      else t
  else s.setFlag b Fld.ARR_STATUS_PROG_REJECT true

/-- The fuses a programming request asks for, with their fields. -/
def fuseImage (old v : Nat) : Nat :=
  let pick (lo : Nat) : Nat := if bitsOf v (lo + 5) 1 = 1 then bitsOf v lo 6 else bitsOf old lo 6
  pick 0 + pick 6 * 2 ^ 6

/-- A write of ARR_FUSE_PROG (R103): rejected, or programming starts with its request kept until it completes. -/
def arrFuseProg (s : State) (arr v : Nat) : State :=
  let b := bArray arr
  let fuse := (s.reg b .ARR_FUSE).toNat
  let blown := s.fuseRowBad arr ∨ (bitsOf v 5 1 = 1 ∧ bitsOf fuse 5 1 = 1) ∨ (bitsOf v 11 1 = 1 ∧ bitsOf fuse 11 1 = 1)
  if ¬ s.heldSw arr ∨ s.arrayWork arr ∨ s.flag b Fld.ARR_STATUS_PROG_BUSY ∨ blown then
    s.setFlag b Fld.ARR_STATUS_PROG_REJECT true
  else (s.setFlag b Fld.ARR_STATUS_PROG_BUSY true).setReg b .ARR_FUSE_PROG 0 (BitVec.ofNat 64 (v % 2 ^ 12))

/-- The requested fuses are blown (R103). -/
def fuseDone (s : State) (arr : Nat) : State :=
  let b := bArray arr
  if s.flag b Fld.ARR_STATUS_PROG_BUSY then
    let v := fuseImage (s.reg b .ARR_FUSE).toNat (s.reg b .ARR_FUSE_PROG).toNat
    ((s.setReg b .ARR_FUSE 0 (BitVec.ofNat 64 v)).setReg b .ARR_FUSE_PROG 0 0).setFlag b Fld.ARR_STATUS_PROG_BUSY false
  else s

/-! ### Tiles -/

/-- CLEAR_ALL (R132): at once where no accumulator access is outstanding, else when those issued before have completed. -/
def amClearAll (s : State) (t : Nat) : State :=
  let tl := s.tileOf t
  (s.setTile t { tl with clearMarks := tl.clearMarks ++ [tl.nextId] }).settleClear t

/-- FMT_CTRL.CLEAR: the 360 counters of a converting unit (R69). -/
def fmtClear (s : State) (g : Nat) : State := s.foldS (upFrom 0 360) fun s i => s.setReg (bConv g) .FMT_STAT i 0

/-- A write of SEQ_CTRL.REEL (R143): the next slot is the first under the new rule. -/
def setReel (s : State) (t : Nat) (on : Bool) : State := s.setFlag (bTile t) Fld.SEQ_CTRL_REEL on

/-- A slot under the rule that SEQ_CTRL.REEL asks for (R143): as Reel mode begins, the turn pointer starts at the context after the one
that issued last. -/
def reelSlot (s : State) (t : Nat) : State :=
  let on := s.flag (bTile t) Fld.SEQ_CTRL_REEL
  s.modTile t fun tl => if on && !tl.reelOn then { tl with reelOn := on, turn := (tl.lastAny + 1) % 128 } else { tl with reelOn := on }

/-- The line a context waits to fetch. -/
def fetchLine (s : State) (t c : Nat) : Nat := (s.thr t c).pc.toNat / 64

/-- ICINV (R167): the cache is emptied; lines in flight will be discarded. -/
def icInvalidate (s : State) (t : Nat) : State :=
  let flight := ((upFrom 0 128).filter fun c => (s.thr t c).hold == 3).map (s.fetchLine t)
  s.modTile t fun tl => { tl with icache := [], discard := flight.dedup }

/-- A write of THR_STATE (R170): STATE 0 frees a FAULTED context; PRIO and PIN are set. -/
def thrStateWrite (s : State) (t c v : Nat) : State :=
  let th := s.thr t c
  let th := { th with prio := bitsOf v 3 2, pin := bitsOf v 5 1 == 1 }
  s.setThr t c (if th.run = .faulted ∧ bitsOf v 0 3 = 0 then { th with run := .free, fault := 0, hold := 0 } else th)

end State

/-! ### The rows -/

/-- ARR_HOLD (R105). -/
def execArrHold (arr : ArrayId) (w : Writer) (hold : Bool) (s : State) : Host.Outcome State Fault Refusal :=
  .next (ifControl w s (s.ifReached (bArray arr) (s.setFlag (bArray arr) Fld.ARR_CTRL_HOLD hold)))

def State.arrClear (s : State) (a : Nat) : State :=
  s.clearRegs (bArray a) 0 [.ARR_BEATS, .ARR_BUB_FEED, .ARR_BUB_ACC, .ARR_BUB_WGT]

/-- ARR_CNT_CLEAR (R105). -/
def execArrCntClear (arr : ArrayId) (s : State) : Host.Outcome State Fault Refusal :=
  .next (s.ifReached (bArray arr) (s.arrClear arr))

/-- ARR_REMAP_WRITE (R103). -/
def execArrRemapWrite (arr : ArrayId) (w : Writer) (value : BitVec 32) (s : State) : Host.Outcome State Fault Refusal :=
  .next (ifControl w s (s.ifReached (bArray arr) (s.arrRemap arr value.toNat)))

/-- ARR_FUSE_PROG (R103); an extension's is denied (R480, R491). -/
def execArrFuseProg (arr : ArrayId) (w : Writer) (value : BitVec 32) (s : State) : Host.Outcome State Fault Refusal :=
  .next (ifFirmware w s (s.ifReached (bArray arr) (s.arrFuseProg arr value.toNat)))

/-- AM_CLEAR_ALL (R115, R132). -/
def execAmClearAll (tile : TileId) (w : Writer) (s : State) : Host.Outcome State Fault Refusal :=
  .next (ifControl w s (s.ifReached (bTile tile) (s.amClearAll tile)))

def State.amClear (s : State) (t : Nat) : State :=
  s.clearRegs (bTile t) 0 [.AM_OVF, .AM_NF_IN, .AM_VEC_WAIT]

/-- AM_CNT_CLEAR (R132). -/
def execAmCntClear (tile : TileId) (w : Writer) (s : State) : Host.Outcome State Fault Refusal :=
  .next (ifControl w s (s.ifReached (bTile tile) (s.amClear tile)))

/-- FMT_CLEAR (R69): of a converting unit by its generator index (R58). -/
def execFmtClear (unit : Nat) (s : State) : Host.Outcome State Fault Refusal :=
  .next (if unit < 10770 then s.ifReached (bConv unit) (s.fmtClear unit) else s)

/-- SEQ_REEL (R143). -/
def execSeqReel (tile : TileId) (w : Writer) (on : Bool) (s : State) : Host.Outcome State Fault Refusal :=
  .next (ifControl w s (s.ifReached (bTile tile) (s.setReel tile on)))

/-- SEQ_HALT_ISSUE (R145). -/
def execSeqHaltIssue (tile : TileId) (w : Writer) (on : Bool) (s : State) : Host.Outcome State Fault Refusal :=
  .next (ifControl w s (s.ifReached (bTile tile) (s.setFlag (bTile tile) Fld.SEQ_CTRL_HALT_ISSUE on)))

def State.seqClear (s : State) (t : Nat) : State :=
  s.clearRegs (bTile t) 0 [.SEQ_ISSUED, .SEQ_EMPTY, .SEQ_STARVE, .SEQ_FAULTS]

/-- SEQ_CNT_CLEAR (R167). -/
def execSeqCntClear (tile : TileId) (w : Writer) (s : State) : Host.Outcome State Fault Refusal :=
  .next (ifControl w s (s.ifReached (bTile tile) (s.seqClear tile)))

/-- ICINV (R167). -/
def execIcinv (tile : TileId) (w : Writer) (s : State) : Host.Outcome State Fault Refusal :=
  .next (ifControl w s (s.ifReached (bTile tile) (s.icInvalidate tile)))

/-- THR_STATE_WRITE (R170). -/
def execThrStateWrite (tile : TileId) (ctx : CtxId) (w : Writer) (value : BitVec 32) (s : State) :
    Host.Outcome State Fault Refusal :=
  .next (ifControl w s (s.ifReached (bTile tile) (s.thrStateWrite tile ctx value.toNat)))

namespace State

def bankCntClear (s : State) (t : Nat) : State :=
  s.foldS (upFrom 0 5) fun s m => s.clearRegs (bTile t) m [.BANK_WAIT_OWN, .BANK_WAIT_PORT]

end State

/-- BANK_CNT_CLEAR (R185). -/
def execBankCntClear (tile : TileId) (w : Writer) (s : State) : Host.Outcome State Fault Refusal :=
  .next (ifControl w s (s.ifReached (bTile tile) (s.bankCntClear tile)))

def State.pruClear (s : State) (u : Nat) : State :=
  s.clearRegs (bUpd u) 0 [.PRU_MASK_IN, .PRU_GROUP_CHG]

/-- PRU_CNT_CLEAR (R205). -/
def execPruCntClear (unit : UpdId) (w : Writer) (s : State) : Host.Outcome State Fault Refusal :=
  .next (ifControl w s (s.ifReached (bUpd unit) (s.pruClear unit)))

def State.spkClear (s : State) (e : Nat) : State :=
  s.clearRegs (bDma e) 0 [.SPK_DROPPED, .SPK_DENSE]

/-- SPK_CNT_CLEAR (R205). -/
def execSpkCntClear (unit : DmaId) (w : Writer) (s : State) : Host.Outcome State Fault Refusal :=
  .next (ifControl w s (s.ifReached (bDma unit) (s.spkClear unit)))

end Sys2Proof.Machine
end

