-- ==== Sys2Proof/Machine/Dma.lean ====
section
/-! DEFINITION. The DMA engines (R328 to R333, R339): checks, the operations of R330 with R196 to R199, R299 and R300, completion. -/

namespace Sys2Proof.Machine

/-- Bytes to write from an address. -/
abbrev Chunk := Nat × List Byte

/-! ### Images -/

/-- The magnitude by which the packer ranks an element (R196). -/
def packMag (fmt c : Nat) : Nat :=
  let w := fmtBits fmt
  if fmt = 5 then (toSigned 8 c).natAbs else c % 2 ^ (w - 1)

/-- The positions of a group that the packer fills, ascending, with their codes, and the non-zeros it drops (R196). -/
def packGroup (fmt n : Nat) (codes : List Nat) : List (Nat × Nat) × Nat :=
  let ms := (codes.map (packMag fmt)).zip (upFrom 0 codes.length)
  let rank (m p : Nat) : Nat := (ms.filter fun q => decide (m < q.1) || (q.1 == m && decide (q.2 < p))).length
  let kept := (ms.filter fun q => decide (0 < q.1) && decide (rank q.1 q.2 < n)).map Prod.snd
  let fills := ((upFrom 0 codes.length).filter fun p => !kept.contains p).take (n - kept.length)
  let slots := (upFrom 0 codes.length).filterMap fun p =>
    if kept.contains p then some (p, codes.getD p 0) else if fills.contains p then some (p, 0) else none
  (slots, (ms.filter fun q => decide (0 < q.1) && !kept.contains q.2).length)

/-- A list cut into runs of n. -/
def groupsOf {α : Type} (n : Nat) (l : List α) : List (List α) := chunks n ((l.length + n - 1) / n) l

/-- A sparse column record (R190): slots, then their positions. -/
def sparseRecord (fmt : Nat) (slots : List (Nat × Nat)) : List Byte :=
  packBytes (fmtBits fmt) (slots.map Prod.snd)
    ++ leBytes 12 (((slots.map Prod.fst).zip (upFrom 0 slots.length)).foldl (fun v p => v + p.1 % 8 * 2 ^ (3 * p.2)) 0)

/-- The codes and scale bytes of one column of a dense image (R90). -/
def denseColumn (fmt n : Nat) (img : List Byte) : List Nat × Byte :=
  let w := fmtBits fmt
  (unpackBytes w 32 ((img.drop (4 * w * n)).take (4 * w)), img.getD (scaleAt (128 * w) + n) 0)

/-- A sparse image from P dense images whose first position is `pos0`; positions from `len` on read as zero (R196, R197). -/
def packImage (fmt sp len pos0 : Nat) (imgs : List (List Byte)) : List Byte × Nat :=
  let cols := (upFrom 0 32).map fun n =>
    let cs := imgs.map (denseColumn fmt n)
    let codes := ((cs.flatMap Prod.fst).zip (upFrom pos0 (32 * imgs.length))).map fun p => if p.2 < len then p.1 else 0
    let gs := (groupsOf 8 codes).map (packGroup fmt (nOf sp))
    (sparseRecord fmt (gs.flatMap Prod.fst), cs.map Prod.snd, (gs.map Prod.snd).foldl (· + ·) 0)
  (cols.flatMap (fun c => c.1) ++ if fmtIsMX fmt then cols.flatMap (fun c => c.2.1) else [],
    (cols.map fun c => c.2.2).foldl (· + ·) 0)

/-- The code at a position of a group in an expansion (R300): a kept slot's, +0 where none names the position; free where two do (log entry
17). A slot that holds +0 keeps nothing, whatever position it names (R191). -/
def expandAt (slots : List (Nat × Nat)) (p : Nat) : Option Nat :=
  match slots.filter fun q => q.1 == p && q.2 != 0 with
  | [] => some 0
  | [q] => some q.2
  | _ => none

/-- The codes of one column of a sparse image by position, none where free. -/
def expandColumn (fmt sp : Nat) (rec : List Byte) : List (Option Nat) :=
  let w := fmtBits fmt
  let ps := unpackBytes 3 32 (rec.drop (4 * w))
  (groupsOf (nOf sp) (ps.zip (unpackBytes w 32 (rec.take (4 * w))))).flatMap fun g => (upFrom 0 8).map (expandAt g)

/-- Free codes filled with free values. -/
def fillFree (w : Nat) : List (Option Nat) → State → List Nat × State
  | [], s => ([], s)
  | some c :: r, s => let (cs, s) := fillFree w r s; (c :: cs, s)
  | none :: r, s =>
    let (v, s) := s.freshWord
    let (cs, s) := fillFree w r s
    (v.toNat % 2 ^ w :: cs, s)

/-- The P dense images of a sparse image (R300, R330). -/
def expandImage (fmt sp len pos0 : Nat) (img : List Byte) (s : State) : List (List Byte) × State :=
  let w := fmtBits fmt
  let p := pOf sp
  let size := 4 * w + 12
  let cut (cs : List (Option Nat)) : List (Option Nat) :=
    (cs.zip (upFrom pos0 cs.length)).map fun e => if e.2 < len then e.1 else some 0
  let (cols, s) := (upFrom 0 32).foldl (fun (a : List (List Nat) × State) n =>
    let (cs, s) := fillFree w (cut (expandColumn fmt sp ((img.drop (size * n)).take size))) a.2
    (a.1 ++ [cs], s)) ([], s)
  let one (j : Nat) : List Byte :=
    cols.flatMap (fun c => packBytes w ((c.drop (32 * j)).take 32))
      ++ if fmtIsMX fmt then (upFrom 0 32).map fun n => img.getD (scaleAt (32 * size) + p * n + j) 0 else []
  ((upFrom 0 p).map one, s)

/-- One tile of a bitmap pack (R198, R199): payload, elements stored, whether dense. -/
def bitTile (w : Nat) (codes : List Nat) : List Byte × Nat × Bool :=
  let kept := codes.filter (· != 0)
  let small := 128 + (kept.length * w + 7) / 8
  if small < 128 * w then
    (packBytes 1 (codes.map fun c => if c = 0 then 0 else 1) ++ packBytes w kept, kept.length, false)
  else (packBytes w codes, kept.length, true)

/-- A bitmap pack: directory, payloads back to back, where in the payloads each tile written dense ends. -/
def bitPack (w : Nat) (codes : List Nat) : List Byte × List Byte × List Nat :=
  let tiles := (groupsOf 1024 codes).map fun t => bitTile w (t ++ List.replicate (1024 - t.length) 0)
  tiles.foldl (fun (a : List Byte × List Byte × List Nat) (t : List Byte × Nat × Bool) =>
    let at_ := a.2.1.length
    (a.1 ++ leBytes 8 (at_ % 2 ^ 48 + t.2.1 * 2 ^ 48 + if t.2.2 then 2 ^ 59 else 0), a.2.1 ++ t.1,
      if t.2.2 then a.2.2 ++ [at_ + t.1.length] else a.2.2)) ([], [], [])

/-- The elements of a tile of a bitmap image. A Count above 1,024 is taken as 1,024 and an element that the bitmap marks beyond Count
reads 0 (DESIGN CHOICE, log entry 93). -/
def bitUnpackTile (w entry : Nat) (pay : List Byte) : List Nat :=
  if bitsOf entry 59 1 = 1 then unpackBytes w 1024 (pay.take (128 * w))
  else
    let marks := unpackBytes 1 1024 (pay.take 128)
    let stored := unpackBytes w (min 1024 (bitsOf entry 48 11)) (pay.drop 128)
    (marks.foldl (fun (a : List Nat × List Nat) m =>
      if m = 1 then (a.1 ++ [a.2.headD 0], a.2.drop 1) else (a.1 ++ [0], a.2)) ([], stored)).1

namespace State

/-! ### The two sides -/

/-- A chunk written to a side. -/
def sideWrite (s : State) (r : Nat) (tile : Option Nat) (c : Chunk) : State :=
  match tile with
  | some t => s.setScratch (r * 896 + t) c.1 c.2
  | none => s.setDevBytes c.1 c.2

/-- A run of a side lies whole in scratch of a tile of the region, or in the tiers and the host window (R331). -/
def runOk (s : State) (r : Nat) (tile : Option Nat) (x : Run) : Bool :=
  match tile with
  | some t => x.top == 0 || (decide (t < 896) && s.tilePresent (r * 896 + t) && decide (x.top ≤ 0x40000))
  | none => !x.meets s.fastTop slowBase && !x.meets slowTop hostBase && !x.meets hostTop (max hostTop (x.top + 1))

/-- A bitmap pack's output: directory, payloads, ends of the tiles written dense. -/
def packed (s : State) (r : Nat) (d : DmaD) (hostBad : List Nat) : List Byte × List Byte × List Nat :=
  bitPack (fmtBits d.fmt) (unpackBytes (fmtBits d.fmt) d.len (s.sideBytes r d.srcTile hostBad d.src (elemBytes d.fmt d.len)))

/-- Bytes from DST that a bitmap pack needs. -/
def packedSize (d : DmaD) (o : List Byte × List Byte × List Nat) : Nat := payBase d.dst d.len - d.dst + o.2.1.length

def dmaDstRuns (s : State) (r : Nat) (d : DmaD) : List Run :=
  if d.op = .bitPack then [⟨d.dst, 0, min d.dstStride (packedSize d (s.packed r d [])), 1⟩] else d.dstRuns

/-! ### Checks (R331) -/

/-- Every start of a run is aligned. -/
def runAligned (n : Nat) (x : Run) : Bool := x.base % n == 0 && (decide (x.count ≤ 1) || x.stride % n == 0)

/-- Nothing to move (R329). -/
def dmaEmpty (d : DmaD) : Bool := d.len == 0 || d.rows == 0

/-- The status of checks 1 to 3, or 0. A descriptor with nothing to move completes at once; only its counter is checked (log entry
18). -/
def dmaCheck (s : State) (r : Nat) (d : DmaD) : Nat :=
  if dmaEmpty d then (if counterFieldOk d.done then 0 else 3)
  else
    let src := s.dmaSrcRuns r d
    let dst := s.dmaDstRuns r d
    let several := (if d.fill then 1 else 0) + (if d.transpose then 1 else 0) + (if d.sparsity = 0 then 0 else 1)
    let aligned : Bool := match d.op with
      | .transpose => (d.srcRuns ++ d.dstRuns).all (runAligned (fmtBits d.fmt / 8))
      | .pack | .expand => (d.srcRuns ++ d.dstRuns).all (runAligned 64)
      | .bitPack => d.dst % 64 == 0
      | .bitUnpack => d.src % 64 == 0
      | _ => true
    if !(src.all (s.runOk r d.srcTile) && dst.all (s.runOk r d.dstTile) && counterFieldOk d.done) then 3
    else if decide (1 < several) || (d.transpose && !(6 ≤ d.fmt)) || (decide (1 ≤ d.sparsity) && decide (d.sparsity ≤ 4) && decide (6 < d.fmt)) then 4
    else if aligned then 0 else 3

/-! ### The operations (R330) -/

/-- What a descriptor writes, with what its packer dropped. -/
def dmaOutput (s : State) (r : Nat) (d : DmaD) (hostBad : List Nat) : List Chunk × Nat × State :=
  let get (a n : Nat) : List Byte := s.sideBytes r d.srcTile hostBad a n
  match d.op with
  | .copy => ((upFrom 0 d.rows).map fun i => (d.dst + i * d.dstStride, get (d.src + i * d.srcStride) d.len), 0, s)
  | .fill =>
    let row := (upFrom 0 d.len).map fun b => BitVec.ofNat 8 (d.src / 256 ^ (b % 4))
    ((upFrom 0 d.rows).map fun i => (d.dst + i * d.dstStride, row), 0, s)
  | .transpose =>
    let e := fmtBits d.fmt / 8
    let rows := (upFrom 0 d.rows).map fun i => (get (d.src + i * d.srcStride) (e * d.len)).toArray
    let row (j : Nat) : List Byte :=
      (rows.flatMap fun src => (upFrom 0 e).map fun b => src.getD (j * e + b) 0) ++ List.replicate (e * (pad32 d.rows - d.rows)) 0
    ((upFrom 0 (pad32 d.len)).map fun j =>
      (d.dst + j * d.dstStride, if j < d.len then row j else List.replicate (e * pad32 d.rows) 0), 0, s)
  | .pack =>
    let p := pOf d.sparsity
    let outs := (upFrom 0 d.rows).map fun i =>
      let imgs := (upFrom 0 p).map fun j => get (d.src + (i * p + j) * d.srcStride) (denseImage d.fmt)
      (i, packImage d.fmt d.sparsity d.len (32 * p * i) imgs)
    (outs.map fun o => (d.dst + o.1 * d.dstStride, o.2.1), (outs.map fun o => o.2.2).foldl (· + ·) 0, s)
  | .expand =>
    let p := pOf d.sparsity
    let (cs, s) := (upFrom 0 d.rows).foldl (fun (a : List Chunk × State) i =>
      let (imgs, s) := expandImage d.fmt d.sparsity d.len (32 * p * i) (get (d.src + i * d.srcStride) (sparseImage d.fmt p)) a.2
      (a.1 ++ (imgs.zip (upFrom (i * p) p)).map fun e => (d.dst + e.2 * d.dstStride, e.1), s)) ([], s)
    (cs, 0, s)
  | .bitPack =>
    let o := s.packed r d hostBad
    ([(d.dst, o.1), (payBase d.dst d.len, o.2.1)], 0, s)
  | .bitUnpack =>
    let w := fmtBits d.fmt
    let codes := (upFrom 0 ((d.len + 1023) / 1024)).flatMap fun k =>
      let e := leNat (get (d.src + 8 * k) 8)
      bitUnpackTile w e (get (payBase d.src d.len + bitsOf e 0 48) (payloadLen w e))
    ([(d.dst, packBytes w (codes.take d.len))], 0, s)

/-- Destination bytes that a source byte of the same space overlaps are undefined (R332). -/
def freeOverlap (s : State) (runs : List Run) : List Chunk → List Chunk × State
  | [] => ([], s)
  | c :: r =>
    let (bs, s) := (c.2.zip (upFrom c.1 c.2.length)).foldl (fun (a : List Byte × State) p =>
      if runs.any fun x => x.meets p.2 (p.2 + 1) then
        let (v, s) := a.2.freshWord
        (a.1 ++ [BitVec.ofNat 8 v.toNat], s)
      else (a.1 ++ [p.1], a.2)) ([], s)
    let (cs, s) := s.freeOverlap runs r
    ((c.1, bs) :: cs, s)

/-- Device granules of the source that fail their check (R332, R578). -/
def srcBad (s : State) (r : Nat) (d : DmaD) : List Nat :=
  if d.srcTile.isSome || (s.mem.bad.isEmpty && s.mem.dead.isEmpty && s.mem.deadPairs.isEmpty) then []
  else ((s.dmaReadRuns r d).flatMap fun x => (upFrom 0 x.count).flatMap fun i => s.badIn (x.base + i * x.stride) x.n).dedup

/-! ### Starting and completing -/

/-- The unit, agent and work-item bank of a DMA engine (R14, R380, R582). -/
def dmaAgent (e : Nat) : Nat := agentEngine 0 6 (8 * (e / 4) + 2 + e % 4)
def dmaBank (e : Nat) : Nat := 12096 + 8 * (e / 4) + 2 + e % 4

/-- A descriptor completes (R332): owner-after on banks of its destination tile, DONE, the count, failures recorded and
reported. -/
def dmaFinish (s : State) (e : Nat) (j : DmaJob) (status : Nat) (banks : List Nat) : State :=
  let r := e / 4
  let s := s.modDma e fun g => { g with active := g.active.filter fun k => k.id != j.id }
  let self := match j.queue with
    | some q => Token.desc q j.seq
    | none => .fifo e j.seq
  let s := match j.d.dstTile with
    | some t => if t < 896 then s.ownerAfter (r * 896 + t) j.d.oa banks self else s
    | none => s
  let s := match j.d.done with
    | some c => if counterOk c then s.signal (dmaAgent e) j.seq c else s
    | none => s
  let s := (s.count (bDma e) .DMA_DESC).workItem (dmaBank e)
  let s := if status = 0 then s
    else
      let img := status + j.seq % 2 ^ 32 * 2 ^ 8 + (if j.queue.isSome then 2 ^ 40 else 0)
      let s := ((s.setReg (bDma e) .DMA_ERR 0 (BitVec.ofNat 64 img)).setFlag (bDma e) Fld.DMA_STATUS_ERR_SEEN true).irq
        (srcRegion r (3 + e % 4))
      s.report ⟨0x0007, s.time, j.d.step, udRegion r, j.queue.map fun q => (q, j.seq), img⟩
  match j.queue with
  | some q => s.descDone q j.seq
  | none => s

/-- The queues bound to a DMA engine, ascending. -/
def dmaQueues (s : State) (e : Nat) : List Nat := (s.queues.filter fun q => q.2.kind == 4 && q.2.unit == e).map Prod.fst

/-- The source that is next in turn and has a descriptor to start: 0 the FIFO, q + 1 queue q (R328). The FIFO's oldest waits at its head for
a step boundary as a queue's does (R37). -/
def dmaNext (s : State) (e : Nat) : Option Nat :=
  let srcs := (0 :: (s.dmaQueues e).map (· + 1)).filter fun k =>
    if k = 0 then ((s.dmaEng e).fifo.head?.any fun d => !s.heldAtBoundary fifoQueue 4 e d.2) && s.takesWork (672 + e / 4)
    else (s.startable (k - 1)).isSome
  ((srcs.filter ((s.dmaEng e).turn < ·)) ++ srcs).head?

/-- A descriptor starts: it is in progress with its clamps counted; with nothing to move, or on a failed check, it completes. -/
def dmaBegin (s : State) (e : Nat) (queue : Option Nat) (n : Nat) (b : List Byte) : State :=
  let d := dmaOf b
  let k := dmaClamps b
  let s := match queue with
    | some q => (if k = 0 then s else s.qClamp q k).descStart q n b
    | none => if k = 0 then s else s.count (bDma e) .DMA_CLAMPS k
  let st := s.dmaCheck (e / 4) d
  let j : DmaJob := ⟨(s.dmaEng e).nextId, queue, n, d, st⟩
  let s := s.modDma e fun g => { g with nextId := g.nextId + 1, active := g.active ++ [j] }
  if st ≠ 0 then s.dmaFinish e j st (d.dstRuns.flatMap Run.banks)
  else if dmaEmpty d then s.dmaFinish e j 0 []
  else s

/-- Every bank of a side serves the transfer. -/
def sideServes (s : State) (r : Nat) (tile : Option Nat) (runs : List Run) (tok : Token) : Bool :=
  match tile with
  | none => true
  | some t => (runs.flatMap Run.banks).all fun k => s.bankServes (r * 896 + t) k 3 0 tok

/-- No access of a side in device memory waits for a stack in HOLD (R521, R524). -/
def sideRuns (s : State) (tile : Option Nat) (runs : List Run) : Bool :=
  tile.isSome || s.stacksRun || runs.all fun x => (upFrom 0 x.count).all fun i => s.memRuns (x.base + i * x.stride) x.n

/-- Waits of a side counted (R180). -/
def sideWaits (s : State) (e : Nat) (tile : Option Nat) (own port : Nat) : State :=
  match tile with
  | none => s
  | some t => s.bankWaits (e / 4 * 896 + t) 3 own port (some (dmaBank e))

/-- Bytes that a descriptor reads. -/
def dmaRead (s : State) (r : Nat) (d : DmaD) : Nat := ((s.dmaReadRuns r d).map fun x => x.n * x.count).foldl (· + ·) 0

/-- The whole transfer of a descriptor: its writes, counters and completion. Of a bitmap pack that does not fit its capacity, `wrote`
bytes have been written when it fails (R331), and a tile counts as written dense where its payload is whole among them (R199). -/
def dmaTransfer (s : State) (e : Nat) (j : DmaJob) (hostBad : List Nat) (wrote : Nat) : State :=
  let r := e / 4
  let d := j.d
  let rd := s.dmaRead r d
  let bad := s.srcBad r d
  let tile := r * 896 + d.srcTile.getD 0
  let words := if d.srcTile.isNone then [] else s.badWords tile fun lo hi => (s.dmaReadRuns r d).any fun x => x.meets lo hi
  let src := s.dmaSrcRuns r d
  let banks := (s.dmaDstRuns r d).flatMap Run.banks
  let pack := if d.op = .bitPack then s.packed r d hostBad else ([], [], [])
  let full := d.op == .bitPack && decide (d.dstStride < packedSize d pack)
  let reach := if full then d.dst + min wrote d.dstStride - payBase d.dst d.len else pack.2.1.length
  let dense := pack.2.2.countP (· ≤ reach)
  let (cs, dropped, s) := s.dmaOutput r d hostBad
  let cs := if full then
      cs.filterMap fun c => if c.1 < d.dst + min wrote d.dstStride then
        some (c.1, c.2.take (d.dst + min wrote d.dstStride - c.1)) else none
    else cs
  let (cs, s) := if d.srcTile = d.dstTile then s.freeOverlap src cs else (cs, s)
  let s := s.foldS cs fun s c => s.sideWrite r d.dstTile c
  let s := (s.count (bDma e) .DMA_RD_BYTES rd).count (bDma e) .DMA_WR_BYTES ((cs.map fun c => c.2.length).foldl (· + ·) 0)
  let s := if dropped = 0 then s else s.count (bDma e) .SPK_DROPPED dropped
  let s := if dense = 0 then s else s.count (bDma e) .SPK_DENSE dense
  let s := (s.readBad (bad ++ hostBad) (dmaAgent e) j.seq d.step).readBadWords tile words (dmaAgent e) j.seq d.step
  s.dmaFinish e j (if full then 5 else if bad.isEmpty && hostBad.isEmpty && words.isEmpty then 0 else 2) banks

end State

/-- DMA_START (R328, R331, R332, R532). -/
def execDmaStart (engine : DmaId) (s : State) : Host.Outcome State Fault Refusal :=
  let g := s.dmaEng engine
  .next (if s.flag (bDma engine) Fld.DMA_CTRL_HOLD ∨ 2 ≤ g.active.length then s
    else match s.dmaNext engine with
      | none => s
      | some 0 => match g.fifo with
        | [] => s
        | (n, b) :: r => s.opportunity (672 + engine / 4) 2 ((s.modDma engine fun g => { g with fifo := r, turn := 0 }).dmaBegin engine none n b)
      | some (q + 1) => match s.startable q with
        | none => s
        | some (n, b) => s.opportunity (672 + engine / 4) 2 ((s.modDma engine fun g => { g with turn := q + 1 }).dmaBegin engine (some q) n b))

/-- DMA_DONE (R330 to R332): the writes are accepted. The beats waited at the destination's tile and at another source tile are counted
there (R180). Reads of host-window granules that failed, the bytes a pack wrote before its
capacity ended, and the beats waited are the environment's (log entry 5). -/
def execDmaDone (engine : DmaId) (job : Nat) (hostBad : List (BitVec 52)) (wrote : Nat) (waitOwn waitPort : Nat × Nat)
    (s : State) : Host.Outcome State Fault Refusal :=
  let r := engine.val / 4
  .next (s.ifRuns (672 + r) (match (s.dmaEng engine).active.find? fun j => j.id == job with
    | none => s
    | some j =>
      let tok := match j.queue with
        | some q => Token.desc q j.seq
        | none => .fifo engine j.seq
      if s.sideServes r j.d.srcTile (s.dmaReadRuns r j.d) tok && s.sideServes r j.d.dstTile (s.dmaDstRuns r j.d) tok
          && s.sideRuns j.d.srcTile (s.dmaReadRuns r j.d) && s.sideRuns j.d.dstTile (s.dmaDstRuns r j.d) then
        let hb := (hostBad.map fun a => a.toNat / 64 * 64).filter fun a =>
          State.inHost a 64 && j.d.srcTile.isNone && (s.dmaReadRuns r j.d).any fun x => x.meets a (a + 64)
        ((s.dmaTransfer engine j hb wrote).sideWaits engine j.d.dstTile waitOwn.1 waitPort.1).sideWaits engine
          (if j.d.srcTile = j.d.dstTile then none else j.d.srcTile) waitOwn.2 waitPort.2
      else s))

/-- DMA_HOLD (R332). -/
def execDmaHold (engine : DmaId) (w : Writer) (hold : Bool) (s : State) : Host.Outcome State Fault Refusal :=
  .next (ifControl w s (s.ifReached (bDma engine) (s.setFlag (bDma engine) Fld.DMA_CTRL_HOLD hold)))

namespace State

def dmaClear (s : State) (e : Nat) : State := s.clearRegs (bDma e) 0 [.DMA_DESC, .DMA_RD_BYTES, .DMA_WR_BYTES, .DMA_CLAMPS]

end State

/-- DMA_CNT_CLEAR (R339). -/
def execDmaCntClear (engine : DmaId) (w : Writer) (s : State) : Host.Outcome State Fault Refusal :=
  .next (ifControl w s (s.ifReached (bDma engine) (s.dmaClear engine)))

end Sys2Proof.Machine
end

