-- ==== Sys2Proof/Machine/Cache.lean ====
section
/-! DEFINITION. Stack controllers, the slow tier and the host window (R307 to R325, R335 to R338): cache lines, fills, prefetch
streams, the accesses of any requester. Stored data is coherent: it stands in memory as the point of coherence holds it, and the
cache holds what it adds to it (log entry 19). -/

namespace Sys2Proof.Machine

/-- The set and the tag of a stack offset (R317). -/
def setOf (o : Nat) : Nat := bitsOf o 7 19 ^^^ (bitsOf o 26 9 * 1024)
def tagOf (o : Nat) : Nat := bitsOf o 26 9

namespace State

def ctl (s : State) (r : Nat) : StackCtl := Tbl.get (fun _ => StackCtl.reset) s.ms.ctl r
def modCtl (s : State) (r : Nat) (f : StackCtl → StackCtl) : State :=
  { s with ms.ctl := Tbl.put (fun _ => StackCtl.reset) s.ms.ctl r (f (s.ctl r)) }

/-- The class of an address under the descriptors of a region (R320). -/
def classAt (s : State) (r a : Nat) : Nat :=
  match (upFrom 0 64).find? fun j =>
    s.flag (bSc r) Fld.SC_RANGE_LO_VALID j && decide (s.getF (bSc r) Fld.SC_RANGE_LO_BASE j ≤ a / 4096)
      && decide (a / 4096 ≤ s.getF (bSc r) Fld.SC_RANGE_HI_LIMIT j) with
  | some j => s.getF (bSc r) Fld.SC_RANGE_LO_CLASS j
  | none => 7

/-- The way that holds the reflection store (R322). -/
def pinWay (c : StackCtl) : Nat := if c.off.contains 15 then 14 else 15
/-- The ways that addresses use (R317, R322). -/
def waysOf (c : StackCtl) : List Nat := (upFrom 0 16).filter fun w => !c.off.contains w && !(c.pin && w == pinWay c)

def lineAt (c : StackCtl) (set w : Nat) : Line := Tbl.get (fun _ => Line.reset) c.lines (set * 16 + w)
def putLine (c : StackCtl) (set w : Nat) (l : Line) : StackCtl :=
  { c with lines := Tbl.put (fun _ => Line.reset) c.lines (set * 16 + w) l }

/-- The way that holds an offset's line. -/
def findWay (c : StackCtl) (o : Nat) : Option Nat :=
  (waysOf c).find? fun w => (lineAt c (setOf o) w).state != 0 && (lineAt c (setOf o) w).tag == tagOf o

/-- The least recently used of some ways. -/
def oldest (c : StackCtl) (set : Nat) : List Nat → Option Nat
  | [] => none
  | w :: r => match oldest c set r with
    | none => some w
    | some v => if (lineAt c set v).used < (lineAt c set w).used then some v else some w

/-- The victim of a set and whether its dead mark chose it (R321). -/
def victim (c : StackCtl) (set : Nat) : Option (Nat × Bool) :=
  let ws := waysOf c
  match ws.find? fun w => (lineAt c set w).state == 0 with
  | some w => some (w, false)
  | none =>
    match oldest c set (ws.filter fun w => (lineAt c set w).dead) with
    | some w => some (w, true)
    | none =>
      let p := (ws.map fun w => (lineAt c set w).prio).foldl min 3
      (oldest c set (ws.filter fun w => (lineAt c set w).prio == p)).map fun w => (w, false)

/-- A counter of a stack controller's bank in prefetch mode (R588). -/
def pfCount (s : State) (r k : Nat) (n : Nat := 1) : State :=
  let b := bBank (12096 + 8 * r)
  if s.getF b Fld.CB_CTRL_MODE = 1 then s.count b .CB_CNT n k else s

/-- Prefetched lines leave before a read has used them (R325, R588). -/
def pfUnused (s : State) (r n : Nat) : State := (s.count (bSc r) .PF_UNUSED n).pfCount r 3 n

/-- The number of a line within its stack, from its set and tag (R317). -/
def lineNo (set tag : Nat) : Nat := (set ^^^ (tag * 1024)) + tag * 2 ^ 19

/-- Words of a stack's dirty lines that fail their check are written back: their granules fail in DRAM (R578). `mine` names the lines. -/
def spoil (s : State) (r : Nat) (mine : Nat → Bool) : State :=
  let here (e : Nat × Nat) : Bool := e.1 == 4 && e.2 / 2 ^ 32 == r && mine (e.2 % 2 ^ 32 / 16)
  if s.mem.badWords.any here then
    let gs := ((s.mem.badWords.filter here).map fun e => e.2 / 8).dedup
    { s with
      mem.bad := (gs.filter fun g => !s.mem.bad.contains g) ++ s.mem.bad
      mem.badWords := s.mem.badWords.filter fun e => !here e }
  else s

/-- Lines of a stack's cache, by set × 16 + way, leave it: the dirty ones are written back (R318, R325). -/
def linesLeave (s : State) (r : Nat) (lines : Tbl Line) : State :=
  let nos := lines.map fun e => lineNo (e.1 / 16) e.2.tag
  let s := (s.count (bSc r) .SC_WB (lines.countP fun e => e.2.state == 2)).spoil r nos.contains
  s.pfUnused r (lines.countP fun e => e.2.pre)

def prioOf (s : State) (r cls : Nat) : Nat := s.getF (bSc r) Fld.SC_CLASS_PRIO cls
def darOf (s : State) (r cls : Nat) : Bool := s.flag (bSc r) Fld.SC_CLASS_DAR cls

/-- A line placed in its set after its victim left (R321). -/
def place (s : State) (r o : Nat) (l : Line) : State :=
  let c := s.ctl r
  match victim c (setOf o) with
  | none => s
  | some (w, dead) =>
    let old := lineAt c (setOf o) w
    let s := if old.state = 2 then (s.count (bSc r) .SC_WB).spoil r (· == lineNo (setOf o) old.tag) else s
    let s := if dead then s.count (bSc r) .SC_DEAD_EVICT else s
    let s := if old.state ≠ 0 ∧ old.pre then s.pfUnused r 1 else s
    s.modCtl r fun c => { putLine c (setOf o) w { l with used := c.clock } with clock := c.clock + 1 }

/-- The lead-time counter of a prefetched line's first read (R588). -/
def leadSlot (ns : Nat) : Nat :=
  if ns < 100 then 8 else if ns < 200 then 9 else if ns < 400 then 10 else if ns < 800 then 11
  else if ns < 1600 then 12 else if ns < 3200 then 13 else 14

/-- A demand access that finds its line (R318, R321, R325). -/
def hitLine (s : State) (r o w cls : Nat) (act : MemAct) : State :=
  let l := lineAt (s.ctl r) (setOf o) w
  let s := s.count (bSc r) .SC_HIT
  let s := if l.pre then
      if act = MemAct.read then ((s.count (bSc r) .PF_USED).pfCount r 1).pfCount r (leadSlot (s.time - l.landed))
      else (s.count (bSc r) .PF_OVERTAKEN).pfCount r 4
    else s
  let l := { l with
    cls := cls, prio := s.prioOf r cls, pre := l.pre && act != MemAct.read,
    dead := if act = MemAct.read then l.dead || s.darOf r cls else false,
    state := if act = MemAct.read then l.state else 2 }
  s.modCtl r fun c => { putLine c (setOf o) w { l with used := c.clock } with clock := c.clock + 1 }

/-- A demand access moves the stream that runs ahead of it (R324). -/
def streamAdvance (s : State) (r line cls : Nat) : State :=
  let dist := clampTo 1 64 (s.getF (bSc r) Fld.PF_CTRL_DIST)
  s.modCtl r fun c => { c with streams := c.streams.map fun t =>
    let ahead := if t.up then decide (t.last < line) && decide (line ≤ t.last + dist)
      else decide (line < t.last) && decide (t.last ≤ line + dist)
    if t.cls == cls && ahead then { t with last := line, used := c.clock } else t }

/-- A demand miss after one on a neighbouring line of the same class opens a stream (R324). -/
def streamOpen (s : State) (r line cls : Nat) : State :=
  let c := s.ctl r
  let s := s.modCtl r fun c => { c with lastMiss := some (line, cls) }
  match c.lastMiss with
  | none => s
  | some (l, k) =>
    if k = cls ∧ (line = l + 1 ∨ l = line + 1) ∧ s.flag (bSc r) Fld.SC_CLASS_PF cls ∧ s.flag (bSc r) Fld.SC_CTRL_PF_EN
        ∧ ¬ c.streams.any fun t => t.cls == cls && t.last == line then
      let t : Stream := ⟨line, line == l + 1, cls, c.clock⟩
      let s := s.pfCount r 5
      if c.streams.length < 64 then s.modCtl r fun c => { c with streams := c.streams ++ [t] }
      else
        let m := (c.streams.map Stream.used).foldl min c.clock
        let keep := (c.streams.zip (upFrom 0 64)).find? fun p => p.1.used == m
        let s := s.pfCount r 6
        s.modCtl r fun c => { c with streams := (c.streams.eraseIdx ((keep.map Prod.snd).getD 0)) ++ [t] }
    else s

/-- The bookkeeping of a demand access at its stack cache (R318 to R325): `full` for a write of the whole line. -/
def cacheAccess (s : State) (r o a : Nat) (act : MemAct) (full : Bool) : State :=
  let cls := s.classAt r a
  let line := o / 128
  let s := (s.workItem (12096 + 8 * r)).streamAdvance r line cls
  match findWay (s.ctl r) o with
  | some w => s.hitLine r o w cls act
  | none =>
    match (s.ctl r).fills.find? fun f => f.line == line with
    | some f =>
      let s := if f.pre ∧ act ≠ MemAct.read ∧ ¬ f.read then (s.count (bSc r) .PF_OVERTAKEN).pfCount r 4
        else if f.pre ∧ act = MemAct.read ∧ ¬ f.read then (s.count (bSc r) .PF_LATE).pfCount r 2 else s
      s.modCtl r fun c => { c with fills := c.fills.map fun g =>
        if g.line = line then { g with cls := cls, dead := act == MemAct.read && (g.dead || s.darOf r cls), read := g.read || act == MemAct.read, held := g.held || (g.pre && act != MemAct.read), write := g.write || act != MemAct.read }
        else g }
    | none =>
      if full then
        if s.flag (bSc r) Fld.SC_CLASS_WALLOC cls then
          ((s.count (bSc r) .SC_MISS).streamOpen r line cls).place r o ⟨2, tagOf o, cls, s.prioOf r cls, false, false, 0, s.time⟩
        else s
      else
        ((s.count (bSc r) .SC_MISS).streamOpen r line cls).modCtl r fun c =>
          { c with fills := c.fills ++ [⟨line, cls, act != MemAct.read, false, act == MemAct.read, false, act == MemAct.read && s.darOf r cls⟩] }

/-- A fill lands (R318, R321, R325). -/
def landFill (s : State) (r : Nat) (f : Fill) : State :=
  let o := f.line * 128
  let s := s.modCtl r fun c => { c with fills := c.fills.filter fun g => g.line != f.line }
  s.place r o ⟨if f.write then 2 else 1, tagOf o, f.cls, s.prioOf r f.cls, f.dead, f.pre && !f.read, 0, s.time⟩

/-! ### Adds (R252) -/

/-- The granules that an add of n elements at an address is applied to: those of elements whose bytes pass their check (R258, R338). -/
def addedGranules (s : State) (a n : Nat) : Nat :=
  (((upFrom 0 n).filter fun i => (s.badIn (a + 4 * i) 4).isEmpty).map fun i => (a + 4 * i) / 64).dedup.length

/-- FP32 elements added to the bytes at an address, granule by granule; a granule that fails its check keeps its stored bits
(R258). -/
def addF32 (s : State) (a : Nat) (vs : List Half) : State :=
  s.foldS ((upFrom 0 vs.length).zip vs) fun s p =>
    let at_ := a + 4 * p.1
    if (s.badIn at_ 4).isEmpty then s.putDevBytes at_ (leBytes 4 (fadd (BitVec.ofNat 32 (s.devNat at_ 4)) p.2).toNat) else s

/-! ### Pinning (R322) -/

/-- SC_PIN.EN comes into force: its way's lines are written back and leave, or the reflections are removed. -/
def applyPin (s : State) (r : Nat) : State :=
  let en := s.flag (bSc r) Fld.SC_PIN_EN
  let c := s.ctl r
  if en = c.pin then s
  else if en then
    let w := pinWay c
    let s := s.linesLeave r (c.lines.filter fun e => e.1 % 16 == w)
    s.modCtl r fun c => { c with pin := true, lines := Tbl.dropIf c.lines fun k => k % 16 == w }
  else
    let s := s.modCtl r fun c => { c with pin := false }
    { s with emb := Tbl.upd (fun _ => EmbRegion.reset) s.emb r fun e => { e with dir := [] } }

/-- A job is open (R471): open or suspended. -/
def jobOpen (s : State) : Bool := s.job.phase != 0

/-- A write of SC_PIN (R322): a change waits for the next step boundary in its turn (R37), or is in force at once where no job is open; the
value in force written again leaves none to make. -/
def scPin (s : State) (r : Nat) (en : Bool) : State :=
  let s := s.setFlag (bSc r) Fld.SC_PIN_EN en
  if !s.jobOpen then s.applyPin r
  else if en = (s.ctl r).pin then { s with job.due := s.job.due.erase (.pin r) }
  else if s.job.due.contains (.pin r) then s
  else s.addDue (.pin r)

/-- A write of SC_CTRL.PF_EN (R336): with 0 open streams close. -/
def pfEn (s : State) (r : Nat) (en : Bool) : State :=
  let s := s.setFlag (bSc r) Fld.SC_CTRL_PF_EN en
  if en then s else s.modCtl r fun c => { c with streams := [] }

def scClear (s : State) (r : Nat) : State :=
  s.clearRegs (bSc r) 0 [.SC_HIT, .SC_MISS, .SC_WB, .SC_DEAD_EVICT, .SC_RAM_ADDS, .PF_ISSUED, .PF_USED, .PF_LATE, .PF_UNUSED, .PF_OVERTAKEN]

/-- A write of MEM_MAP (R307, R335): ignored while a job is open; IL_GIB above 32 is clamped. -/
def memMap (s : State) (v : Nat) : State :=
  if s.jobOpen then s else s.setF bPackage Fld.MEM_MAP_IL_GIB (min 32 (bitsOf v 0 6))

/-- The line a stream fetches next: the nearest one ahead, within DIST and its window, that is not present and not in flight
(R324). -/
def streamNext (s : State) (r : Nat) (t : Stream) : Option Nat :=
  let c := s.ctl r
  let dist := clampTo 1 64 (s.getF (bSc r) Fld.PF_CTRL_DIST)
  let edge := s.getF bPackage Fld.MEM_MAP_IL_GIB * 2 ^ 23
  let inside (l : Nat) : Bool := decide (l < 2 ^ 28) && (decide (l < edge) == decide (t.last < edge))
  let ahead := (upFrom 1 dist).filterMap fun k => if t.up then some (t.last + k) else if k ≤ t.last then some (t.last - k) else none
  ahead.find? fun l => inside l && (findWay c (l * 128)).isNone && !(c.fills.any fun f => f.line == l)

end State

/-- The host-window reads that the B1 keeps outstanding at most (R513). -/
def maxHostReads : Nat := 768

/-! ### The rows -/

/-- STACK_ACCESS (R315 to R321, R325): one access within a line. `data` is what a write or an add carries (an add's are FP32
elements, R252); `len` is a read's. No read is served before the tiers have been cleared (R557). -/
def execStackAccess (addr : BitVec 52) (act : MemAct) (data : List Byte) (len : Nat) (s : State) :
    Host.Outcome State Fault Refusal :=
  let a := addr.toNat
  let n := if act = MemAct.read then len else data.length
  .next (match s.target a with
    | .fast r o =>
      if n = 0 ∨ 128 < o % 128 + n ∨ ¬ s.runs (672 + r) ∨ (act = MemAct.read ∧ ¬ s.rot.cleared) then s
      else
        let s := s.cacheAccess r o a act (act == MemAct.write && n == 128)
        match act with
        | .read => s.readBad (s.badIn a n) 0xFFFFFFFF 0 0
        | .write => s.setDevBytes a data
        | .add =>
          (s.addF32 a ((chunks 4 (n / 4) data).map fun b => BitVec.ofNat 32 (leNat b))).count (bSc r) .SC_RAM_ADDS
            (s.addedGranules a (n / 4))
    | _ => s)

/-- CACHE_FILL (R318, R321). -/
def execCacheFill (stack : RegionId) (line : Nat) (s : State) : Host.Outcome State Fault Refusal :=
  .next (s.ifRuns (672 + stack.val) (match (s.ctl stack).fills.find? fun f => f.line == line && !f.pre with
    | some f => s.landFill stack f
    | none => s))

/-- PREFETCH_ISSUE (R324): a stream's next line; while a demand access waits on the bank it is withheld (R588). -/
def execPrefetchIssue (stack : RegionId) (stream : Nat) (withheld : Bool) (s : State) : Host.Outcome State Fault Refusal :=
  .next (s.ifRuns (672 + stack.val) (match (s.ctl stack).streams[stream]? with
    | none => s
    | some t =>
      match s.streamNext stack t with
      | none => s
      | some l =>
        if ¬ s.flag (bSc stack) Fld.SC_CTRL_PF_EN then s
        else if withheld then s.pfCount stack 7
        else ((s.count (bSc stack) .PF_ISSUED).pfCount stack 0).modCtl stack fun c =>
          { c with fills := c.fills ++ [⟨l, t.cls, false, true, false, false, false⟩] }))

/-- PREFETCH_FILL (R325). -/
def execPrefetchFill (stack : RegionId) (line : Nat) (s : State) : Host.Outcome State Fault Refusal :=
  .next (s.ifRuns (672 + stack.val) (match (s.ctl stack).fills.find? fun f => f.line == line && f.pre with
    | some f => s.landFill stack f
    | none => s))

namespace State

/-- The write buffer of a slow-tier controller: a granule joins it, the oldest leaving while it is full (R311). -/
def slowWrite (s : State) (chip g : Nat) : State :=
  let put (l : List Nat) : List Nat := if l.contains g then l else if l.length < 256 then l ++ [g] else l.drop 1 ++ [g]
  { s with ms.slow := Tbl.upd (fun _ => []) s.ms.slow chip put }

end State

/-- SLOW_TIER_ACCESS (R311): a read is served from the buffer where it matches, and reads the same data either way; `drained`
writes have left the buffer for DRAM before. No read is served before the tiers have been cleared (R557). -/
def execSlowTierAccess (addr : BitVec 52) (write : Bool) (data : List Byte) (len drained : Nat) (s : State) :
    Host.Outcome State Fault Refusal :=
  let a := addr.toNat
  .next (match s.target a with
    | .slow o =>
      let chip := o / 4096 % 6
      let s := { s with ms.slow := Tbl.upd (fun _ => []) s.ms.slow chip fun l => l.drop drained }
      if write then
        if data.length = 0 ∨ 64 < a % 64 + data.length then s else (s.slowWrite chip (a / 64)).setDevBytes a data
      else if s.rot.cleared then s.readBad (s.badIn a len) 0xFFFFFFFF 0 0 else s
    | _ => s)

/-- HOST_WINDOW_ACCESS (R312, R513): a write is posted, a read is issued under a tag; while 768 reads are outstanding the next one waits. -/
def execHostWindowAccess (addr : BitVec 52) (write : Bool) (data : List Byte) (s : State) : Host.Outcome State Fault Refusal :=
  .next (match s.target addr.toNat with
    | .host o =>
      if write then s.setDevBytes addr.toNat data
      else if maxHostReads ≤ s.ms.hostReads.length then s
      else
        let tag := (s.ms.hostReads.map Prod.fst).foldl (fun m t => max m (t + 1)) 0
        { s with ms.hostReads := s.ms.hostReads ++ [(tag, o)] }
    | _ => s)

/-- HOST_READ_COMPLETION (R312): data (0), or a completion error (1) or a timeout (2), which are uncorrectable errors; while the link is down no
data comes (R3). -/
def execHostReadCompletion (tag : Nat) (how : Fin 3) (s : State) : Host.Outcome State Fault Refusal :=
  .next (match s.ms.hostReads.find? fun t => t.1 == tag with
    | none => s
    | some (_, o) =>
      let s := { s with ms.hostReads := s.ms.hostReads.filter fun t => t.1 != tag }
      if how = 0 ∧ s.hostUp then s
      else
        let s := if how = 2 then s.count (bFn 4) .HL_CPL_TIMEOUT else s
        s.uncorrectable ⟨udHub, 7, hostBase + o, 0, 0, 0, 0xFFFFFFFF⟩)

/-- MEM_MAP_WRITE (R307). -/
def execMemMapWrite (w : Writer) (value : BitVec 32) (s : State) : Host.Outcome State Fault Refusal :=
  .next (ifControl w s (s.memMap value.toNat))

/-- SC_CNT_CLEAR (R336). -/
def execScCntClear (stack : RegionId) (w : Writer) (s : State) : Host.Outcome State Fault Refusal :=
  .next (ifControl w s (s.ifReached (bSc stack) (s.scClear stack)))

/-- PF_EN_WRITE (R336). -/
def execPfEnWrite (stack : RegionId) (w : Writer) (en : Bool) (s : State) : Host.Outcome State Fault Refusal :=
  .next (ifControl w s (s.ifReached (bSc stack) (s.pfEn stack en)))

/-- SC_PIN_WRITE (R322). -/
def execScPinWrite (stack : RegionId) (w : Writer) (en : Bool) (s : State) : Host.Outcome State Fault Refusal :=
  .next (ifControl w s (s.ifReached (bSc stack) (s.scPin stack en)))

end Sys2Proof.Machine
end

