-- ==== Sys2Proof/Machine/Sampler.lean ====
section
/-! DEFINITION. The graph samplers (R207 to R236): descriptors, checks, the five modes, traces, progress. -/

namespace Sys2Proof.Machine

/-! ### Descriptors -/

/-- Mode, hops and fan-outs in force (R211, R212). -/
def smpMode (d : List Byte) : Nat := if 4 < dbits d 52 4 then 0 else dbits d 52 4
def smpDepth (d : List Byte) : Nat := if smpMode d = 4 then 1 else dbits d 56 2 + 1
def smpFan (d : List Byte) (h : Nat) : Nat := dbits d (256 + 8 * (h - 1)) 6 + 1
def smpClamps (d : List Byte) : Nat :=
  (if 4 < dbits d 52 4 then 1 else 0) + if smpMode d = 4 ∧ dbits d 56 2 ≠ 0 then 1 else 0
def smpSeeds (d : List Byte) : Nat := dbits d 224 16 + 1
def smpTrace (d : List Byte) : Nat := dbits d 128 52
def smpCap (d : List Byte) : Nat := dbits d 192 32

/-- Records of each hop (R215). -/
def smpHops (d : List Byte) : List Nat :=
  if smpMode d = 4 then [smpSeeds d * smpFan d 1 * smpFan d 2]
  else (upFrom 1 (smpDepth d)).map fun h => ((upFrom 1 h).map (smpFan d)).foldl (· * ·) (smpSeeds d)

def natSum (l : List Nat) : Nat := l.foldl (· + ·) 0

/-- B_h and the planned record count (R215). -/
def smpBase (d : List Byte) (h : Nat) : Nat := natSum ((smpHops d).take (h - 1))
def smpPlanned (d : List Byte) : Nat := natSum (smpHops d)

/-- Positions an expansion fills. -/
def smpF (d : List Byte) (h : Nat) : Nat := if smpMode d = 4 then smpFan d 2 else smpFan d h

/-- The trace header (R214). A planned count or a start that does not fit its 32 bits, as that of a trace that fails for want of capacity may
not, is held modulo 2^32 (R214 leaves it open: DESIGN CHOICE, log entry 118). -/
def smpHeader (d : List Byte) (status hops voids clamped : Nat) : List Byte :=
  let b (h : Nat) : Nat := if h ≤ smpDepth d then smpBase d h else smpPlanned d
  let f (h : Nat) : Nat := if h ≤ (if smpMode d = 4 then 2 else smpDepth d) then smpFan d h else 0
  leBytes 64 (status + hops * 2 ^ 8 + (smpDepth d - 1) * 2 ^ 16 + smpMode d * 2 ^ 18 + dStep d * 2 ^ 32
    + smpSeeds d * 2 ^ 64 + smpPlanned d % 2 ^ 32 * 2 ^ 96 + b 2 % 2 ^ 32 * 2 ^ 128 + b 3 % 2 ^ 32 * 2 ^ 160 + b 4 % 2 ^ 32 * 2 ^ 192
    + f 1 * 2 ^ 224 + f 2 * 2 ^ 232 + f 3 * 2 ^ 240 + f 4 * 2 ^ 248 + voids % 2 ^ 32 * 2 ^ 256 + clamped % 2 ^ 32 * 2 ^ 288)

/-- Fields of a graph descriptor (R207). -/
def gOff (g : List Byte) : Nat := dbits g 0 52
def gNbr (g : List Byte) : Nat := dbits g 64 52
def gWgt (g : List Byte) : Nat := dbits g 128 52
def gTs (g : List Byte) : Nat := dbits g 192 52
def gVmax (g : List Byte) : Nat := dbits g 256 40
def gEcount (g : List Byte) : Nat := dbits g 320 48

/-! ### One expansion -/

/-- A record drawn: vertex, edge, restart; none where void. -/
abbrev Rec := Option (Nat × Nat × Bool)

/-- What an expansion counts as it runs: identifiers clamped, whether its row was malformed, hub vertices cut, returns to the seed, those
forced, variates. -/
structure Tally where
  clamps : Nat
  bad : Bool
  trunc : Nat
  restarts : Nat
  deads : Nat
  variates : Nat
  /-- a read waits for a stack in HOLD -/
  held : Bool
  deriving DecidableEq, Repr

def Tally.none : Tally := ⟨0, false, 0, 0, 0, 0, false⟩

/-- Reads of graph data, with the tally so far. The first read that fails ends the expansion (R209, R226, log entry 33): its address, or
none where the failure is recorded already. -/
abbrev Rd (α : Type) := ExceptT (Option Nat) (StateM Tally) α

/-- The tally moves on. -/
def note (f : Tally → Tally) : Rd Unit := modify f
def noteBad (bad : Bool) : Rd Unit := note fun y => { y with bad := y.bad || bad }
def noteVariates (n : Nat) : Rd Unit := note fun y => { y with variates := y.variates + n }

/-- uniform(m) of an output (R224). -/
def uniform (out : Word) (m : Nat) : Nat := out.toNat * m / 2 ^ 64

/-- The key and variate of R224. -/
def smpKey (seed : Word) (salt vertex hop : Nat) : Word :=
  srOut (seed ^^^ BitVec.ofNat 64 (salt * 2 ^ 32)) ((vertex * 8 + hop) % 2 ^ 64)
def variate (key : Word) (slot i : Nat) : Word := srOut key ((slot * 2 ^ 24 + i) % 2 ^ 64)

/-- The reservoir sample (R219): list indices in arrival order fill F slots, later arrivals replace by draw. -/
def reservoir (key : Word) (slot f : Nat) (arrivals : List Nat) : List Nat :=
  ((arrivals.zip (upFrom 0 arrivals.length)).drop f).foldl (fun (a : List Nat) p =>
    let k := uniform (variate key slot (p.2 - f)) (p.2 + 1)
    if k < f then a.set k p.1 else a) (arrivals.take f)

/-- The index selection (R219). -/
def selection (key : Word) (slot d f : Nat) : List Nat :=
  (upFrom 0 f).foldl (fun (a : List Nat) i =>
    let j := d - f + i
    let k := uniform (variate key slot i) (j + 1)
    a ++ [if a.contains k then j else k]) []

/-- List indices e0 to e0 + d − 1 in the order their 64-byte granules arrive: `order` lists granules counted from the list's first;
any other list stands for ascending order (R219, log entry 5). -/
def arrivals (nbr e0 d : Nat) (order : List Nat) : List Nat :=
  let gr (i : Nat) : Nat := (nbr + 8 * (e0 + i)) / 64 - (nbr + 8 * e0) / 64
  let n := gr (d - 1) + 1
  let ord := if order.length = n ∧ (upFrom 0 n).all order.contains then order else upFrom 0 n
  ord.flatMap fun g => (upFrom 0 d).filter fun i => gr i == g

/-- Binary search for the first index of [lo, lo + n) whose entry passes; entries are read as probed. -/
def lowerBound (pass : Nat → Rd Bool) : Nat → Nat → Nat → Rd Nat
  | 0, lo, _ => pure lo
  | fuel + 1, lo, hi =>
    if lo < hi then do
      let m := (lo + hi) / 2
      if ← pass m then lowerBound pass fuel lo m else lowerBound pass fuel (m + 1) hi
    else pure lo

namespace State

def sampler (s : State) (n : Nat) : Sampler := Tbl.get (fun _ => Sampler.reset) s.smp n
def modSmp (s : State) (n : Nat) (f : Sampler → Sampler) : State :=
  { s with smp := Tbl.put (fun _ => Sampler.reset) s.smp n (f (s.sampler n)) }

/-- A graph-data entry read (R209, R226). -/
def rd (s : State) (a n : Nat) : Rd Nat := do
  note fun y => { y with held := y.held || !s.memRuns a n }
  if s.inTiers a n && (s.badIn a n).isEmpty then pure (s.devNat a n) else throw (some a)

/-- First edge and degree (R208, R209). -/
def degree (s : State) (g : List Byte) (v : Nat) : Rd (Nat × Nat) := do
  let a ← s.rd (gOff g + 8 * v) 8
  let b ← s.rd (gOff g + 8 * (v + 1)) 8
  let e := gEcount g
  let (a, b) := (a % 2 ^ 48, b % 2 ^ 48)
  noteBad (decide (e < a) || decide (e < b) || decide (min b e < min a e))
  pure (min a e, min b e - min a e)

/-- The vertex at an edge, clamped (R208, R209). -/
def neighbour (s : State) (g : List Byte) (e : Nat) : Rd Nat := do
  let v ← s.rd (gNbr g + 8 * e) 8
  let v := v % 2 ^ 40
  note fun y => { y with clamps := y.clamps + if gVmax g < v then 1 else 0 }
  pure (min v (gVmax g))

/-- Records of chosen list indices of a row, void up to F (R217). -/
def pick (s : State) (g : List Byte) (e0 f : Nat) : List Nat → Rd (List Rec)
  | [] => pure (List.replicate f none)
  | i :: r => do
    let v ← s.neighbour g (e0 + i)
    let rs ← s.pick g e0 (f - 1) r
    pure (some (v, e0 + i, false) :: rs)

/-- The list is streamed in the order its entries arrive (R219). -/
def stream (s : State) (g : List Byte) (e0 : Nat) : List Nat → Rd Unit
  | [] => pure ()
  | i :: r => do
    let _ ← s.rd (gNbr g + 8 * (e0 + i)) 8
    s.stream g e0 r

/-- The uniform rules over the first d edges of a row (R219, R222). A neighbour that the reservoir streams and does not keep is neither
clamped nor counted when it is out of range: only the chosen ones are (R209 leaves it open: DESIGN CHOICE, log entry 118). -/
def uniformDraw (s : State) (g : List Byte) (key : Word) (slot e0 d f : Nat) (order : List Nat) : Rd (List Rec) :=
  if d ≤ f then s.pick g e0 f (upFrom 0 d)
  else if d ≤ 256 then do
    let come := arrivals (gNbr g) e0 d order
    s.stream g e0 come
    noteVariates (d - f)
    s.pick g e0 f (reservoir key slot f come)
  else do
    noteVariates f
    s.pick g e0 f (selection key slot d f)

/-- Weighted mode (R220). -/
def weightedDraw (s : State) (g : List Byte) (key : Word) (slot e0 d f : Nat) : Rd (List Rec) :=
  if d = 0 then pure (List.replicate f none)
  else do
    let w ← s.rd (gWgt g + 4 * (e0 + d - 1)) 4
    let w := f32 (BitVec.ofNat 32 w)
    if !w.isFin || w.neg? || w.isZero then do
      noteBad true
      pure (List.replicate f none)
    else do
      let is ← (upFrom 0 f).mapM fun i => do
        noteVariates 1
        let u := (FV.fin false ((variate key slot i).toNat / 2 ^ 40) (-24)).mul w
        lowerBound (fun m => do
          let c ← s.rd (gWgt g + 4 * (e0 + m)) 4
          pure (u.lt (f32 (BitVec.ofNat 32 c)))) 48 0 (d - 1)
      s.pick g e0 f is

/-- The expansion of a vertex at a hop (R218 to R222, R224). -/
def expandHop (s : State) (k : SmpDesc) (h slot v edge : Nat) (order : List Nat) : Rd (List Rec) := do
  let d := k.desc
  let g := k.graph
  let f := smpFan d h
  let key := smpKey k.seed (dbits d 384 32) v h
  let (e0, deg) ← s.degree g v
  match smpMode d with
  | 1 => s.weightedDraw g key slot e0 deg f
  | 2 => do
    note fun y => { y with trunc := y.trunc + if f < deg then 1 else 0 }
    s.pick g e0 f (upFrom 0 (min deg f))
  | 3 => do
    let t ← if 1 < h ∧ dbits d 58 1 = 1 then s.rd (gTs g + 8 * edge) 8 else pure (dbits d 320 64)
    let c ← lowerBound (fun m => do
      let x ← s.rd (gTs g + 8 * (e0 + m)) 8
      pure (decide (t < x))) 48 0 deg
    s.uniformDraw g key slot e0 c f order
  | _ => s.uniformDraw g key slot e0 deg f order

/-- The steps of a walk (R223): step t of `n` from a vertex. -/
def walkFrom (s : State) (g : List Byte) (key : Word) (slot alpha seed : Nat) : Nat → Nat → Nat → Rd (List Rec)
  | 0, _, _ => pure []
  | n + 1, t, v => do
    let back (dead : Nat) : Rd (List Rec) := do
      note fun y => { y with restarts := y.restarts + 1, deads := y.deads + dead }
      let r ← s.walkFrom g key slot alpha seed n (t + 1) seed
      pure (some (seed, 0xFFFFFFFFFFFF, true) :: r)
    noteVariates 1
    if (variate key slot (2 * t)).toNat / 2 ^ 48 < alpha then back 0
    else do
      let (e0, d) ← s.degree g v
      if d = 0 then back 1
      else do
        noteVariates 1
        let e := e0 + uniform (variate key slot (2 * t + 1)) d
        let u ← s.neighbour g e
        let r ← s.walkFrom g key slot alpha seed n (t + 1) u
        pure (some (u, e, false) :: r)

/-! ### Traces -/

/-- A record's 16 bytes (R216, R217). -/
def recordBytes (dest hop : Nat) : Rec → List Byte
  | none => leBytes 16 0
  | some (v, e, r) => leBytes 16 (v + e * 2 ^ 40 + dest % 2 ^ 32 * 2 ^ 88 + hop * 2 ^ 120 + if r then 2 ^ 123 else 0)

def smpJob (s : State) (n id : Nat) : Option SmpDesc := (s.sampler n).active.find? fun k => k.id == id
def modJob (s : State) (n id : Nat) (f : SmpDesc → SmpDesc) : State :=
  s.modSmp n fun g => { g with active := g.active.map fun k => if k.id = id then f k else k }

/-- The hop of a parent slot: seeds 1, a record of hop h its children's h + 1. -/
def hopOf (d : List Byte) (slot : Nat) : Nat :=
  if slot < smpSeeds d ∨ smpMode d = 4 then 1
  else (((upFrom 1 (smpDepth d)).filter fun h => decide (smpBase d h ≤ slot - smpSeeds d)).getLastD 1) + 1

/-- The first position of an expansion's records (R215). -/
def firstPos (d : List Byte) (slot : Nat) : Nat :=
  let h := hopOf d slot
  if smpMode d = 4 then slot * smpFan d 2
  else smpBase d h + (if h = 1 then slot else slot - smpSeeds d - smpBase d (h - 1)) * smpFan d h

/-- How many parent slots a descriptor expands: walks, or seeds and the records of every hop but the last. -/
def parentCount (d : List Byte) : Nat :=
  if smpMode d = 4 then smpSeeds d * smpFan d 1 else smpSeeds d + natSum ((smpHops d).take (smpDepth d - 1))

/-- An expansion's records written at their positions, kept for their own children, and counted (R215 to R217, R236). -/
def writeRecords (s : State) (n : Nat) (k : SmpDesc) (slot : Nat) (recs : List Rec) : State :=
  let d := k.desc
  let h := hopOf d slot
  let p := firstPos d slot
  let dest := if smpMode d = 4 then slot / smpFan d 1 else slot
  let s := s.foldS (recs.zip (upFrom p recs.length)) fun s e =>
    s.setDevBytes (smpTrace d + 64 + 16 * e.2) (recordBytes dest h e.1)
  let voids := (recs.filter Option.isNone).length
  let keep := decide (h < smpDepth d)
  let code : Rec → Nat
    | none => 1
    | some (v, e, _) => 2 + v + e * 2 ^ 40
  let s := s.modJob n k.id fun k => { k with
    recs := if keep then (recs.zip (upFrom p recs.length)).foldl (fun t e => Tbl.insert t e.2 (code e.1)) k.recs else k.recs
    left := k.left.set (h - 1) (k.left.getD (h - 1) 0 - recs.length)
    voids := k.voids + voids }
  let b := bCluster n
  let s := if recs.length = voids then s else s.count b .SMP_RECORDS (recs.length - voids)
  let s := if voids = 0 then s else s.count b .SMP_VOID voids
  s.workItem (10752 + 2 * n) recs.length

/-- The next parent of a descriptor, if it is known: its vertex and edge, or that it is void. -/
def nextParent (k : SmpDesc) : Option (Option (Nat × Nat)) :=
  let d := k.desc
  if parentCount d ≤ k.next then none
  else if smpMode d = 4 then some (some (k.seeds.getD (k.next / smpFan d 1) 0, 0))
  else if k.next < smpSeeds d then some (some (k.seeds.getD k.next 0, 0))
  else match Tbl.find? k.recs (k.next - smpSeeds d) with
    | none => none
    | some 1 => some none
    | some c => some (some ((c - 2) % 2 ^ 40, (c - 2) / 2 ^ 40))

/-- Void parents at the front of a descriptor write their children void, without a slot (R217). -/
def skipVoids (s : State) (n id : Nat) : Nat → State
  | 0 => s
  | fuel + 1 =>
    match s.smpJob n id with
    | none => s
    | some k =>
      match nextParent k with
      | some none =>
        ((s.writeRecords n k k.next (List.replicate (smpF k.desc (hopOf k.desc k.next)) none)).modJob n id fun k =>
          { k with next := k.next + 1 }).skipVoids n id fuel
      | _ => s

/-! ### Starting and ending -/

def smpAgent (n : Nat) : Nat := agentEngine 0 3 n

/-- A progress signal of m (R227). -/
def smpSignals (s : State) (n seq : Nat) (c : Option Nat) (m : Nat) : State :=
  match c with
  | some c => if counterOk c then (s.syncAdd (smpAgent n) seq c m false).2 else s
  | none => s

/-- A descriptor leaves with a status: a status other than DONE is recorded and reported (R227, R235). -/
def smpEnd (s : State) (n : Nat) (k : SmpDesc) (status : Nat) : State :=
  let q := tileQueue k.tile 0
  let s := s.modSmp n fun g => { g with
    active := g.active.filter fun j => j.id != k.id
    exps := g.exps.filter fun e => e.2.1 != k.id }
  let s := if status = 1 then s
    else
      let img := status + k.tile % 16 * 2 ^ 8 + k.seq % 2 ^ 32 * 2 ^ 12
      let s := ((s.setReg (bCluster n) .SMP_ERR 0 (BitVec.ofNat 64 img)).setFlag (bCluster n) Fld.SMP_STATUS_ERR_SEEN true).irq
        (srcCluster n 1)
      s.eventQ 0x0004 (udCluster n) img q k.seq (dStep k.desc)
  s.descDone q k.seq

/-- A graph descriptor through the cache (R210): none where its read fails. -/
def graphRead (s : State) (n a seq step : Nat) : Option (List Byte) × State :=
  match (s.sampler n).cache.find? fun e => e.1 == a with
  | some e => (some e.2, s.modSmp n fun g => { g with cache := e :: g.cache.filter fun x => x.1 != a })
  | none =>
    match s.badIn a 64 with
    | [] =>
      let g := s.devBytes a 64
      (some g, s.modSmp n fun m => { m with cache := ((a, g) :: m.cache).take 8 })
    | bad => (none, s.readBad bad (smpAgent n) seq step)

/-- The array bases a mode reads are aligned and lie in the tiers (R213); the weights' and the timestamps' are read only where the graph has
them (R207). -/
def basesOk (s : State) (mode : Nat) (g : List Byte) : Bool :=
  let ok (a : Nat) : Bool := a % 64 == 0 && s.inTiers a 1
  ok (gOff g) && ok (gNbr g) && (mode != 1 || dbits g 384 1 == 0 || ok (gWgt g)) && (mode != 3 || dbits g 385 1 == 0 || ok (gTs g))

/-- A range lies wholly in the fast tier or wholly in the slow tier. -/
def inOneTier (s : State) (a n : Nat) : Bool := s.inFast a n || inSlow a n

/-- The checks of R213: status 0 where all pass, with the graph descriptor. -/
def smpCheck (s : State) (n seq : Nat) (d : List Byte) : Nat × List Byte × State :=
  let prog := counterField d 438 416
  let ga := dbits d 0 52
  if smpTrace d % 64 ≠ 0 ∨ ¬ s.inOneTier (smpTrace d) (64 + 16 * smpCap d) then (3, [], s)
  else if ga % 64 ≠ 0 ∨ ¬ s.inTiers ga 64 ∨ dbits d 64 52 % 8 ≠ 0 ∨ ¬ s.inOneTier (dbits d 64 52) (8 * smpSeeds d)
      ∨ ¬ counterFieldOk prog then (3, [], s)
  else
    match s.graphRead n ga seq (dStep d) with
    | (none, s) => (5, [], s)
    | (some g, s) =>
      if ¬ s.basesOk (smpMode d) g then (3, g, s)
      else if dbits g 448 8 ≠ 1 ∨ (smpMode d = 1 ∧ dbits g 384 1 = 0) ∨ (smpMode d = 3 ∧ dbits g 385 1 = 0) then (5, g, s)
      else if smpCap d < smpPlanned d ∨ 2 ^ 32 - 1 < smpSeeds d + smpPlanned d then (4, g, s)
      else (0, g, s)

/-- The trace address passes check 1 (R213). -/
def traceOk (s : State) (d : List Byte) : Bool :=
  smpTrace d % 64 == 0 && s.inOneTier (smpTrace d) (64 + 16 * smpCap d)

/-- The queue that is next in turn, with its descriptor (R22, R229). -/
def smpNext (s : State) (n : Nat) : Option (Nat × Nat × List Byte) :=
  let g := s.sampler n
  let free := (upFrom 0 16).filter fun t => !(g.active.any fun k => k.tile % 16 == t)
    && (s.startable (tileQueue (16 * n + t) 0)).isSome
  match ((free.filter (g.turnQ < ·)) ++ free).head? with
  | none => none
  | some t => (s.startable (tileQueue (16 * n + t) 0)).map fun e => (t, e)

/-- A descriptor starts (R211 to R213, R227). -/
def smpBegin (s : State) (n t seq : Nat) (d : List Byte) : State :=
  let q := tileQueue (16 * n + t) 0
  let s := if smpClamps d = 0 then s else s.qClamp q (smpClamps d)
  let s := s.descStart q seq d
  let (st, g, s) := s.smpCheck n seq d
  let id := (s.sampler n).nextId
  let job : SmpDesc := ⟨id, 16 * n + t, seq, d, g, s.job.seed, [], 0, [], smpHops d, 0, 0, 0, false⟩
  if st ≠ 0 then
    let s := if s.traceOk d then s.setDevBytes (smpTrace d) (smpHeader d st 0 0 0) else s
    (s.smpSignals n seq (counterField d 438 416) (smpDepth d)).smpEnd n job st
  else
    let s := s.setDevBytes (smpTrace d) (smpHeader d 0 0 0 0)
    let raw := (upFrom 0 (smpSeeds d)).map fun i => dbits d 64 52 + 8 * i
    let seeds := raw.map fun a => if (s.badIn a 8).isEmpty then min (s.devNat a 8 % 2 ^ 40) (gVmax g) else 2 ^ 40
    let clamped := (raw.filter fun a => (s.badIn a 8).isEmpty && decide (gVmax g < s.devNat a 8 % 2 ^ 40)).length
    let s := s.readBad (s.badIn (dbits d 64 52) (8 * smpSeeds d)) (smpAgent n) seq (dStep d)
    let s := if clamped = 0 then s else s.count (bCluster n) .SMP_CLAMP clamped
    s.modSmp n fun m => { m with nextId := id + 1, active := m.active ++ [{ job with seeds := seeds, clamped := clamped }] }

end State

/-- SAMPLER_START (R213, R227, R229, R532). -/
def execSamplerStart (cluster : ClusterId) (s : State) : Host.Outcome State Fault Refusal :=
  .next (if s.flag (bCluster cluster) Fld.SMP_CTRL_HOLD ∨ 4 ≤ (s.sampler cluster).active.length then s
    else match s.smpNext cluster with
      | none => s
      | some (t, seq, d) => s.opportunity cluster 2 ((s.modSmp cluster fun g => { g with turnQ := t }).smpBegin cluster t seq d))

namespace State

/-- The descriptor whose turn is next and whose next parent is known. -/
def expNext (s : State) (n : Nat) : Option (SmpDesc × Nat) :=
  let g := s.sampler n
  let can := g.active.filter fun k => match nextParent k with
    | some (some _) => true
    | _ => false
  match ((can.filter fun k => decide (g.turnD < k.id)) ++ can).head? with
  | none => none
  | some k => some (k, k.next)

end State

/-- SAMPLER_EXPANSION (R217, R218, R229): void parents at the front write their children; the next descriptor in turn starts its
next parent in a free slot. -/
def execSamplerExpansion (cluster : ClusterId) (s : State) : Host.Outcome State Fault Refusal :=
  .next (s.ifAdmits cluster (if s.flag (bCluster cluster) Fld.SMP_CTRL_HOLD then s
    else
      let s := s.foldS ((s.sampler cluster).active) fun s k => s.skipVoids cluster k.id (State.parentCount k.desc)
      if 32 ≤ (s.sampler cluster).exps.length then s
      else match s.expNext cluster with
        | none => s
        | some (k, slot) =>
          s.opportunity cluster 2 ((s.modJob cluster k.id fun k => { k with next := k.next + 1 }).modSmp cluster fun g =>
            { g with nextId := g.nextId + 1, exps := g.exps ++ [(g.nextId, k.id, slot)], turnD := k.id })))

namespace State

/-- The records of an expansion. A seed that could not be read voids it. -/
def drawSlot (s : State) (k : SmpDesc) (slot : Nat) (order : List Nat) : Rd (List Rec) :=
  let d := k.desc
  if smpMode d = 4 then
    let seed := k.seeds.getD (slot / smpFan d 1) 0
    if seed = 2 ^ 40 then throw none
    else
      let ps := slot / smpFan d 1 * 64 + slot % smpFan d 1
      s.walkFrom k.graph (smpKey k.seed (dbits d 384 32) seed 1) ps (dbits d 288 16) seed (smpFan d 2) 0 seed
  else if slot < smpSeeds d then
    let seed := k.seeds.getD slot 0
    if seed = 2 ^ 40 then throw none else s.expandHop k 1 slot seed 0 order
  else
    let c := Tbl.get (fun _ => 1) k.recs (slot - smpSeeds d)
    s.expandHop k (hopOf d slot) slot ((c - 2) % 2 ^ 40) ((c - 2) / 2 ^ 40) order

/-- A read of an expansion, or the place of its records, is of a stack in HOLD: the expansion waits (R521, R524). -/
def expHeld (s : State) (k : SmpDesc) (slot : Nat) (order : List Nat) : Bool :=
  ((s.drawSlot k slot order).run.run Tally.none).2.held
    || !s.memRuns (smpTrace k.desc + 64 + 16 * firstPos k.desc slot) (16 * smpF k.desc (hopOf k.desc slot))

/-- An expansion completes (R209, R218 to R226, R236). One that made a read that failed is void, with one error record, and counts once in
SMP_BADROW; its returns to the seed are not written and so not counted. -/
def expDone (s : State) (n : Nat) (k : SmpDesc) (slot : Nat) (order : List Nat) : State :=
  let b := bCluster n
  let some_ (s : State) (r : Reg) (c : Nat) : State := if c = 0 then s else s.count b r c
  let (out, y) := (s.drawSlot k slot order).run.run Tally.none
  let (recs, void, s) := match out with
    | .ok rs => (rs, false, s)
    | .error a =>
      (List.replicate (smpF k.desc (hopOf k.desc slot)) none, true,
        match a with
        | some a => s.readBad (s.badIn a 1) (smpAgent n) k.seq (dStep k.desc)
        | none => s)
  let s := s.writeRecords n k slot recs
  let s := s.modJob n k.id fun k => { k with clamped := k.clamped + y.clamps, err := k.err || void }
  let s := some_ (some_ (some_ s .SMP_CLAMP y.clamps) .SMP_BADROW (if y.bad || void then 1 else 0)) .SMP_TRUNC y.trunc
  some_ (some_ (some_ s .SMP_RESTART (if void then 0 else y.restarts)) .SMP_DEADEND (if void then 0 else y.deads)) .SMP_VARIATES y.variates

end State

/-- SAMPLER_READ_RETURN (R219): the reads of an expansion have returned, its list's granules in the order given, and its records
are drawn and written. -/
def execSamplerReadReturn (cluster : ClusterId) (exp : Nat) (order : List Nat) (s : State) : Host.Outcome State Fault Refusal :=
  .next (s.ifRuns cluster (match (s.sampler cluster).exps.find? fun e => e.1 == exp with
    | none => s
    | some (_, id, slot) =>
      let t := s.modSmp cluster fun g => { g with exps := g.exps.filter fun e => e.1 != exp }
      match s.smpJob cluster id with
      | none => t
      | some k => if s.expHeld k slot order then s else t.expDone cluster k slot order))

/-- HOP_COMPLETE (R227): every record of the next hop has landed; the last hop ends the descriptor. -/
def execHopComplete (cluster : ClusterId) (desc : Nat) (s : State) : Host.Outcome State Fault Refusal :=
  .next (s.ifRuns cluster (match s.smpJob cluster desc with
    | none => s
    | some k =>
      if k.left.getD k.hops 0 ≠ 0 ∨ smpDepth k.desc ≤ k.hops ∨ ¬ s.memRuns (smpTrace k.desc) 64 then s
      else
        let h := k.hops + 1
        let last := h == smpDepth k.desc
        let st := if last then (if k.err then 2 else 1) else 0
        let s := s.setDevBytes (smpTrace k.desc)
          (if last then smpHeader k.desc st h k.voids k.clamped else smpHeader k.desc 0 h 0 0)
        let s := s.modJob cluster desc fun k => { k with hops := h }
        let s := s.smpSignals cluster k.seq (counterField k.desc 438 416) 1
        if last then s.smpEnd cluster k st else s))

/-- SMP_HOLD (R229). -/
def execSmpHold (cluster : ClusterId) (w : Writer) (hold : Bool) (s : State) : Host.Outcome State Fault Refusal :=
  .next (ifControl w s (s.ifReached (bCluster cluster) (s.setFlag (bCluster cluster) Fld.SMP_CTRL_HOLD hold)))

namespace State

def smpClear (s : State) (n : Nat) : State :=
  s.clearRegs (bCluster n) 0
    [.SMP_RECORDS, .SMP_VOID, .SMP_CLAMP, .SMP_BADROW, .SMP_TRUNC, .SMP_RESTART, .SMP_DEADEND, .SMP_VARIATES]

/-- The graph-descriptor cache is emptied; descriptors already started keep their copy (R210, R233). -/
def gdInvalidate (s : State) (n : Nat) : State := s.modSmp n fun g => { g with cache := [] }

end State

/-- SMP_CNT_CLEAR (R233). -/
def execSmpCntClear (cluster : ClusterId) (w : Writer) (s : State) : Host.Outcome State Fault Refusal :=
  .next (ifControl w s (s.ifReached (bCluster cluster) (s.smpClear cluster)))

/-- GDINV (R210, R233). -/
def execGdinv (cluster : ClusterId) (w : Writer) (s : State) : Host.Outcome State Fault Refusal :=
  .next (ifControl w s (s.ifReached (bCluster cluster) (s.gdInvalidate cluster)))

end Sys2Proof.Machine
end

