-- ==== Sys2Proof/Machine/Gather.lean ====
section
/-! DEFINITION. The gather/scatter engines (R237 to R267): descriptors, the window, issue, delivery, adds at memory, hot entries,
completion. -/

namespace Sys2Proof.Machine

/-- The sort key of an address and its bank (R246, R308, R311). -/
def State.sortKey (s : State) (a : Nat) : Nat × Nat :=
  match s.target a with
  | .fast r o =>
    let b := r * 2 ^ 12 + bitsOf o 8 7 * 2 ^ 5 + bitsOf o 15 5
    (b * 2 ^ 12 + bitsOf o 23 12, b)
  | .slow o =>
    let g := o / 4096
    let c := g / 48 * 4096 + o % 4096
    let b := g % 6 * 2 ^ 7 + g / 6 % 8 * 2 ^ 4 + bitsOf c 12 4
    (2 ^ 40 + b * 2 ^ 19 + bitsOf c 16 19, 2 ^ 20 + b)
  | _ => (2 ^ 60, 2 ^ 40)

/-- The parts of a row on either side of a 4 KiB boundary: address, size, offset in the row (R242). -/
def rowParts (a n : Nat) : List (Nat × Nat × Nat) :=
  let k := 4096 - a % 4096
  if k < n then [(a, k, 0), (a + k, n - k, k)] else [(a, n, 0)]

/-- The granules of a byte range. -/
def granules (a n : Nat) : List Nat := (upFrom (a / 64) ((a + n - 1) / 64 + 1 - a / 64)).map (64 * ·)

namespace State

def gsDesc (s : State) (n id : Nat) : Option GsDesc := (s.gather n).active.find? fun d => d.id == id
def modGsDesc (s : State) (n id : Nat) (f : GsDesc → GsDesc) : State :=
  s.modGs n fun g => { g with active := g.active.map fun d => if d.id = id then f d else d }

def gsAgent (n : Nat) : Nat := agentEngine 1 3 n
def gsTok (d : GsDesc) : Token := .desc (gsQueue d) d.seq

/-! ### Checks (R243) -/

/-- Where a descriptor's source stands: the index list, or the header and the records. -/
def gsSource (d : GsD) : List (Nat × Nat) :=
  if d.srcKind = 0 then [(d.srcAddr + 8 * d.first, 8 * d.count)]
  else [(d.srcAddr, 64), (d.srcAddr + 64 + 16 * d.first, 16 * d.count)]

/-- The status of the first failing check, or 0. A header that cannot be read fails no check: an uncorrectable error stops no descriptor
(R258), and there is nothing to compare (log entry 116). Of a table the base and the end of row IMAX are checked, as R243 has it: rows
between the tiers, where nothing is mapped, read as zeros (log entry 116). -/
def gsCheck (s : State) (d : GsD) : Nat :=
  let ok (a n : Nat) : Bool := if d.scatter then s.inFast a n else s.inOneTier a n
  let h := s.devNat d.srcAddr 64
  if !(d.runs.all fun r => decide (r.top ≤ 0x40000)) then 3
  else if d.srcAddr % (if d.srcKind = 0 then 8 else 64) ≠ 0 ∨ !((gsSource d).all fun r => ok r.1 r.2) ∨ !ok d.base 1
      ∨ !ok (d.base + d.imax * d.stride + d.bytes - 1) 1
      ∨ (d.scBytes ≠ 0 ∧ (!ok d.scBase 1 ∨ !ok (d.scBase + d.imax * d.scBytes + d.scBytes - 1) 1))
      ∨ !counterFieldOk d.done ∨ !counterFieldOk d.progress then 3
  else if d.srcKind ≠ 0 ∧ (s.badIn d.srcAddr 64).isEmpty ∧ (2 < bitsOf h 0 8 ∨ bitsOf h 96 32 < d.first + d.count) then 4
  else 0

/-! ### Hot entries (R253 to R256) -/

/-- Flushes that have fallen due enter the window while it has room (R244, R255). -/
def openFlushes (s : State) (n : Nat) : State :=
  s.modGs n fun g => (g.hot.filterMap fun h => h.due.map fun id => (h, id)).foldl (fun g (h, id) =>
    if g.window.any (·.id == id) || decide (4096 ≤ g.window.length) then g
    else { g with window := g.window ++ [⟨id, true, 0, h.addr, h.size, 0, 0, h.step, [], some h.id, false, [], [], [], none⟩] }) g

/-- A flush falls due of every hot entry that holds a contribution, but of one whose flush has not issued yet; the flushes' numbers. -/
def flushHot (s : State) (n : Nat) : List Nat × State :=
  let g := s.gather n
  let (ids, hot, next) := g.hot.foldl (fun (a : List Nat × List HotEntry × Nat) h =>
    if !h.used then (a.1, a.2.1 ++ [h], a.2.2)
    else match h.due with
      | some id => (a.1 ++ [id], a.2.1 ++ [h], a.2.2)
      | none => (a.1 ++ [a.2.2], a.2.1 ++ [{ h with due := some a.2.2 }], a.2.2 + 1)) ([], [], g.nextId)
  (ids, (s.modGs n fun g => { g with hot := hot, nextId := next }).openFlushes n)

/-- The hot and candidate tables cleared: entries that hold contributions stay only for their flush. -/
def clearHot (s : State) (n : Nat) : State :=
  s.modGs n fun g => { g with
    cand := []
    hot := (g.hot.filter HotEntry.used).map fun h => { h with closed := true } }

/-- A hot entry takes a row's contribution (R254). -/
def hotAdd (s : State) (n id : Nat) (row : List Half) : State :=
  (s.modGs n fun g => { g with hot := g.hot.map fun h =>
    if h.id = id then { h with used := true, sum := (h.sum.zip row).map fun p => fadd p.1 p.2 } else h }).count (bCluster n) .GS_HOT_ADDS

/-- A count in the candidate table (R253): the row's earlier count, where it was listed, and its new one. -/
def candCount (s : State) (n addr size : Nat) : Option Nat × Nat × State :=
  let g := s.gather n
  match g.cand.find? fun c => c.1 == addr && c.2.1 == size with
  | some c =>
    let k := min 0xFFFF (c.2.2 + 1)
    (some c.2.2, k, s.modGs n fun g => { g with cand := g.cand.map fun e => if e.1 = addr ∧ e.2.1 = size then (addr, size, k) else e })
  | none =>
    if g.cand.length < 32 then (none, 1, s.modGs n fun g => { g with cand := g.cand ++ [(addr, size, 1)] })
    else
      let low := (g.cand.map fun e => e.2.2).foldl min 0xFFFF
      let i := ((g.cand.zip (upFrom 0 32)).find? fun p => p.1.2.2 == low).map Prod.snd
      let k := min 0xFFFF (low + 1)
      (none, k, s.modGs n fun g => { g with cand := g.cand.set (i.getD 0) (addr, size, k) })

/-- A scatter entry counted (R253): the hot entry it was promoted into, if any. -/
def offer (s : State) (n addr size step : Nat) : Option Nat × State :=
  let t := (s.gather n).thresh
  let (old, new, s) := s.candCount n addr size
  if t < new ∧ old.getD 0 ≤ t ∧ size ≤ 2048 then
    if (s.gather n).hot.length < 64 then
      let id := (s.gather n).nextId
      (some id, (s.modGs n fun g => { g with
        nextId := id + 1
        hot := g.hot ++ [⟨id, addr, size, step, List.replicate (size / 4) 0, false, false, none⟩] }).count (bCluster n) .GS_HOT_PROMOTE)
    else (none, s.count (bCluster n) .GS_HOT_FULL)
  else (none, s)

/-! ### Entries (R240, R241) -/

/-- Entry j: its index, or none where void; whether its granule failed. -/
def gsIndex (s : State) (d : GsD) (j : Nat) : Option Nat × List Nat :=
  if d.srcKind = 0 then
    let a := d.srcAddr + 8 * (d.first + j)
    let v := s.devNat a 8
    (if (s.badIn a 8).isEmpty && bitsOf v 63 1 == 0 then some (v % 2 ^ 40) else none, s.badIn a 8)
  else
    let a := d.srcAddr + 64 + 16 * (d.first + j)
    let v := s.devNat a 16
    (if (s.badIn a 16).isEmpty && bitsOf v 120 3 != 0 then some (if d.srcKind = 1 then v % 2 ^ 40 else bitsOf v 88 32) else none,
      s.badIn a 16)

/-- The list position an admission position stands for: a scatter admits in descending order (R251). -/
def gsPosition (d : GsD) (k : Nat) : Nat := if d.scatter then d.count - 1 - k else k

/-- The scratch row of a scatter source as FP32 (R251), or the words of it that fail (R258). -/
def sourceRow (s : State) (tile width a n : Nat) : Except (List Nat) (List Half) :=
  match s.badWords tile fun lo hi => decide (lo < a + n * width) && decide (a < hi) with
  | [] => .ok ((chunks width n (s.scratchBytes tile a (n * width))).map fun b =>
      BitVec.ofNat 32 (if width = 2 then leNat b * 65536 else leNat b))
  | ws => .error ws

/-- A descriptor has met an error it completes with (R258). -/
def gsErr (s : State) (n id : Nat) : State := s.modGsDesc n id fun d => { d with status := 2 }

/-- A descriptor's scatter source could not be read: the failing words are recorded (R258, R578). -/
def sourceErr (s : State) (n : Nat) (k : GsDesc) (ws : List Nat) : State :=
  (s.readBadWords k.tile ws (gsAgent n) k.seq k.d.step).gsErr n k.id

/-- A part of an entry's row has landed; the entry's row is counted with its last part, unless that part was left out of a sum
(R250, R251, R258). -/
def landRef (s : State) (n : Nat) (r : GsRef) : State :=
  let s := s.modGsDesc n r.desc fun d => { d with waiting := d.waiting.erase r.pos }
  match s.gsDesc n r.desc with
  | some d => if d.waiting.contains r.pos ∨ r.out then s else s.count (bCluster n) .GS_ROWS
  | none => s

/-- A row request fits an entry of the window, so that it merges into it (R245). -/
def fits (e x : GsEntry) : Bool :=
  x.scatter == e.scatter && x.hot.isNone && x.addr == e.addr && x.size == e.size && decide (x.refs.length < 32)
    && (if e.scatter then !x.issued && x.step == e.step else x.data.isNone && x.scAddr == e.scAddr && x.scSize == e.scSize)

/-- A row request joins the window: merged or opened (R245). -/
def joinWindow (s : State) (n : Nat) (e : GsEntry) (r : GsRef) : State :=
  match (s.gather n).window.find? (fits e) with
  | some x =>
    (s.modGs n fun g => { g with window := g.window.map fun y => if y.id = x.id then { y with refs := y.refs ++ [r] } else y }).count
      (bCluster n) .GS_MERGED
  | none => s.modGs n fun g => { g with nextId := g.nextId + 1, window := g.window ++ [{ e with id := g.nextId, refs := [r] }] }

/-- The window entries a descriptor holds (R244). -/
def share (g : Gather) (id : Nat) : Nat := (g.window.filter fun e => e.desc == id).length

/-- The hot entry that takes a scatter row's contribution, promoted now where it is its turn (R253, R254). -/
def hotFor (s : State) (n : Nat) (k : GsDesc) (row : Nat) : Option Nat × State :=
  match (s.gather n).hot.find? fun h => h.addr == row && h.size == k.d.bytes && h.step == k.d.step && !h.closed with
  | some h => (some h.id, s)
  | none => s.offer n row k.d.bytes k.d.step

/-- A count window begins with the first entry counted toward it, under GS_HOT as it stands then (R253, R265; log entry 101). -/
def countEntry (s : State) (n : Nat) : State :=
  let s := if (s.gather n).counted ≠ 0 then s
    else s.modGs n fun g => { g with
      thresh := s.getF (bCluster n) Fld.GS_HOT_THRESH, log := s.getF (bCluster n) Fld.GS_HOT_WINDOW_LOG }
  s.modGs n fun g => { g with counted := g.counted + 1 }

/-- The table row of an index. -/
def gsRow (d : GsD) (i : Nat) : Nat := d.base + min i d.imax * d.stride

/-- A descriptor's next entry goes into a hot entry. -/
def goesHot (s : State) (n : Nat) (k : GsDesc) : Bool :=
  k.d.scatter && s.flag (bCluster n) Fld.GS_CTRL_HOT_EN && match (s.gsIndex k.d (gsPosition k.d k.admitted)).1 with
    | some i => ((s.countEntry n).hotFor n k (gsRow k.d i)).1.isSome
    | none => false

/-- What the next entry of a descriptor touches in scratch at once: a void gather row, or a row added into a hot entry. -/
def admitRanges (s : State) (n : Nat) (k : GsDesc) : List (Nat × Nat) :=
  let d := k.d
  let j := gsPosition d k.admitted
  if d.scatter then (if s.goesHot n k then [(d.dest + j * d.destStride, d.rowBytes)] else [])
  else match (s.gsIndex d j).1 with
    | none => (d.dest + j * d.destStride, d.bytes) :: if d.scBytes = 0 then [] else [(d.destSc + j * d.destScStride, d.scBytes)]
    | some _ => []

/-- The row requests of a row, as window entries without references (R242). -/
def rowEntries (k : GsDesc) (row i : Nat) : List GsEntry :=
  let sc := if k.d.scBytes = 0 then 0 else k.d.scBase + i * k.d.scBytes
  (rowParts row k.d.bytes).map fun p => ⟨0, k.d.scatter, k.id, p.1, p.2.1, sc, k.d.scBytes, k.d.step, [], none, false, [], [], [], none⟩

/-- The window entries that a descriptor's next entry opens: one for each row request that merges with none. -/
def opens (s : State) (n : Nat) (k : GsDesc) : Nat :=
  match (s.gsIndex k.d (gsPosition k.d k.admitted)).1 with
  | none => 0
  | some i => if s.goesHot n k then 0
    else ((rowEntries k (gsRow k.d i) (min i k.d.imax)).filter fun e => ((s.gather n).window.find? (fits e)).isNone).length

/-- A descriptor's next entry can be admitted: its share not full and room for what it opens, the scratch it touches served, the
count window not at its end (R244, R253). -/
def canAdmit (s : State) (n : Nat) (k : GsDesc) : Bool :=
  let g := s.gather n
  decide (k.admitted < k.d.count) && decide (share g k.id < 1024) && decide (share g k.id + s.opens n k ≤ 1024)
    && decide (g.window.length + s.opens n k ≤ 4096)
    && s.rangesServe k.tile 4 0 (gsTok k) (s.admitRanges n k)
    && !(k.d.scatter && s.flag (bCluster n) Fld.GS_CTRL_HOT_EN && decide (2 ^ g.log ≤ g.counted))

/-- The requests of a non-void entry (R242, R245). -/
def openRow (s : State) (n : Nat) (k : GsDesc) (pos row i : Nat) : State :=
  let d := k.d
  let parts := rowEntries k row i
  let s := s.modGsDesc n k.id fun x => { x with waiting := x.waiting ++ parts.map fun _ => pos }
  let j := gsPosition d pos
  s.foldS parts fun s e =>
    let off := e.addr - row
    let at_ := d.dest + j * d.destStride + (if d.scatter then off / 4 * d.srcWidth else off)
    s.joinWindow n e ⟨k.id, pos, k.tile, at_, d.destSc + j * d.destScStride, false, [], []⟩

/-- An entry whose granule fails its check is the descriptor's first in that granule (R240, R258). -/
def firstInGranule (d : GsD) (pos : Nat) : Bool :=
  let at_ (p : Nat) : Nat :=
    let j := d.first + gsPosition d p
    (if d.srcKind = 0 then d.srcAddr + 8 * j else d.srcAddr + 64 + 16 * j) / 64
  pos == 0 || at_ (pos - 1) != at_ pos

/-- An entry is admitted (R244, R250, R251, R253, R254). -/
def admitNext (s : State) (n : Nat) (k : GsDesc) : State :=
  let d := k.d
  let b := bCluster n
  let pos := k.admitted
  let j := gsPosition d pos
  let (ix, bad) := s.gsIndex d j
  let s := (s.modGsDesc n k.id fun x => { x with admitted := pos + 1 }).workItem (10753 + 2 * n)
  let s := if bad.isEmpty then s else (s.readBad (if firstInGranule d pos then bad else []) (gsAgent n) k.seq d.step).gsErr n k.id
  match ix with
  | none =>
    let s := s.count b .GS_VOID
    if d.scatter then s
    else
      let s := s.setScratch k.tile (d.dest + j * d.destStride) (List.replicate d.bytes 0)
      if d.scBytes = 0 then s else s.setScratch k.tile (d.destSc + j * d.destScStride) (List.replicate d.scBytes 0)
  | some i =>
    let s := if d.imax < i then s.count b .GS_CLAMP else s
    let row := gsRow d i
    if d.scatter ∧ s.flag b Fld.GS_CTRL_HOT_EN then
      match (s.countEntry n).hotFor n k row with
      | (none, s) => s.openRow n k pos row (min i d.imax)
      | (some id, s) =>
        match s.sourceRow k.tile d.srcWidth (d.dest + j * d.destStride) (d.bytes / 4) with
        | .ok r => (s.hotAdd n id r).count b .GS_ROWS
        | .error ws => s.sourceErr n k ws
    else s.openRow n k pos row (min i d.imax)

/-! ### Issue (R246 to R249) -/

/-- An entry of the other kind that entered earlier, for the same row or a part of it, holds this one back (R249). -/
def behind (g : Gather) (e : GsEntry) : Bool :=
  (g.window.takeWhile (·.id != e.id)).any fun x =>
    x.scatter != e.scatter && decide (x.addr < e.addr + e.size) && decide (e.addr < x.addr + x.size)

/-- The scratch rows a scatter entry reads at issue are served. -/
def issueServed (s : State) (n : Nat) (e : GsEntry) : Bool :=
  !e.scatter || e.refs.all fun r =>
    match s.gsDesc n r.desc with
    | some k => s.banksServe r.tile r.row (e.size / 4 * k.d.srcWidth) 4 0 (gsTok k)
    | none => true

/-- Slots that requests to a bank hold. -/
def bankSlots (s : State) (g : Gather) (bank : Nat) : Nat :=
  (g.window.filter fun e => e.issued && (s.sortKey e.addr).2 == bank).length

/-- The first of some entries in sweep order after the pointer (R246). -/
def sweep (s : State) (g : Gather) (es : List GsEntry) : Option GsEntry :=
  let key (e : GsEntry) : Nat × Nat := ((s.sortKey e.addr).1, e.id)
  let le (a b : Nat × Nat) : Bool := decide (a.1 < b.1) || (a.1 == b.1 && decide (a.2 ≤ b.2))
  let least (l : List GsEntry) : Option GsEntry := l.foldl (fun (m : Option GsEntry) e => match m with
    | none => some e
    | some x => if le (key x) (key e) then some x else some e) none
  match least (es.filter fun e => !le (key e) g.ptr) with
  | some e => some e
  | none => least es

/-- An entry issues: a gather reads, a scatter sends one add of its references' sum, a flush its hot entry's sum (R250, R251,
R255). -/
def issueEntry (s : State) (n : Nat) (e : GsEntry) : State :=
  let b := bCluster n
  let put (s : State) (f : GsEntry → GsEntry) : State :=
    s.modGs n fun g => { g with
      ptr := ((s.sortKey e.addr).1, e.id), turnI := e.desc
      window := g.window.map fun x => if x.id = e.id then { f x with issued := true } else x }
  if !e.scatter then put s id
  else
    match e.hot with
    | some h =>
      let sum := (((s.gather n).hot.find? fun x => x.id == h).map HotEntry.sum).getD []
      let s := put s fun x => { x with sum := sum, todo := granules e.addr e.size }
      let s := s.modGs n fun g => { g with hot := (g.hot.filter fun x => !(x.id == h && x.closed)).map fun x =>
        if x.id = h then { x with sum := List.replicate (x.size / 4) 0, used := false, due := none } else x }
      (s.count b .GS_HOT_FLUSH).count b .GS_MEM_ADDS
    | none =>
      let step (p : Option (List Half) × List GsRef × State) (r : GsRef) : Option (List Half) × List GsRef × State :=
        let (sum, rs, s) := p
        match s.gsDesc n r.desc with
        | none => (sum, rs ++ [r], s)
        | some k =>
          match s.sourceRow r.tile k.d.srcWidth r.row (e.size / 4), sum with
          | .error ws, _ => (sum, rs ++ [{ r with out := true }], s.sourceErr n k ws)
          | .ok v, none => (some v, rs ++ [r], s)
          | .ok v, some a => (some ((a.zip v).map fun q => fadd q.1 q.2), rs ++ [r], s)
      let (sum, rs, s) := e.refs.foldl step (none, [], s)
      (put s fun x => { x with refs := rs, sum := sum.getD (List.replicate (e.size / 4) 0), todo := granules e.addr e.size }).count b
        .GS_MEM_ADDS

/-- One beat of the sweep (R246 to R249). -/
def gsIssue (s : State) (n : Nat) : State :=
  let g := s.gather n
  let slots := (g.window.filter GsEntry.issued).length
  let quota := clampTo 1 1024 (s.getF (bCluster n) Fld.GS_QUOTA_QUOTA)
  if 1024 ≤ slots then s
  else
    let ready := g.window.filter fun e => !e.issued && !behind g e && s.issueServed n e
    let atQuota (e : GsEntry) : Bool := decide (quota ≤ s.bankSlots g (s.sortKey e.addr).2)
    let s := if ready.any atQuota then (s.count (bCluster n) .GS_QUOTA_STALL).bankCount (10753 + 2 * n) 8 else s
    let able := ready.filter fun e => !atQuota e
    let able := if able.length ≤ 1024 - slots then able
      else
        let owners := (0 :: g.active.map GsDesc.id).filter fun o => able.any fun e => e.desc == o
        match ((owners.filter (g.turnI < ·)) ++ owners).head? with
        | some o => able.filter fun e => e.desc == o
        | none => able
    match s.sweep g able with
    | some e => s.issueEntry n e
    | none => s

/-! ### Completion (R257, R258) -/

/-- How many progress signals a descriptor sends in all. -/
def gsChunks (d : GsD) : Nat := (d.count + d.chunk - 1) / d.chunk

/-- Signals sent up to a number. -/
def gsSignals (s : State) (n : Nat) (k : GsDesc) (upTo : Nat) : State :=
  let s := s.foldS (upFrom k.sent (upTo - k.sent)) fun s _ => match k.d.progress with
    | some c => if counterOk c then s.signal (gsAgent n) k.seq c else s
    | none => s
  s.modGsDesc n k.id fun x => { x with sent := max x.sent upTo }

/-- A descriptor completes: the signals that remain, owner-after, DONE, its failure recorded and reported (R257, R266). -/
def gsFinish (s : State) (n : Nat) (k : GsDesc) (status : Nat) : State :=
  let s := s.gsSignals n k (gsChunks k.d)
  let s := s.modGs n fun g => { g with active := g.active.filter fun d => d.id != k.id }
  let s := s.ownerAfter k.tile k.d.oa (k.d.runs.flatMap Run.banks) (gsTok k)
  let s := match k.d.done with
    | some c => if counterOk c then s.signal (gsAgent n) k.seq c else s
    | none => s
  let s := if status = 0 then s
    else
      let img := status + k.tile % 16 * 2 ^ 8 + k.seq % 2 ^ 32 * 2 ^ 12 + if k.d.scatter then 2 ^ 44 else 0
      let s := ((s.setReg (bCluster n) .GS_ERR 0 (BitVec.ofNat 64 img)).setFlag (bCluster n) Fld.GS_STATUS_ERR_SEEN true).irq
        (srcCluster n 2)
      s.eventQ 0x0005 (udCluster n) img (gsQueue k) k.seq k.d.step
  s.descDone (gsQueue k) k.seq

/-- The flush of a descriptor whose admission has ended (R255). -/
def flushEnd (s : State) (n id : Nat) : State :=
  let (ids, s) := s.flushHot n
  s.modGsDesc n id fun k => { k with flushed := true, flushes := (k.flushes ++ ids).dedup }

/-- Nothing of a descriptor is left to do. -/
def gsOver (k : GsDesc) : Bool :=
  k.admitted == k.d.count && k.waiting.isEmpty && k.flushes.isEmpty && (!k.d.flush || k.flushed)

/-- The queue that is next in turn, with its descriptor (R22, R237). -/
def gsNext (s : State) (n : Nat) : Option (Nat × Nat × List Byte) :=
  let g := s.gather n
  let free := (upFrom 0 16).filter fun t => !(g.active.any fun k => k.tile % 16 == t)
    && (s.startable (tileQueue (16 * n + t) 1)).isSome
  match ((free.filter (g.turnQ < ·)) ++ free).head? with
  | none => none
  | some t => (s.startable (tileQueue (16 * n + t) 1)).map fun e => (t, e)

/-- A descriptor starts (R237, R239, R243, R255). -/
def gsBegin (s : State) (n t seq : Nat) (b : List Byte) : State :=
  let q := tileQueue (16 * n + t) 1
  let s := if gsClamps b = 0 then s else s.qClamp q (gsClamps b)
  let s := s.descStart q seq b
  let d := gsOf b
  let st := s.gsCheck d
  let bad := if d.srcKind = 0 ∨ st = 3 then [] else s.badIn d.srcAddr 64
  let s := s.readBad bad (gsAgent n) seq d.step
  let k : GsDesc := ⟨(s.gather n).nextId, 16 * n + t, seq, d, if bad.isEmpty then 0 else 2, 0, [], 0, false, []⟩
  let s := s.modGs n fun g => { g with nextId := g.nextId + 1, active := g.active ++ [k] }
  if st ≠ 0 then s.gsFinish n k st
  else
    let s := if d.scatter then
        let (ids, s) := if (s.gather n).step = some d.step ∨ (s.gather n).step = none then ([], s)
          else
            let (ids, s) := s.flushHot n
            (ids, s.clearHot n)
        (s.modGs n fun g => { g with step := some d.step }).modGsDesc n k.id fun k => { k with flushes := if d.flush then ids else [] }
      else s
    let s := if d.count = 0 ∧ d.flush then s.flushEnd n k.id else s
    match s.gsDesc n k.id with
    | some k => if d.count = 0 ∧ gsOver k then s.gsFinish n k k.status else s
    | none => s

/-- A scatter entry's slot frees: its references have landed, and descriptors that waited for its flush go on. -/
def releaseEntry (s : State) (n : Nat) (e : GsEntry) : State :=
  let s := s.modGs n fun g => { g with
    window := g.window.filter fun x => x.id != e.id
    active := g.active.map fun k => { k with flushes := k.flushes.erase e.id } }
  (s.foldS e.refs fun s r => s.landRef n r).openFlushes n

/-- The sequence number that an entry's accesses carry: that of the descriptor that opened it (R247, R578), 0 for a flush. -/
def gsSeq (s : State) (n : Nat) (e : GsEntry) : Nat :=
  match s.gsDesc n e.desc with
  | some k => k.seq
  | none => 0

/-- A granule of an entry is added at memory in the order it reaches its controller, or keeps its stored bits where it fails its check
(R252, R258). Where its line is not resident the add also waits for the line's fill before it is reported applied; every later access finds
it applied (log entry 19). -/
def memoryAdd (s : State) (n : Nat) (e : GsEntry) (g : Nat) : State :=
  let es := ((upFrom 0 e.sum.length).zip e.sum).filter fun p => (e.addr + 4 * p.1) / 64 * 64 == g
  let (r, line, s) := match s.target g with
    | .fast r o => (r, some (r, o / 128), s.cacheAccess r o g .add false)
    | _ => (0, none, s)
  let s := s.modGs n fun x => { x with window := x.window.map fun y =>
    if y.id = e.id then { y with todo := y.todo.filter (· != g), fills := y.fills ++ line.toList } else y }
  match s.badIn g 64 with
  | [] => (s.foldS es fun s p => s.putDevBytes (e.addr + 4 * p.1)
      (leBytes 4 (fadd (BitVec.ofNat 32 (s.devNat (e.addr + 4 * p.1) 4)) p.2).toNat)).count (bSc r) .SC_RAM_ADDS
  | _ =>
    let s := s.uncorrectable ⟨(s.detector g).1, (s.detector g).2, g, 2, s.gsSeq n e, e.step, gsAgent n⟩
    let s := s.foldS e.refs fun s r => s.gsErr n r.desc
    s.modGs n fun x => { x with active := x.active.map fun k => if k.flushes.contains e.id then { k with status := 2 } else k }

/-- Every granule of an add has been written in its cache: none is left, and no line that it waits for is being filled (R252). -/
def addApplied (s : State) (e : GsEntry) : Bool :=
  e.todo.isEmpty && e.fills.all fun f => !(s.ctl f.1).fills.any fun x => x.line == f.2

/-- Adds already sent to the stack controllers complete although their engine stops (R259). -/
def finishAdds (s : State) (n : Nat) : State :=
  s.foldS ((s.gather n).window.filter fun e => e.issued && e.scatter) fun s e => s.foldS e.todo fun s g => s.memoryAdd n e g

/-- Bytes written from an address of a tile's scratch on, bank by bank where the bank serves the write and has not had its part yet; the
banks that have theirs afterwards (R173, R175). -/
def deliverBytes (s : State) (tile : Nat) (work : Token) (a : Nat) (bs : List Byte) (had : List Nat) : List Nat × State :=
  (bankParts a bs.length).foldl (fun (p : List Nat × State) x =>
    if p.1.contains x.1 || !p.2.bankServes tile x.1 4 0 work then p
    else (p.1 ++ [x.1], p.2.setScratch tile x.2.1 ((bs.drop (x.2.1 - a)).take x.2.2))) (had, s)

/-- A reference's row part and scales are written where their banks serve them (R250); a descriptor that is gone takes none. -/
def deliverRef (s : State) (n : Nat) (e : GsEntry) (row sc : List Byte) (r : GsRef) : GsRef × State :=
  match s.gsDesc n r.desc with
  | none => ({ r with rowIn := banksOf r.row e.size, scaleIn := banksOf r.scale e.scSize }, s)
  | some k =>
    let (b, s) := s.deliverBytes r.tile (gsTok k) r.row row r.rowIn
    let (c, s) := s.deliverBytes r.tile (gsTok k) r.scale sc r.scaleIn
    ({ r with rowIn := b, scaleIn := c }, s)

/-- A reference of a gather entry has its row part and its scales. -/
def refDone (e : GsEntry) (r : GsRef) : Bool :=
  (bankParts r.row e.size).all (fun x => r.rowIn.contains x.1) && (bankParts r.scale e.scSize).all fun x => r.scaleIn.contains x.1

/-- What a gather entry has read, and the state after the read: read once, with the failures of its granules taken by every reference's
descriptor (R250, R258). -/
def gatherData (s : State) (n : Nat) (e : GsEntry) : (List Byte × List Byte) × State :=
  match e.data with
  | some d => (d, s)
  | none =>
    let bad := s.badIn e.addr e.size ++ s.badIn e.scAddr e.scSize
    let d := if bad.isEmpty then (s.devBytes e.addr e.size, s.devBytes e.scAddr e.scSize)
      else (List.replicate e.size 0, List.replicate e.scSize 0)
    let s := s.readBad bad (gsAgent n) (s.gsSeq n e) e.step
    (d, if bad.isEmpty then s else s.foldS e.refs fun s r => s.gsErr n r.desc)

/-- A gather entry's data reaches the references whose banks serve them; the entry leaves with its last reference (R247, R250). -/
def deliverEntry (s : State) (n : Nat) (e : GsEntry) : State :=
  let (d, s) := s.gatherData n e
  let (rs, s) := e.refs.foldl (fun (a : List GsRef × State) r =>
    let (r, s) := a.2.deliverRef n e d.1 d.2 r
    (a.1 ++ [r], s)) ([], s)
  if rs.all (refDone e) then s.releaseEntry n { e with refs := rs }
  else
    let s := s.foldS (rs.filter (refDone e)) fun s r => s.landRef n r
    s.modGs n fun g => { g with window := g.window.map fun x =>
      if x.id = e.id then { x with refs := rs.filter fun r => !refDone e r, data := some d } else x }

/-- Beats that the engine's accesses waited in the tiles of some references, each tile counting them once (R180). -/
def gsWaits (s : State) (n : Nat) (tiles : List Nat) (own port : Nat) : State :=
  match tiles.dedup with
  | [] => s
  | t :: r => (s.bankWaits t 4 own port (some (10753 + 2 * n))).foldS r fun s t => s.bankWaits t 4 own port none

end State

/-! ### The rows -/

/-- GS_DESCRIPTOR_START (R237, R243, R532). -/
def execGsDescriptorStart (cluster : ClusterId) (s : State) : Host.Outcome State Fault Refusal :=
  .next (if s.flag (bCluster cluster) Fld.GS_CTRL_HOLD ∨ 4 ≤ (s.gather cluster).active.length then s
    else match s.gsNext cluster with
      | none => s
      | some (t, seq, d) => s.opportunity cluster 2 ((s.modGs cluster fun g => { g with turnQ := t }).gsBegin cluster t seq d))

/-- GS_ADMIT (R244, R532): the next descriptor in turn that can be served admits its next entry. -/
def execGsAdmit (cluster : ClusterId) (waitOwn waitPort : Nat) (s : State) : Host.Outcome State Fault Refusal :=
  .next (s.ifAdmits cluster (if s.flag (bCluster cluster) Fld.GS_CTRL_HOLD then s
    else
      let g := s.gather cluster
      let can := g.active.filter fun k => s.canAdmit cluster k
      match ((can.filter fun k => decide (g.turnD < k.id)) ++ can).head? with
      | none => s
      | some k => s.opportunity cluster 2
        (((s.modGs cluster fun g => { g with turnD := k.id }).admitNext cluster k).bankWaits k.tile 4 waitOwn waitPort (some (10753 + 2 * cluster)))))

/-- HOT_COUNT_WINDOW_END (R253, R265): counts return to 0 and GS_HOT comes into force, as it stands when the next window begins. -/
def execHotCountWindowEnd (cluster : ClusterId) (s : State) : Host.Outcome State Fault Refusal :=
  .next (if (s.gather cluster).counted < 2 ^ (s.gather cluster).log then s
    else s.modGs cluster fun g => { g with
      counted := 0, cand := g.cand.map fun c => (c.1, c.2.1, 0)
      thresh := s.getF (bCluster cluster) Fld.GS_HOT_THRESH, log := s.getF (bCluster cluster) Fld.GS_HOT_WINDOW_LOG })

/-- GS_ISSUE (R246 to R249, R251): the beats that the source reads of the entry waited are counted at its tiles (R180). -/
def execGsIssue (cluster : GsBeat) (s : State) : Host.Outcome State Fault Refusal :=
  let n := cluster.engine.val
  .next (s.ifRuns cluster.engine (if s.flag (bCluster n) Fld.GS_CTRL_HOLD then s
    else
      let t := s.gsIssue n
      let tiles := ((t.gather n).window.filter fun e => e.issued && e.scatter &&
        (s.gather n).window.any fun x => x.id == e.id && !x.issued).flatMap fun e => e.refs.map GsRef.tile
      t.gsWaits n tiles cluster.waitOwn cluster.waitPort))

/-- GATHER_READ_RETURN (R250, R258): the row and its scales reach the references whose banks the engine owns; the others wait, and a later
row of the entry delivers to them. -/
def execGatherReadReturn (cluster : ClusterId) (entry : Nat) (waitOwn waitPort : Nat) (s : State) : Host.Outcome State Fault Refusal :=
  .next (s.ifRuns cluster (match (s.gather cluster).window.find? fun e => e.id == entry && e.issued && !e.scatter with
    | none => s
    | some e =>
      if e.data.isNone && !(s.memRuns e.addr e.size && s.memRuns e.scAddr e.scSize) then s
      else (s.deliverEntry cluster e).gsWaits cluster (e.refs.map GsRef.tile) waitOwn waitPort))

/-- MEMORY_ADD (R252): one granule of an add in flight. -/
def execMemoryAdd (cluster : ClusterId) (entry : Nat) (granule : BitVec 52) (s : State) : Host.Outcome State Fault Refusal :=
  .next (s.ifRuns cluster (match (s.gather cluster).window.find? fun e => e.id == entry && e.issued && e.scatter with
    | none => s
    | some e => if e.todo.contains granule.toNat && s.memRuns granule.toNat 64 then s.memoryAdd cluster e granule.toNat else s))

/-- SCATTER_ADD_APPLIED (R247, R252): every granule has been written in its cache. -/
def execScatterAddApplied (cluster : ClusterId) (entry : Nat) (s : State) : Host.Outcome State Fault Refusal :=
  .next (s.ifRuns cluster (match (s.gather cluster).window.find? fun e => e.id == entry && e.issued && e.scatter with
    | none => s
    | some e => if s.addApplied e then s.releaseEntry cluster e else s))

/-- GS_FLUSH_END (R255). -/
def execGsFlushEnd (cluster : ClusterId) (desc : Nat) (s : State) : Host.Outcome State Fault Refusal :=
  .next (s.ifRuns cluster (match s.gsDesc cluster desc with
    | none => s
    | some k => if k.d.flush ∧ k.admitted = k.d.count ∧ ¬ k.flushed then s.flushEnd cluster desc else s))

/-- GS_PROGRESS (R257): the next chunk has landed in admission order. -/
def execGsProgress (cluster : ClusterId) (desc : Nat) (s : State) : Host.Outcome State Fault Refusal :=
  .next (s.ifRuns cluster (match s.gsDesc cluster desc with
    | none => s
    | some k =>
      let upto := min k.d.count ((k.sent + 1) * k.d.chunk)
      if k.sent < State.gsChunks k.d ∧ upto ≤ k.admitted ∧ ¬ k.waiting.any (fun p => decide (p < upto)) then
        s.gsSignals cluster k (k.sent + 1)
      else s))

/-- GS_DONE (R257). -/
def execGsDone (cluster : ClusterId) (desc : Nat) (s : State) : Host.Outcome State Fault Refusal :=
  .next (s.ifRuns cluster (match s.gsDesc cluster desc with
    | none => s
    | some k => if State.gsOver k then s.gsFinish cluster k k.status else s))

/-- GS_HOLD (R259). -/
def execGsHold (cluster : ClusterId) (w : Writer) (hold : Bool) (s : State) : Host.Outcome State Fault Refusal :=
  .next (ifControl w s (s.ifReached (bCluster cluster) (s.setFlag (bCluster cluster) Fld.GS_CTRL_HOLD hold)))

namespace State

def gsClear (s : State) (n : Nat) : State :=
  s.clearRegs (bCluster n) 0 [.GS_ROWS, .GS_MERGED, .GS_VOID, .GS_CLAMP, .GS_QUOTA_STALL, .GS_MEM_ADDS, .GS_HOT_PROMOTE,
    .GS_HOT_ADDS, .GS_HOT_FLUSH, .GS_HOT_FULL]

/-- A write of GS_CTRL.HOT_EN (R255): 0 flushes and clears. -/
def hotEn (s : State) (n : Nat) (on : Bool) : State :=
  let s := s.setFlag (bCluster n) Fld.GS_CTRL_HOT_EN on
  if on then s else (s.flushHot n).2.clearHot n

end State

/-- GS_CNT_CLEAR (R262). -/
def execGsCntClear (cluster : ClusterId) (w : Writer) (s : State) : Host.Outcome State Fault Refusal :=
  .next (ifControl w s (s.ifReached (bCluster cluster) (s.gsClear cluster)))

/-- HOT_EN_WRITE (R255). -/
def execHotEnWrite (cluster : ClusterId) (w : Writer) (on : Bool) (s : State) : Host.Outcome State Fault Refusal :=
  .next (ifControl w s (s.ifReached (bCluster cluster) (s.hotEn cluster on)))

/-- HOT_FLUSH_WRITE (R255). -/
def execHotFlushWrite (cluster : ClusterId) (w : Writer) (s : State) : Host.Outcome State Fault Refusal :=
  .next (ifControl w s (s.ifReached (bCluster cluster) (s.flushHot cluster).2))

end Sys2Proof.Machine
end

