-- ==== Sys2Proof/Machine/Embedding.lean ====
section
/-! DEFINITION. The embedding owner logic (R268 to R295): checks, rows and owners, reflections, pooling, gradients, completion. -/

namespace Sys2Proof.Machine

/-! ### Rows (R270 to R276) -/

/-- A row stride: the size rounded up to a power of two, 64 at least (R270). -/
def strideOf (bytes : Nat) : Nat := 2 ^ max 6 (Nat.clog 2 bytes)
/-- Bytes of a row element (R268). -/
def TableD.width (t : TableD) : Nat := if t.rowFmt = 0 then 4 else 2
def TableD.stride (t : TableD) : Nat := strideOf (t.elems * t.width)
def TableD.gradStride (t : TableD) : Nat := strideOf (4 * t.elems)

/-- How many rows are stored (R271). -/
def TableD.rows (t : TableD) : Nat := if t.map = 1 then 2 ^ t.hashBits else t.imax + 1

/-- The stored row of a logical index of a direct or hashed table, and whether the index was clamped (R271). -/
def TableD.rowOf (t : TableD) (i : Nat) : Nat × Bool :=
  let j := min i t.imax
  (if t.map = 1 then j * t.hashMul % 2 ^ 64 / 2 ^ (64 - t.hashBits) else j, decide (t.imax < i))

/-- The address of a placement row and its segment: 0 fast, 1 slow, 2 host (R273). -/
def TableD.placeAt (t : TableD) (p : Nat) : Nat × Nat :=
  if p < t.fastRows then (t.rowBase + p * t.stride, 0)
  else if p < t.fastRows + t.slowRows then (t.slowBase + (p - t.fastRows) * t.stride, 1)
  else (t.hostBase + (p - t.fastRows - t.slowRows) * t.stride, 2)

/-- The elements of a row's bytes as FP32 (R279). -/
def TableD.rowValues (t : TableD) (bs : List Byte) : List Half :=
  (chunks t.width t.elems bs).map fun b =>
    if t.rowFmt = 0 then BitVec.ofNat 32 (leNat b) else toF32 ((if t.rowFmt = 1 then Fmt.bf16 else Fmt.fp16).decode (leNat b))

/-- Elements pooled at A's owner from both parts (R272): product, or maximum of a sum. -/
def joined (t : TableD) (pool : Nat) : Bool := t.map == 2 && (t.combine == 1 || (t.combine == 0 && pool == 2))

/-- What two parts' elements combine to (R272). -/
def combineRows (t : TableD) (a b : List Half) : List Half :=
  (a.zip b).map fun p => if t.combine = 1 then fmul p.1 p.2 else fadd p.1 p.2

/-- Entries in the order the environment gives, those it does not name after them (R73, R280, log entry 5). -/
def inOrder {α : Type} (order : List Nat) (l : List α) : List α :=
  (order.dedup ++ (upFrom 0 l.length).filter fun i => !order.contains i).filterMap fun i => l[i]?

namespace State

def embJob (s : State) (r id : Nat) : Option EmbJob := (s.embReg r).active.find? fun k => k.id == id
def modEmbJob (s : State) (r id : Nat) (f : EmbJob → EmbJob) : State :=
  s.modEmb r fun g => { g with active := g.active.map fun k => if k.id = id then f k else k }

def embAgent (r : Nat) : Nat := agentEngine 0 2 r
def embTok (k : EmbJob) : Token := .desc (embQueue k) k.seq
/-- A descriptor has met an error it completes with (R289). -/
def embErr (s : State) (r id : Nat) : State := s.modEmbJob r id fun k => { k with status := 2 }
def embCount (s : State) (r : Nat) (g : Reg) (n : Nat := 1) : State := if n = 0 then s else s.count (bRegion r) g n

/-- The owner of a stored row (R276): the region of its gradient row, here or at the module at its shard position in the ring order of
SHARD_LEVEL; none where there is no such region or module. -/
def ownerOf (s : State) (t : TableD) (row : Nat) : Nat :=
  let region := match s.target (t.gradBase + row * t.gradStride) with
    | .fast k _ => k
    | _ => 13
  if 1 < t.shards ∧ row % t.shards ≠ t.shardPos then
    match (s.job.rings.getD t.shardLevel [])[row % t.shards]? with
    | some e => if region < 12 then 16 + 16 * e.1 + region else 13
    | none => 13
  else region

/-- An owner-logic write leaves for a region of another module (R276, R439). It carries no data sequence (log entry 102). -/
def ownerSend (s : State) (module level region : Nat) (payload : List Byte) : State :=
  let p := payload.take 16384
  s.routePacket ⟨0, level, module, s.selfModule, p.length * 2 ^ 32 + region * 2 ^ 64 + 2 ^ 116, p⟩ none

/-- The placement of a stored row (R273, R274): its address and segment; the row-map granules that fail. -/
def placement (s : State) (t : TableD) (row : Nat) : Nat × Nat × List Nat :=
  if t.rowmapEn then
    let a := t.rowmapBase + 8 * row
    let p := t.placeAt (s.devNat a 8 % 2 ^ 40)
    (p.1, p.2, if s.mapped a 8 then s.badIn a 8 else [a / 64 * 64])
  else
    let p := t.placeAt row
    (p.1, p.2, [])

/-! ### Checks (R278) -/

/-- A part descriptor is where a composite table can name it. -/
def tableNamed (s : State) (a : Nat) : Bool := a % 128 == 0 && s.mapped a 128

/-- A table's addresses are aligned and lie in their tiers: every address it names, whether or not it has rows there (R278). -/
def tablePlaced (s : State) (t : TableD) : Bool :=
  let g := t.stride
  (if t.map = 2 then s.tableNamed t.rowBase && s.tableNamed t.slowBase
    else t.rowBase % g == 0 && t.slowBase % g == 0 && t.hostBase % g == 0 && t.gradBase % t.gradStride == 0
      && s.inFast t.rowBase 1 && inSlow t.slowBase 1 && inHost t.hostBase 1 && s.inFast t.gradBase 1)
    && t.hitBase % 8 == 0 && t.touchBase % 8 == 0 && t.listBase % 8 == 0 && t.rowmapBase % 8 == 0
    && s.inFast t.hitBase 1 && s.inFast t.touchBase 1 && s.inFast t.listBase 1 && s.mapped t.rowmapBase 1

/-- The status of the first failing check, or 0. -/
def embCheck (s : State) (d : EmbD) (t a b : TableD) : Nat :=
  let tables := if t.map = 2 then [t, a, b] else [t]
  let named := s.tableNamed d.table
    && s.mapped (d.offs + 8 * d.firstBag) (8 * (d.bags + 1)) && s.mapped d.idx 1 && s.mapped d.wgt 1
  if !((s.embRuns d).all fun x => decide (x.top ≤ 0x40000)) then 3
  else if !named || !(tables.all s.tablePlaced) || !counterFieldOk d.done then 3
  else if !(tables.all fun x => x.version == 1)
      || (t.map == 2 && (a.map == 2 || b.map == 2 || (if t.combine = 2 then decide (1024 < a.elems + b.elems) else a.elems != b.elems)))
    then 4
  else 0

/-! ### Bags (R271, R277, R279, R286) -/

/-- Where bag b begins and ends in the index list; the granules of its offsets that fail. -/
def bagSpan (s : State) (d : EmbD) (b : Nat) : Nat × Nat × List Nat :=
  let a := d.offs + 8 * (d.firstBag + b)
  (s.devNat a 8 % 2 ^ 48, s.devNat (a + 8) 8 % 2 ^ 48, s.badIn a 16)

/-- The non-void entries of a bag (position and index), and the index granules that fail: those entries are void. -/
def bagEntries (s : State) (d : EmbD) (lo hi : Nat) : List (Nat × Nat) × List Nat :=
  let all := (upFrom 0 (hi - lo)).map fun p => (p, s.devNat (d.idx + 8 * (lo + p)) 8, s.badIn (d.idx + 8 * (lo + p)) 8)
  ((all.filter fun e => bitsOf e.2.1 63 1 == 0 && e.2.2.isEmpty).map fun e => (e.1, e.2.1 % 2 ^ 40), (all.flatMap fun e => e.2.2).dedup)

/-- A reflection of a row in a region's directory. -/
def reflection (s : State) (r table row : Nat) : Option Refl :=
  ((s.embReg r).dir.map Prod.snd).find? fun e => e.state != 0 && e.table == table && e.row == row

/-- The earliest stamp a lookup takes: step − 1 − STALE (R286). -/
def needStamp (d : EmbD) : Half := BitVec.ofNat 32 d.step - 1 - BitVec.ofNat 32 d.stale
/-- A lookup of a step may use a reflection (R27, R286): its stamp is not before that. The lookup is the later item of an unordered
pair (R28). -/
def reflFresh (d : EmbD) (e : Refl) : Bool := !arrivesLater (BitVec.ofNat 32 e.stamp) (needStamp d)

/-- Entries gathered by key, in the order the keys first occur. -/
def groupBy (es : List (Nat × Nat × Nat × Nat)) : List (Nat × List (Nat × Nat × Nat)) :=
  (es.map fun e => e.1).dedup.map fun k => (k, (es.filter fun e => e.1 == k).map fun e => e.2)

/-- The parts an index goes to: part, its table, the index within it (R271, R272). A joined table's rows go to A's owner. -/
def partsOf (t a b : TableD) (pool i : Nat) : List (Nat × TableD × Nat) :=
  if t.map ≠ 2 then [(0, t, i)]
  else
    let j := min i t.imax
    (0, a, j / t.qDiv) :: if joined t pool then [] else [(1, b, j % t.qDiv)]

/-- How many of a bag's indices are clamped, over the table and its parts (R271). -/
def clampsOf (t a b : TableD) (es : List (Nat × Nat)) : Nat :=
  if t.map ≠ 2 then (es.filter fun e => decide (t.imax < e.2)).length
  else (es.map fun e =>
    let j := min e.2 t.imax
    (if t.imax < e.2 then 1 else 0) + (if a.imax < j / t.qDiv then 1 else 0) + if b.imax < j % t.qDiv then 1 else 0).foldl (· + ·) 0

/-! ### Pooling (R280) -/

/-- The weight of an entry of the index list (R277); 1 unless WEIGHTED. -/
def weightAt (s : State) (d : EmbD) (entry : Nat) : Half :=
  if d.weighted then BitVec.ofNat 32 (s.devNat (d.wgt + 4 * entry) 4) else 0x3F800000#32

/-- What an entry contributes: w × row, rounded; the row itself for maximum. -/
def weighted (pool : Nat) (w : Half) (row : List Half) : List Half := if pool = 2 then row else row.map (fmul w)

/-- A value as it is written: every NaN canonical (R45). -/
def canonF (x : Half) : Half := if (f32 x).isNaN then 0x7FC00000#32 else x

/-- One element of a maximum: the value and its position (R129). -/
def winner (v j u i : Half) : Half × Half :=
  if takesOver false v j.toNat u i.toNat then (canonF v, j) else (u, i)

/-- A partial taken into another: sums add, maxima compete; the first is taken as it is. -/
def mergeInto (pool : Nat) (vals idxs : List Half) (n : Nat) (v i : List Half) : List Half × List Half :=
  if n = 0 then (v.map canonF, i)
  else if pool = 2 then
    let w := ((vals.zip idxs).zip (v.zip i)).map fun p => winner p.2.1 p.2.2 p.1.1 p.1.2
    (w.map Prod.fst, w.map Prod.snd)
  else ((vals.zip v).map fun p => fadd p.1 p.2, [])

/-- Contributions pooled in their order: position and row. -/
def poolRows (pool : Nat) (rows : List (Nat × List Half)) : List Half × List Half × Nat :=
  rows.foldl (fun a r =>
    let m := mergeInto pool a.1 a.2.1 a.2.2 r.2 (if pool = 2 then List.replicate r.2.length (BitVec.ofNat 32 r.1) else [])
    (m.1, m.2, a.2.2 + 1)) ([], [], 0)

/-! ### Reading rows at the owner (R273 to R275, R289) -/

/-- A row as read: none where its placement is unmapped or a granule fails; the granules recorded for it (R289). `hostBad` tells that a
read of host memory ends in an error (R312). -/
def readRow (s : State) (t : TableD) (row : Nat) (hostBad : Bool) : Option (List Half) × List Nat :=
  let (a, _, bad) := s.placement t row
  let n := t.elems * t.width
  let m := t.rowmapBase + 8 * row
  let bad := bad ++ if !bad.isEmpty then []
    else if hostBad && t.rowmapEn && inHost m 8 then [m / 64 * 64]
    else if hostBad && inHost a n then granules a n
    else if s.mapped a n then s.badIn a n else [a / 64 * 64]
  (if bad.isEmpty then some (t.rowValues (s.devBytes a n)) else none, bad)

/-- Counters of a row pooled by its owner (R275): its segment's, and its hit counter where the table keeps them. -/
def rowPooled (s : State) (r : Nat) (t : TableD) (row : Nat) : State :=
  let s := s.count (bRegion r) ([Reg.EMB_TIER_FAST, .EMB_TIER_SLOW, .EMB_TIER_HOST].getD (s.placement t row).2.1 .EMB_TIER_FAST)
  if t.hitEn then
    let a := t.hitBase + 2 * row
    s.setDevNat a 2 (min 0xFFFF (s.devNat a 2 + 1))
  else s

/-- The logical index's row of a table. -/
def rowIn (t : TableD) (i : Nat) : Nat := (t.rowOf i).1

/-- The table and stored row of an entry's part. -/
def partRow (t a b : TableD) (part i : Nat) : TableD × Nat :=
  if t.map ≠ 2 then (t, rowIn t i)
  else
    let j := min i t.imax
    if part = 0 then (a, rowIn a (j / t.qDiv)) else (b, rowIn b (j % t.qDiv))

/-- A row of part B asked for by region r, for a table whose descriptor names B's at `table`. -/
def fetchOf (s : State) (r table row : Nat) : Option EmbFetch := (s.embReg r).fetches.find? fun f => f.table == table && f.row == row

/-- Part B's row of an entry as A's owner reads it (R272, R281): from its placement, or as its module answered. -/
def rowB (s : State) (r : Nat) (t a b : TableD) (i : Nat) (hostBad : Bool) : Option (List Half) × List Nat :=
  let row := (partRow t a b 1 i).2
  if s.ownerOf b row < 16 then s.readRow b row hostBad
  else ((s.fetchOf r t.slowBase row).bind EmbFetch.vals, [])

/-- The row an entry of a request pools: its part's, or both parts' combined at A's owner (R272). -/
def pooledRow (s : State) (r : Nat) (t a b : TableD) (pool part i : Nat) (hostBad : Bool) : Option (List Half) × List Nat :=
  if joined t pool then
    let (x, bx) := s.readRow a (partRow t a b 0 i).2 hostBad
    let (y, by') := s.rowB r t a b i hostBad
    (match x, y with
      | some u, some v => some (combineRows t u v)
      | _, _ => none, bx ++ by')
  else
    let p := partRow t a b part i
    s.readRow p.1 p.2 hostBad

/-- An entry pooled at its owner: one work item (R582), and the rows that it pools count (R275), but one of B that its own module pooled. -/
def entryPooled (s : State) (r : Nat) (t a b : TableD) (pool part i : Nat) : State :=
  let s := s.workItem (bankEmb r)
  let p := partRow t a b part i
  let s := s.rowPooled r p.1 p.2
  let q := partRow t a b 1 i
  if joined t pool && decide (s.ownerOf q.1 q.2 < 16) then s.rowPooled r q.1 q.2 else s

/-! ### Starting (R278, R279, R286, R288) -/

/-- The tables of a job: its own and its parts'. -/
def tabsOf (k : EmbJob) : TableD × TableD × TableD :=
  (tableOf (k.tabs.getD 0 []), tableOf (k.tabs.getD 1 []), tableOf (k.tabs.getD 2 []))

/-- The queue that is next in turn, with its descriptor (R288). -/
def embNext (s : State) (r : Nat) : Option (Nat × Nat × List Byte) :=
  let g := s.embReg r
  let free := (upFrom 0 896).filter fun t => !(g.active.any fun k => k.tile % 896 == t)
    && (s.startable (tileQueue (896 * r + t) 2)).isSome
  match ((free.filter (g.turnQ < ·)) ++ free).head? with
  | none => none
  | some t => (s.startable (tileQueue (896 * r + t) 2)).map fun e => (t, e)

/-- A descriptor completes: owner-after for a lookup, DONE, its failure recorded and reported (R289, R294). -/
def embFinish (s : State) (r : Nat) (k : EmbJob) (status : Nat) : State :=
  let runs := s.embRuns k.d
  let s := s.modEmb r fun g => { g with active := g.active.filter fun d => d.id != k.id }
  let s := if k.d.backward then s else s.ownerAfter k.tile k.d.oa (runs.flatMap Run.banks) (embTok k)
  let s := match k.d.done with
    | some c => if counterOk c then s.signal (embAgent r) k.seq c else s
    | none => s
  let s := if status = 0 then s
    else
      let img := status + k.tile % 896 * 2 ^ 8 + k.seq % 2 ^ 32 * 2 ^ 18 + if k.d.backward then 2 ^ 50 else 0
      let s := ((s.setReg (bRegion r) .EMB_ERR 0 (BitVec.ofNat 64 img)).setFlag (bRegion r) Fld.EMB_STATUS_ERR_SEEN true).irq
        (srcRegion r 0)
      s.eventQ 0x0006 (udRegion r) img (embQueue k) k.seq k.d.step
  s.descDone (embQueue k) k.seq

/-- A lookup's bag is sorted (R279): entries a reflection of the region serves, requests for their owners, how many reflections were
stale, the stamps compared. -/
def sortBag (s : State) (r b : Nat) (d : EmbD) (t ta tb : TableD) (es : List (Nat × Nat)) (part : Nat) :
    List (Nat × List Half) × List EmbReq × Nat × List Nat :=
  let one (e : Nat × Nat) : Option (List Half) × Nat × Option Nat :=
    match (partsOf t ta tb d.pool e.2).find? fun p => p.1 == part with
    | none => (none, 13, none)
    | some (_, x, i) =>
      let row := rowIn x i
      match s.reflection r x.tableId row with
      | some f =>
        if f.state = 2 ∧ ¬ joined t d.pool then
          (if reflFresh d f then some (x.rowValues f.copy) else none, s.ownerOf x row, some f.stamp)
        else (none, s.ownerOf x row, none)
      | none => (none, s.ownerOf x row, none)
  let rs := es.map fun e => (e, one e)
  (rs.filterMap fun p => p.2.1.map fun v => (p.1.1, v),
    (groupBy (rs.filterMap fun p => if p.2.1.isSome then none else some (p.2.2.1, b, p.1))).map fun g => ⟨b, part, g.1, 0, g.2, false⟩,
    (rs.filter fun p => p.2.2.2.isSome && p.2.1.isNone).length, rs.filterMap fun p => p.2.2.2)

/-- The place of the n-th message that a module has sent to a region. -/
def mailOf (s : State) (r module n : Nat) : Option Nat :=
  let l := (s.embReg r).inbox
  ((upFrom 0 l.length).filter fun i => (l[i]?.map Prod.fst) == some module)[n]?

/-- A message of another module that waits at a region is taken. -/
def takeMail (s : State) (r i : Nat) : State := s.modEmb r fun g => { g with inbox := g.inbox.eraseIdx i }

/-- A request to another module leaves and is counted (R276, R295). -/
def sendRequest (s : State) (r owner level : Nat) (q : EmbRemote) : State :=
  (s.embCount r .EMB_REMOTE).ownerSend ((owner - 16) / 16) level ((owner - 16) % 16) (Config.ownerRequest q)

/-- The table a request of a job concerns: its own, or a part's. -/
def reqTable (k : EmbJob) (part : Nat) : Nat :=
  let t := (tabsOf k).1
  if t.map ≠ 2 then k.d.table else if part = 0 then t.rowBase else t.slowBase

/-- A lookup's request as it is sent to another module. -/
def lookupRemote (s : State) (r lo : Nat) (d : EmbD) (q : EmbReq) : EmbRemote :=
  ⟨BitVec.ofNat 52 d.table, q.part, d.pool, BitVec.ofNat 32 d.step, r, q.bag,
    q.entries.map fun e => (e.2.1, e.2.2, s.weightAt d (lo + e.2.1), [])⟩

/-- A lookup's requests and local partials for one bag. -/
def lookupBag (s : State) (r id b seq : Nat) (d : EmbD) (t ta tb : TableD) : State :=
  let (lo, hi, bad0) := s.bagSpan d b
  let (es, bad1) := s.bagEntries d lo hi
  let s := if (bad0 ++ bad1).isEmpty then s else (s.readBad (bad0 ++ bad1) (embAgent r) seq d.step).embErr r id
  let s := s.embCount r .EMB_CLAMP (clampsOf t ta tb es)
  let parts := if t.map = 2 ∧ ¬ joined t d.pool then [0, 1] else [0]
  s.foldS parts fun s part =>
    let (loc, reqs, stale, stamps) := s.sortBag r b d t ta tb es part
    let p := poolRows d.pool (loc.map fun e => (e.1, weighted d.pool (s.weightAt d (lo + e.1)) e.2))
    let ready : List EmbPartial :=
      if loc.isEmpty && !reqs.isEmpty then [] else [⟨b, part, p.1, p.2.1, p.2.2⟩]
    let s := ((s.embCount r .EMB_REFL_HIT loc.length).embCount r .EMB_REFL_STALE stale).workItem (bankEmb r) loc.length
    let s := s.foldS stamps fun s x => s.compared (bankEmb r) (BitVec.ofNat 32 x) (needStamp d)
    let level := (if t.map ≠ 2 then t else if part = 0 then ta else tb).shardLevel
    let s := s.foldS reqs fun s q => if q.owner < 16 then s else s.sendRequest r q.owner level (s.lookupRemote r lo d q)
    s.modEmbJob r id fun k => { k with
      todo := k.todo ++ reqs.map fun q => { q with sent := decide (16 ≤ q.owner) }
      ready := k.ready ++ ready
      bags := Tbl.put (fun _ => BagAcc.reset) k.bags (2 * b + part) ⟨[], [], 0, ready.length + reqs.length⟩ }

/-- A gradient descriptor's requests: one for each row, with the entries that contribute to it (R281, R282). A product's terms for part B
are formed at A's owner: where that is another module, it passes them on. -/
def gradRequests (s : State) (r id seq : Nat) (d : EmbD) (t ta tb : TableD) : State :=
  let bags := (upFrom 0 d.bags).map fun b =>
    let (lo, hi, bad0) := s.bagSpan d b
    let (es, bad1) := s.bagEntries d lo hi
    (b, es, bad0 ++ bad1)
  let bad := bags.flatMap fun e => e.2.2
  let s := if bad.isEmpty then s else (s.readBad bad.dedup (embAgent r) seq d.step).embErr r id
  let s := s.embCount r .EMB_CLAMP ((bags.map fun e => clampsOf t ta tb e.2.1).foldl (· + ·) 0)
  let reqs (part : Nat) : List EmbReq :=
    let x := if t.map ≠ 2 then t else if part = 0 then ta else tb
    let es := bags.flatMap fun e => e.2.1.map fun p =>
      let i := if t.map ≠ 2 then p.2 else if part = 0 then min p.2 t.imax / t.qDiv else min p.2 t.imax % t.qDiv
      (rowIn x i, e.1, p)
    let es := if part = 1 ∧ t.combine = 1 then es.filter fun e => decide (s.ownerOf ta (rowIn ta (min e.2.2.2 t.imax / t.qDiv)) < 16)
      else es
    (groupBy es).map fun g => ⟨0, part, s.ownerOf x g.1, g.1, g.2, false⟩
  let all := reqs 0 ++ if t.map = 2 then reqs 1 else []
  s.modEmbJob r id fun k => { k with
    todo := all
    left := []
    bags := bags.foldl (fun m e => Tbl.put (fun _ => BagAcc.reset) m (2 * e.1) ⟨[], [], e.2.1.length, 0⟩) [] }

/-- A descriptor starts (R278, R288). -/
def embBegin (s : State) (r t seq : Nat) (b : List Byte) : State :=
  let q := tileQueue (896 * r + t) 2
  let d := embOf b
  let read (a : Nat) (on : Bool) : List Byte × Nat :=
    if on && s.tableNamed a then (s.devBytes a 128, tableClamps (s.devBytes a 128)) else ([], 0)
  let (tb0, c0) := read d.table true
  let tab := tableOf tb0
  let (ba, ca) := read tab.rowBase (tab.map == 2)
  let (bb, cb) := read tab.slowBase (tab.map == 2)
  let clamps := embClamps b + c0 + ca + cb
  let s := if clamps = 0 then s else s.qClamp q clamps
  let st := s.embCheck d tab (tableOf ba) (tableOf bb)
  let s := s.descStart q seq b
  let k : EmbJob := ⟨(s.embReg r).nextId, 896 * r + t, seq, d, [tb0, ba, bb], 0, [], [], [], upFrom 0 d.bags⟩
  let s := s.modEmb r fun g => { g with nextId := g.nextId + 1, active := g.active ++ [k] }
  if st ≠ 0 then s.embFinish r k st
  else if d.bags = 0 then s.embFinish r k 0
  else
    let bad := s.badIn d.table 128 ++ if tab.map = 2 then s.badIn tab.rowBase 128 ++ s.badIn tab.slowBase 128 else []
    let s := if bad.isEmpty then s else (s.readBad bad (embAgent r) seq d.step).embErr r k.id
    if d.backward then s.gradRequests r k.id seq d tab (tableOf ba) (tableOf bb)
    else s.foldS (upFrom 0 d.bags) fun s b => s.lookupBag r k.id b seq d tab (tableOf ba) (tableOf bb)

/-! ### Owners (R279, R280, R282) -/

/-- Entries with their places, those whose reads of host memory fail marked. -/
def marked {α : Type} (hostBad : List Nat) (l : List α) : List (α × Bool) :=
  (l.zip (upFrom 0 l.length)).map fun p => (p.1, hostBad.contains p.2)

/-- The rows of part B that entries need at A's owner and that other modules own: row, owner, index within B. -/
def farRows (s : State) (t a b : TableD) (is : List Nat) : List (Nat × Nat × Nat) :=
  ((is.map fun i => ((partRow t a b 1 i).2, min i t.imax % t.qDiv)).filterMap fun p =>
    let o := s.ownerOf b p.1
    if 16 ≤ o then some (p.1, o, p.2) else none).dedup

/-- The far rows that a request needs: a lookup's where its parts are joined, a gradient's for a product's part A. -/
def poolNeeds (s : State) (t a b : TableD) (pool : Nat) (is : List Nat) : List (Nat × Nat × Nat) :=
  if joined t pool then s.farRows t a b is else []
def gradNeeds (s : State) (t a b : TableD) (part : Nat) (is : List Nat) : List (Nat × Nat × Nat) :=
  if t.map = 2 ∧ t.combine = 1 ∧ part = 0 then s.farRows t a b is else []

/-- Every far row that a request needs is here. -/
def rowsHere (s : State) (r table : Nat) (needs : List (Nat × Nat × Nat)) : Bool :=
  needs.all fun x => (s.fetchOf r table x.1).any EmbFetch.here

/-- Far rows that a request has used are dropped: a later request reads them anew. -/
def dropRows (s : State) (r table : Nat) (needs : List (Nat × Nat × Nat)) : State :=
  s.modEmb r fun g => { g with fetches := g.fetches.filter fun f => !(f.table == table && needs.any fun x => x.1 == f.row) }

/-- A request waits for far rows (R272, R276, R281; log entry 102): those not asked for yet are asked for, each a request for one row; else
the answer to the first one that is still out is taken, where it has come, the n-th message that waits from its module. -/
def fetchRows (s : State) (r table step level : Nat) (needs : List (Nat × Nat × Nat)) (n : Nat) (answer : List Half) (failed : Bool) : State :=
  match needs.filter fun x => (s.fetchOf r table x.1).isNone with
  | [] =>
    match needs.find? fun x => !(s.fetchOf r table x.1).any EmbFetch.here with
    | none => s
    | some x => match s.mailOf r ((x.2.1 - 16) / 16) n with
      | none => s
      | some i => (s.takeMail r i).modEmb r fun g => { g with fetches := g.fetches.map fun f =>
          if f.table = table ∧ f.row = x.1 then { f with here := true, vals := if failed then none else some answer } else f }
  | l => s.foldS l fun s x =>
      (s.sendRequest r x.2.1 level ⟨BitVec.ofNat 52 table, 0, 0, BitVec.ofNat 32 step, r, 0, [(0, x.2.2, 0x3F800000#32, [])]⟩).modEmb r
        fun g => { g with fetches := g.fetches ++ [⟨table, x.1, x.2.1, false, none⟩] }

/-- A request of a lookup pooled at its owner: the partial joins those that have arrived. -/
def poolRequest (s : State) (r : Nat) (k : EmbJob) (q : EmbReq) (order hostBad : List Nat) : State :=
  let (t, a, b) := tabsOf k
  let (rows, s) := (inOrder order (marked hostBad q.entries)).foldl (fun (acc : List (Nat × List Half) × State) (e, hb) =>
    let s := acc.2
    let (v, bad) := s.pooledRow q.owner t a b k.d.pool q.part e.2.2 hb
    let s := s.readBad bad (embAgent q.owner) k.seq k.d.step
    match v with
    | none => (acc.1, s.embErr r k.id)
    | some v =>
      let lo := (s.bagSpan k.d q.bag).1
      (acc.1 ++ [(e.2.1, weighted k.d.pool (s.weightAt k.d (lo + e.2.1)) v)], s.entryPooled q.owner t a b k.d.pool q.part e.2.2)) ([], s)
  let p := poolRows k.d.pool rows
  s.modEmbJob r k.id fun k => { k with ready := k.ready ++ [⟨q.bag, q.part, p.1, p.2.1, p.2.2⟩] }

/-- A row a module's region owns takes a sum (R252, R282): elements that are present are added at memory, the touched bit and list
follow, the counters count. `late` contributions count as late (R283). -/
def gradientAdd (s : State) (r : Nat) (t : TableD) (row seq step : Nat) (sum : List (Option Half)) (late : Nat) (agent : Nat) :
    State × Bool :=
  let s := s.embCount r .EMB_LATE late
  if late ≠ 0 ∧ t.dropLate then (s, false)
  else
    let a := t.gradBase + row * t.gradStride
    let (s, bad) := (granules a (4 * t.elems)).foldl (fun (acc : State × Bool) g =>
      let es := ((upFrom 0 sum.length).zip sum).filter fun p => (a + 4 * p.1) / 64 * 64 == g && p.2.isSome
      if es.isEmpty then acc
      else
        let s := match acc.1.target g with
          | .fast k o => acc.1.cacheAccess k o g .add false
          | _ => acc.1
        if (s.badIn g 64).isEmpty then
          ((s.foldS es fun s p => s.putDevBytes (a + 4 * p.1)
            (leBytes 4 (fadd (BitVec.ofNat 32 (s.devNat (a + 4 * p.1) 4)) (p.2.getD 0)).toNat)).count (bSc r) .SC_RAM_ADDS, acc.2)
        else (s.uncorrectable ⟨(s.detector g).1, (s.detector g).2, g, 2, seq, step, agent⟩, true)) (s, false)
    let s := (s.workItem (12096 + 8 * r + 6)).count (bRegion r) .EMB_GRAD_ROWS
    let ta := t.touchBase + row / 8
    let old := s.devNat ta 1
    if bitsOf old (row % 8) 1 = 1 then (s, bad)
    else
      let s := s.setDevNat ta 1 (setBits old (row % 8) 1 1)
      let la := t.listBase + r * (8 + 8 * t.listCap)
      let n := s.devNat la 4
      if n < t.listCap then ((s.setDevNat (la + 8 + 8 * n) 8 row).setDevNat la 4 (n + 1), bad)
      else ((s.setDevNat (la + 4) 4 (setBits (s.devNat (la + 4) 4) 0 1 1)).count (bRegion r) .EMB_LIST_FULL, bad)

/-- The update of a table has begun a step after this one (R283). The contribution is the later item of an unordered pair (R28). -/
def lateFor (s : State) (r table step : Nat) : Bool :=
  match Tbl.find? (s.embReg r).begun table with
  | some n => seqBefore (BitVec.ofNat 32 step) (BitVec.ofNat 32 n)
  | none => false

/-- That comparison, where the pair is unordered (R28). -/
def lateCompared (s : State) (r table step : Nat) : State :=
  match Tbl.find? (s.embReg r).begun table with
  | some n => s.compared (bankEmb r) (BitVec.ofNat 32 n) (BitVec.ofNat 32 step)
  | none => s

def updEng (s : State) (u : Nat) : UpdEng := Tbl.get (fun _ => UpdEng.reset) s.ms.upd u
def modUpd (s : State) (u : Nat) (f : UpdEng → UpdEng) : State :=
  { s with ms.upd := Tbl.put (fun _ => UpdEng.reset) s.ms.upd u (f (s.updEng u)) }

/-- A descriptor of a table between its checks and the end of its apply walk. -/
def walksTable (k : UpdDesc) : Bool := k.checked && (k.status == 0 || k.status == 2) && dbits k.shard 52 2 == 1

/-- The update engine of a region walks a table: from the checks of its check pass, which name the table (log entry 103), to the end of
its apply walk contributions to it are held (R370). -/
def tableHeld (s : State) (r table : Nat) : Bool :=
  (s.updEng r).batch.any fun k => walksTable k && dbits k.shard 64 52 == table

/-- What becomes of a composite entry's gradient at a part (R272, R281): whole, its half, or for a product times the other part's row;
the granules that failed. -/
def partGrad (s : State) (r : Nat) (t a b : TableD) (part i : Nat) (hostBad : Bool) (whole : List (Option Half)) : Option (List (Option Half)) × List Nat :=
  if t.map ≠ 2 ∨ t.combine = 0 then (some whole, [])
  else if t.combine = 2 then (some (if part = 0 then whole.take a.elems else whole.drop a.elems), [])
  else
    let (x, bad) := if part = 0 then s.rowB r t a b i hostBad else s.readRow a (partRow t a b 0 i).2 hostBad
    (x.map fun row => (whole.zip row).map fun p => p.1.map fun v => fmul v p.2, bad)

/-- The gradient an entry's bag gives it (R281): none for an element whose winner it is not. -/
def bagGrad (s : State) (k : EmbJob) (e : Nat × Nat × Nat) : List (Option Half) :=
  let t := (tabsOf k).1
  let d := k.d
  let n := 4 * s.outElems t
  let g := (chunks 4 (n / 4) (s.scratchBytes k.tile (d.dest + e.1 * d.destStride) n)).map fun x => BitVec.ofNat 32 (leNat x)
  let win := (chunks 4 (n / 4) (s.scratchBytes k.tile (d.destIdx + e.1 * d.destStride) n)).map leNat
  let cnt := (Tbl.get (fun _ => BagAcc.reset) k.bags (2 * e.1)).n
  let lo := (s.bagSpan d e.1).1
  (g.zip (win ++ List.replicate g.length 0)).map fun p =>
    if d.pool = 2 then (if p.2 = e.2.1 then some p.1 else none)
    else some (if d.pool = 1 then fdiv p.1 (fofNat cnt) else fmul (s.weightAt d (lo + e.2.1)) p.1)

/-- The owner where a contribution to a part is formed (R281): a product's at A's. -/
def formedAt (s : State) (t a : TableD) (owner i : Nat) : Nat :=
  if t.map = 2 ∧ t.combine = 1 then s.ownerOf a (rowIn a (min i t.imax / t.qDiv)) else owner

/-- Contributions summed element by element in their order. -/
def sumPresent (a b : List (Option Half)) : List (Option Half) :=
  (a.zip b).map fun p => match p.1, p.2 with
    | some x, some y => some (fadd x y)
    | some x, none => some x
    | none, y => y

/-- Contributions of one descriptor for a row its region owns meet it (R282, R283); whether an add failed. -/
def addRow (s : State) (r table : Nat) (x : TableD) (row seq step : Nat) (cs : List (List (Option Half))) : State × Bool :=
  match cs.filter fun c => c.any Option.isSome with
  | [] => (s, false)
  | c :: rest =>
    let late := if s.lateFor r table step then rest.length + 1 else 0
    (s.lateCompared r table step).gradientAdd r x row seq step (rest.foldl sumPresent c) late (embAgent r)

/-- A gradient request at its owner (R281 to R283): one for another module is sent, with a product's gradient as it is; the owner forms
its terms. -/
def gradRequest (s : State) (r : Nat) (k : EmbJob) (q : EmbReq) (order hostBad : List Nat) : State :=
  let (t, a, b) := tabsOf k
  let x := if t.map ≠ 2 then t else if q.part = 0 then a else b
  let raw := decide (16 ≤ q.owner) && t.map == 2 && t.combine == 1 && q.part == 0
  let (cs, s) := (inOrder order (marked hostBad q.entries)).foldl (fun (acc : List (Nat × Nat × Half × List (Option Half)) × State) (e, hb) =>
    let s := acc.2
    let (c, bad) := if raw then (some (s.bagGrad k e), [])
      else s.partGrad q.owner t a b q.part e.2.2 hb (s.bagGrad k e)
    let s := s.readBad bad (embAgent (s.formedAt t a q.owner e.2.2)) k.seq k.d.step
    match c with
    | none => (acc.1, s.embErr r k.id)
    | some c => (acc.1 ++ [(e.2.1, e.2.2, 0x3F800000#32, c)], s)) ([], s)
  if 16 ≤ q.owner then
    s.sendRequest r q.owner x.shardLevel ⟨BitVec.ofNat 52 k.d.table, q.part, k.d.pool, BitVec.ofNat 32 k.d.step, r, q.bag, cs⟩
  else if 12 ≤ q.owner then s.embErr r k.id
  else
    let (s, bad) := s.addRow q.owner (reqTable k q.part) x q.row k.seq k.d.step (cs.map fun c => c.2.2.2)
    if bad then s.embErr r k.id else s

/-- The scratch rows a request of a gradient descriptor reads. -/
def gradRanges (s : State) (k : EmbJob) (q : EmbReq) : List (Nat × Nat) :=
  let n := 4 * s.outElems (tabsOf k).1
  q.entries.flatMap fun e => (k.d.dest + e.1 * k.d.destStride, n) :: if k.d.pool = 2 then [(k.d.destIdx + e.1 * k.d.destStride, n)] else []

/-- Failing words of those rows are recorded and fail the descriptor (R289, R578). -/
def gradScratch (s : State) (r : Nat) (k : EmbJob) (q : EmbReq) : State :=
  let rs := s.gradRanges k q
  let bad := s.badWords k.tile fun lo hi => rs.any fun x => decide (lo < x.1 + x.2) && decide (x.1 < hi)
  if bad.isEmpty then s else (s.readBadWords k.tile bad (embAgent r) k.seq k.d.step).embErr r k.id

/-! ### Combining (R279, R280) -/

/-- The result of a part of a bag, once its partials are in: winner positions only for maximum. -/
def bagResult (d : EmbD) (elems : Nat) (g : BagAcc) : List Half × List Half :=
  if g.n = 0 then (List.replicate elems 0, List.replicate elems 0xFFFFFFFF#32)
  else if d.pool = 1 then (g.vals.map fun v => fdiv v (fofNat g.n), [])
  else (g.vals, g.idxs)

/-- The output rows of a bag: values, and winner positions for maximum. -/
def bagOutput (k : EmbJob) (b : Nat) : List Half × List Half :=
  let (t, ta, tb) := tabsOf k
  let acc (part : Nat) : BagAcc := Tbl.get (fun _ => BagAcc.reset) k.bags (2 * b + part)
  if t.map = 2 ∧ ¬ joined t k.d.pool then
    let x := bagResult k.d ta.elems (acc 0)
    let y := bagResult k.d tb.elems (acc 1)
    if t.combine = 2 then (x.1 ++ y.1, x.2 ++ y.2) else (combineRows t x.1 y.1, [])
  else bagResult k.d (if t.map = 2 then ta.elems else t.elems) (acc 0)

def wordsLE (l : List Half) : List Byte := l.flatMap fun v => leBytes 4 v.toNat

/-- A partial is combined; the last one of a bag writes its result. -/
def combine (s : State) (r : Nat) (k : EmbJob) (i : Nat) (p : EmbPartial) (own port : Nat) : State :=
  let key := 2 * p.bag + p.part
  let g := Tbl.get (fun _ => BagAcc.reset) k.bags key
  let m := if p.n = 0 then (g.vals, g.idxs) else mergeInto k.d.pool g.vals g.idxs g.n p.vals p.idxs
  let g : BagAcc := ⟨m.1, m.2, g.n + p.n, g.left - 1⟩
  let k := { k with bags := Tbl.put (fun _ => BagAcc.reset) k.bags key g, ready := k.ready.eraseIdx i }
  let s := s.modEmbJob r k.id fun _ => k
  let open_ (part : Nat) : Bool := (Tbl.get (fun _ => BagAcc.reset) k.bags (2 * p.bag + part)).left != 0
  if open_ 0 || open_ 1 then s
  else
    let out := bagOutput k p.bag
    let ra := [(k.d.dest + p.bag * k.d.destStride, 4 * out.1.length)]
      ++ if k.d.pool = 2 then [(k.d.destIdx + p.bag * k.d.destStride, 4 * out.2.length)] else []
    if ra.all fun x => s.banksServe k.tile x.1 x.2 4 0 (embTok k) then
      let s := s.setScratch k.tile (k.d.dest + p.bag * k.d.destStride) (wordsLE out.1)
      let s := if k.d.pool = 2 then s.setScratch k.tile (k.d.destIdx + p.bag * k.d.destStride) (wordsLE out.2) else s
      (s.modEmbJob r k.id fun k => { k with left := k.left.filter (· != p.bag) }).bankWaits k.tile 4 own port (some (bankEmb r))
    else s.modEmbJob r k.id fun k => { k with
      ready := k.ready ++ [⟨p.bag, p.part, [], [], 0⟩]
      bags := Tbl.put (fun _ => BagAcc.reset) k.bags key { g with left := 1 } }

def embClear (s : State) (r : Nat) : State :=
  s.clearRegs (bRegion r) 0 [.EMB_TIER_FAST, .EMB_TIER_SLOW, .EMB_TIER_HOST, .EMB_REFL_HIT, .EMB_REFL_STALE, .EMB_CLAMP,
    .EMB_GRAD_ROWS, .EMB_LATE, .EMB_LIST_FULL, .EMB_REMOTE]

/-! ### Requests of other modules (R276) -/

/-- The table of a request and its parts, as they stand here. -/
def tablesAt (s : State) (a : Nat) : TableD × TableD × TableD :=
  let t := s.tableAt a
  (t, if t.map = 2 then s.tableAt t.rowBase else t, if t.map = 2 then s.tableAt t.slowBase else t)

/-- The table descriptor of a part. -/
def partAt (t : TableD) (a part : Nat) : Nat := if t.map ≠ 2 then a else if part = 0 then t.rowBase else t.slowBase

/-- The ring level at which the owners of a request's table stand. -/
def replyLevel (s : State) (q : EmbRemote) : Nat :=
  let (t, a, b) := s.tablesAt q.table.toNat
  (partRow t a b q.part 0).1.shardLevel

/-- Rows pooled for another module (R279, R280): one partial with its count, which returns to the posting region. -/
def poolRemote (s : State) (r module : Nat) (q : EmbRemote) (order hostBad : List Nat) : State :=
  let (t, a, b) := s.tablesAt q.table.toNat
  let (rows, failed, s) := (inOrder order (marked hostBad q.entries)).foldl (fun (acc : List (Nat × List Half) × Bool × State) (e, hb) =>
    let (v, bad) := acc.2.2.pooledRow r t a b q.pool q.part e.2.1 hb
    let s := acc.2.2.readBad bad (embAgent r) 0 q.step.toNat
    match v with
    | none => (acc.1, true, s)
    | some v => (acc.1 ++ [(e.1, weighted q.pool e.2.2.1 v)], acc.2.1, s.entryPooled r t a b q.pool q.part e.2.1)) ([], false, s)
  let p := poolRows q.pool rows
  s.ownerSend module (s.replyLevel q) q.region (Config.ownerReply q p.1 p.2.1 p.2.2 failed)

/-- A product's terms for part B, formed here at A's owner, pass to B's owner (R281): by row, here or at its module. Whether one was lost, and
the modules that have been sent some. -/
def passOn (s : State) (r : Nat) (q : EmbRemote) (t a b : TableD) (es : List ((Nat × Nat × Half × List (Option Half)) × Bool)) :
    State × Bool × List Nat :=
  let step := q.step.toNat
  let rows := (es.map fun e => (partRow t a b 1 e.1.2.1).2).dedup
  rows.foldl (fun (acc : State × Bool × List Nat) row =>
    let mine := es.filter fun e => (partRow t a b 1 e.1.2.1).2 == row
    let (cs, s) := mine.foldl (fun (c : List (Nat × Nat × Half × List (Option Half)) × State) (e, hb) =>
      let (x, bad) := c.2.partGrad r t a b 1 e.2.1 hb e.2.2.2
      (c.1 ++ (x.map fun v => (e.1, e.2.1, e.2.2.1, v)).toList, c.2.readBad bad (embAgent r) 0 step)) ([], acc.1)
    let o := s.ownerOf b row
    let lost := acc.2.1 || decide (cs.length < mine.length)
    if 16 ≤ o then (s.sendRequest r o b.shardLevel { q with part := 1, region := r, entries := cs }, lost, acc.2.2 ++ [(o - 16) / 16])
    else if 12 ≤ o then (s, true, acc.2.2)
    else
      let (s, bad) := s.addRow o t.slowBase b row 0 step (cs.map fun c => c.2.2.2)
      (s, lost || bad, acc.2.2)) (s, false, [])

/-- A request of another module is answered once nothing that it led to is outstanding (R289). -/
def answerOwed (s : State) (r : Nat) (o : EmbOwed) : State :=
  if o.left.isEmpty then s.ownerSend o.module (s.replyLevel o.req) o.req.region (Config.ownerReply o.req [] [] 0 o.failed)
  else s.modEmb r fun g => { g with owed := g.owed ++ [o] }

/-- A module answers terms passed on to it: the oldest request that waits for that module goes on. -/
def takeOwed (s : State) (r module : Nat) (failed : Bool) : State :=
  match (s.embReg r).owed.findIdx? fun o => o.left.contains module with
  | none => s
  | some i => match (s.embReg r).owed[i]? with
    | none => s
    | some o => (s.modEmb r fun g => { g with owed := g.owed.eraseIdx i }).answerOwed r
        { o with failed := o.failed || failed, left := o.left.erase module }

/-- Contributions of another module's descriptor for one row (R281 to R283); the reply tells whether it failed, and leaves once the terms
passed on have been added (R289). -/
def gradRemote (s : State) (r module : Nat) (q : EmbRemote) (order hostBad : List Nat) : State :=
  let (t, a, b) := s.tablesAt q.table.toNat
  match q.entries with
  | [] => s
  | e0 :: _ =>
    let product := t.map == 2 && t.combine == 1 && q.part == 0
    let es := inOrder order (marked hostBad q.entries)
    let (x, row) := partRow t a b q.part e0.2.1
    let (cs, s) := es.foldl (fun (acc : List (List (Option Half)) × State) (e, hb) =>
      let (c, bad) := if product then acc.2.partGrad r t a b 0 e.2.1 hb e.2.2.2 else (some e.2.2.2, [])
      (acc.1 ++ c.toList, acc.2.readBad bad (embAgent r) 0 q.step.toNat)) ([], s)
    let (s, bad) := s.addRow r (partAt t q.table.toNat q.part) x row 0 q.step.toNat cs
    let (s, worse, sent) := if product then s.passOn r q t a b es else (s, false, [])
    s.answerOwed r ⟨module, q, bad || worse || decide (cs.length < es.length), sent⟩

end State

/-! ### The rows -/

/-- LOOKUP_START (R278, R279, R288, R532). -/
def execLookupStart (region : RegionId) (s : State) : Host.Outcome State Fault Refusal :=
  .next (if s.flag (bRegion region) Fld.EMB_CTRL_HOLD ∨ 16 ≤ (s.embReg region).active.length then s
    else match s.embNext region with
      | none => s
      | some (t, seq, d) => s.opportunity (672 + region) 2 ((s.modEmb region fun g => { g with turnQ := t }).embBegin region t seq d))

/-- OWNER_POOL (R279, R280): request `index` of a job of the posting region, its rows in arrival order `order`; for a request that
another module serves, its reply, which waits at place `order` of the arrivals from that module and says `answer` (log entry 102). Or
request `index` of those that other modules have sent here. A request served in this module that needs rows of part B from another one
first asks for them and takes the answers (R272); `positions` names, by place, its entries whose reads of host memory fail (R312). -/
def execOwnerPool (region : RegionId) (job index : Nat) (order : List Nat) (answer : List Half) (positions : List Half) (count : Nat)
    (failed : Bool) (remote : Option EmbRemote) (s : State) : Host.Outcome State Fault Refusal :=
  .next (s.ifRuns (672 + region.val) (match remote with
    | some q => match (s.embReg region).inbox[index]? with
      | none => s
      | some m =>
        let (t, a, b) := s.tablesAt q.table.toNat
        let needs := s.poolNeeds t a b q.pool (q.entries.map fun e => e.2.1)
        if s.rowsHere region t.slowBase needs then
          ((s.takeMail region index).poolRemote region m.1 q order (positions.map BitVec.toNat)).dropRows region t.slowBase needs
        else s.fetchRows region t.slowBase q.step.toNat b.shardLevel needs (order.headD 0) answer failed
    | none =>
      match s.embJob region job with
      | none => s
      | some k =>
        if k.d.backward then s
        else match k.todo[index]? with
          | none => s
          | some q =>
            let t := s.modEmbJob region job fun k => { k with todo := k.todo.eraseIdx index }
            if q.owner < 12 then
              let (tt, ta, tb) := State.tabsOf k
              let needs := s.poolNeeds tt ta tb k.d.pool (q.entries.map fun e => e.2.2)
              if ¬ s.runs (672 + q.owner) then s
              else if s.rowsHere q.owner tt.slowBase needs then
                (t.poolRequest region k q order (positions.map BitVec.toNat)).dropRows q.owner tt.slowBase needs
              else s.fetchRows q.owner tt.slowBase k.d.step tb.shardLevel needs (order.headD 0) answer failed
            else if q.owner < 16 then
              (t.embErr region job).modEmbJob region job fun k => { k with ready := k.ready ++ [⟨q.bag, q.part, [], [], 0⟩] }
            else match s.mailOf region ((q.owner - 16) / 16) (order.headD 0) with
              | none => s
              | some i =>
                let t := (if failed then t.embErr region job else t).takeMail region i
                t.modEmbJob region job fun k => { k with ready := k.ready ++ [⟨q.bag, q.part, answer, positions, count⟩] }))

/-- PARTIAL_COMBINE (R279, R280): partial `index` in arrival order; a bag's last one waits until its tile's banks serve the
write. -/
def execPartialCombine (region : RegionId) (job index : Nat) (waitOwn waitPort : Nat) (s : State) : Host.Outcome State Fault Refusal :=
  .next (s.ifRuns (672 + region.val) (match s.embJob region job with
    | none => s
    | some k =>
      match k.ready[index]? with
      | none => s
      | some p => s.combine region k index p waitOwn waitPort))

/-- GRADIENT_CONTRIBUTION (R281 to R283): request `index` of a gradient descriptor, which for a row of another module is first sent and then
answered, or one that another module has sent here. While an update walks the table the contribution is held (R370): the row changes
nothing and takes place after the walk. A product's part A first gets the rows of part B that other modules own (R281). With no such
job in progress, message `index` is an answer to terms that were passed on. -/
def execGradientContribution (region : RegionId) (job : Nat) (index : EmbBeat) (order : List Nat) (remote : Option EmbRemote) (s : State) :
    Host.Outcome State Fault Refusal :=
  .next (s.ifRuns (672 + region.val) (match remote with
    | some q => match (s.embReg region).inbox[index.index]? with
      | none => s
      | some m =>
        let (t, a, b) := s.tablesAt q.table.toNat
        let needs := s.gradNeeds t a b q.part (q.entries.map fun e => e.2.1)
        if s.tableHeld region (State.partAt t q.table.toNat q.part) then s
        else if s.rowsHere region t.slowBase needs then
          ((s.takeMail region index.index).gradRemote region m.1 q order index.hostBad).dropRows region t.slowBase needs
        else s.fetchRows region t.slowBase q.step.toNat b.shardLevel needs (order.headD 0) index.answer index.failed
    | none =>
      match s.embJob region job with
      | none => match (s.embReg region).inbox[index.index]? with
        | none => s
        | some m => if (s.embReg region).owed.any fun o => o.left.contains m.1 then
            (s.takeMail region index.index).takeOwed region m.1 index.failed else s
      | some k =>
        if ¬ k.d.backward then s
        else match k.todo[index.index]? with
          | none => s
          | some q =>
            let (tt, ta, tb) := State.tabsOf k
            let needs := if q.owner < 12 then s.gradNeeds tt ta tb q.part (q.entries.map fun e => e.2.2) else []
            let gone := s.modEmbJob region job fun k => { k with todo := k.todo.eraseIdx index.index }
            if q.sent then
              match s.mailOf region ((q.owner - 16) / 16) (order.headD 0) with
              | none => s
              | some i => (if index.failed then gone.embErr region job else gone).takeMail region i
            else if s.tableHeld q.owner (State.reqTable k q.part) || (decide (q.owner < 12) && !s.runs (672 + q.owner)) then s
            else if !s.rowsHere q.owner tt.slowBase needs then
              s.fetchRows q.owner tt.slowBase k.d.step tb.shardLevel needs (order.headD 0) index.answer index.failed
            else if (s.gradRanges k q).all fun x => s.banksServe k.tile x.1 x.2 4 0 (State.embTok k) then
              let t := if q.owner < 16 then gone
                else s.modEmbJob region job fun k => { k with todo := k.todo.set index.index { q with sent := true } }
              let t := t.bankWaits k.tile 4 index.waitOwn index.waitPort (some (bankEmb region))
              ((t.gradScratch region k q).gradRequest region k q order index.hostBad).dropRows q.owner tt.slowBase needs
            else s))

/-- LOOKUP_DONE (R289). -/
def execLookupDone (region : RegionId) (job : Nat) (s : State) : Host.Outcome State Fault Refusal :=
  .next (s.ifRuns (672 + region.val) (match s.embJob region job with
    | none => s
    | some k => if k.todo.isEmpty ∧ k.ready.isEmpty ∧ k.left.isEmpty then s.embFinish region k k.status else s))

/-- EMB_HOLD (R288, R292). -/
def execEmbHold (region : RegionId) (w : Writer) (hold : Bool) (s : State) : Host.Outcome State Fault Refusal :=
  .next (ifControl w s (s.ifReached (bRegion region) (s.setFlag (bRegion region) Fld.EMB_CTRL_HOLD hold)))

/-- EMB_CNT_CLEAR (R292). -/
def execEmbCntClear (region : RegionId) (w : Writer) (s : State) : Host.Outcome State Fault Refusal :=
  .next (ifControl w s (s.ifReached (bRegion region) (s.embClear region)))

end Sys2Proof.Machine
end

