-- ==== Sys2Proof/Machine/Update.lean ====
section
/-! DEFINITION. The update engines (R340 to R376) with the pruning units (R200 to R203): checks, the verdict, the four rules, working
copies, table walks. -/

namespace Sys2Proof.Machine

/-! ### Descriptors (R347 to R350) -/

/-- A shard descriptor with its values in force. -/
structure ShardD where
  recs : Nat
  kind : Nat
  layout : Nat
  fmt : Nat
  undoEn : Bool
  countEn : Bool
  grad : Nat
  wc : Nat
  stats : Nat
  undo : Nat
  countAt : Nat
  blocks : Nat
  stride : Nat
  wcT : Half
  wcStride : Nat
  version : Nat
  deriving DecidableEq, Repr

def shardOf (d : List Byte) : ShardD :=
  { recs := dbits d 0 52
    kind := if 2 ≤ dbits d 52 2 then 0 else dbits d 52 2
    layout := dbits d 54 2
    fmt := if 8 < dbits d 56 4 then 0 else dbits d 56 4
    undoEn := dbits d 60 1 == 1
    countEn := dbits d 61 1 == 1
    grad := dbits d 64 52
    wc := dbits d 128 52
    stats := dbits d 192 52
    undo := dbits d 256 52
    countAt := dbits d 320 52
    blocks := dbits d 384 24
    stride := max 1 (dbits d 408 24)
    wcT := (tensorScale (BitVec.ofNat 32 (dbits d 448 32))).1
    wcStride := dbits d 480 32
    version := dbits d 512 8 }

/-- The address of a record (R348). -/
def ShardD.recordAt (h : ShardD) (i : Nat) : Nat := h.recs + i / 16 * h.stride * 4096 + i % 16 * 256

def shardClamps (d : List Byte) : Nat :=
  ([decide (2 ≤ dbits d 52 2), decide (8 < dbits d 56 4), dbits d 408 24 == 0,
    (tensorScale (BitVec.ofNat 32 (dbits d 448 32))).2].filter id).length

/-- GRAD_MUL in force (R350). -/
def gradMul (x : Half) : Half :=
  match f32 x with
  | .nan _ => 0x3F800000#32
  | .inf neg => if neg then 0xFF7FFFFF#32 else 0x7F7FFFFF#32
  | _ => x

/-- An update descriptor (R349). -/
structure UpdD where
  shard : Nat
  stepLast : Bool
  reapply : Bool
  mul : Half
  nominal : Nat
  wait : Option (Nat × Nat)
  done : Option Nat
  step : Nat
  deriving DecidableEq, Repr

def updOf (d : List Byte) : UpdD :=
  { shard := dbits d 0 52
    stepLast := dbits d 52 1 == 1
    reapply := dbits d 53 1 == 1
    mul := gradMul (BitVec.ofNat 32 (dbits d 64 32))
    nominal := max 1 (dbits d 96 16)
    wait := if dbits d 150 1 = 1 then some (dbits d 128 22, dbits d 160 32) else none
    done := counterField d 214 192
    step := dStep d }

def updClamps (d : List Byte) : Nat :=
  ([dbits d 96 16 == 0, !(ffinite (BitVec.ofNat 32 (dbits d 64 32)))].filter id).length

/-! ### Parameter groups (R352 to R354, R361) -/

/-- An entry after cold reset and job close: frozen, CLIP infinite. -/
def groupReset : Nat := 4 + 0x7F800000 * 2 ^ 224

/-- A non-negative finite setting (R353). -/
def clampSetting (x : Half) : Half :=
  match f32 x with
  | .nan _ => 0
  | .inf neg => if neg then 0 else 0x7F7FFFFF#32
  | .fin neg m _ => if neg && decide (0 < m) then 0 else x

/-- A coefficient from 0 to 1 (R353). -/
def clampCoef (x : Half) : Half :=
  match f32 x with
  | .nan _ => 0
  | .inf neg => if neg then 0 else 0x3F800000#32
  | .fin neg m _ => if neg && decide (0 < m) then 0 else if (f32 0x3F800000#32).lt (f32 x) then 0x3F800000#32 else x

/-- A gradient bound (R353). -/
def clampClip (x : Half) : Half :=
  match f32 x with
  | .nan _ => 0x7F800000#32
  | .inf neg => if neg then 0x00800000#32 else x
  | .fin neg m _ => if neg || decide (m = 0) then 0x00800000#32 else x

/-- A group entry with its values in force, reserved bits zero (R11, R352), and how many were clamped (R353). -/
def groupClamp (e : Nat) : Nat × Nat :=
  let e := bitsOf e 0 8 + bitsOf e 32 256 * 2 ^ 32
  let one (p : Nat × Nat) (lo : Nat) (f : Half → Half) : Nat × Nat :=
    let x := BitVec.ofNat 32 (bitsOf p.1 lo 32)
    if f x = x then p else (setBits p.1 lo 32 (f x).toNat, p.2 + 1)
  let p := if bitsOf e 6 2 = 3 then (setBits e 6 2 0, 1) else (e, 0)
  let p := one (one (one (one p 64 clampSetting) 160 clampSetting) 192 clampSetting) 256 clampSetting
  one (one (one p 96 clampCoef) 128 clampCoef) 224 clampClip

/-- A group with its constants of a step. -/
structure Group where
  rule : Nat
  frozen : Bool
  nesterov : Bool
  sr : Bool
  prune : Nat
  lr : Half
  b1 : Half
  b2 : Half
  eps : Half
  clip : Half
  damp : Half
  c1 : Half
  c2 : Half
  a : Half
  k1 : Half
  k2 : Half
  deriving DecidableEq, Repr

def one32 : Half := 0x3F800000#32

/-- b^t within 1 ulp (R361). -/
def power (b : Half) (t : Nat) : Half :=
  match f32 b with
  | .fin _ m e => if t = 0 then one32 else within1 (.fin false (m ^ t) (e * t)) (Config.powPick b t)
  | _ => b

def groupOf (e step : Nat) : Group :=
  let h (lo : Nat) : Half := BitVec.ofNat 32 (bitsOf e lo 32)
  let t := (step + 1 + 2 ^ 32 - bitsOf e 32 32) % 2 ^ 32
  let bias := bitsOf e 4 1 == 1
  { rule := bitsOf e 0 2
    frozen := bitsOf e 2 1 == 1
    nesterov := bitsOf e 3 1 == 1
    sr := bitsOf e 5 1 == 1
    prune := bitsOf e 6 2
    lr := h 64, b1 := h 96, b2 := h 128, eps := h 160, clip := h 224, damp := h 256
    c1 := fsub one32 (h 96)
    c2 := fsub one32 (h 128)
    a := fsub one32 (fmul (h 64) (h 192))
    k1 := if bias then fdiv one32 (fsub one32 (power (h 96) t)) else one32
    k2 := if bias then fdiv one32 (fsqrt (fsub one32 (power (h 128) t))) else one32 }

/-! ### Moments (R344, R345, R361) -/

/-- The unsigned second-moment format (R344): it has neither infinities nor NaN, and its top code is finite. -/
def ue5m3 : Fmt := ⟨5, 3, 15, false⟩

/-- A second-moment block: codes, scale, the generator (R50 to R52, R345). -/
def ueBlock (xs : List Half) (d : Drawer) : List Nat × Nat × Drawer :=
  let ys := xs.map f32
  let (m, e) := blockAmax ys
  if m = 0 then (xs.map fun _ => 0, 0, d)
  else
    let s0 := (Nat.log2 m : Int) + e - 16
    let s := min (max (if dyLe m (e - s0) 122880 0 then s0 else s0 + 1) (-127)) 127
    let (cs, d) := ys.foldl (fun (a : List Nat × Drawer) y =>
      match y with
      | .fin _ m e =>
        let e := e - s
        if m = 0 then (a.1 ++ [0], a.2)
        else if !dyLe m e 122880 0 then (a.1 ++ [255], a.2)
        else
          let (r, d) := a.2.take
          let van := decide ((Nat.log2 m : Int) + e < -17)
          (a.1 ++ [if van && decide (r = .near) then 0 else encodeMag ue5m3 m e r], d)
      | _ => (a.1 ++ [255], a.2)) ([], d)
    (cs, (s + 127).toNat, d)

/-- A stored second moment as FP32. -/
def ueValue (scale code : Nat) : Half :=
  if scale = 0xFF then 0x7FC00000#32
  else toF32 ((FV.fin false 1 ((scale : Int) - 127)).mul
    (if code / 8 = 0 then .fin false (code % 8) (-17) else .fin false (8 + code % 8) ((code / 8 : Nat) - 18)))

/-- A stored first moment as FP32 (R53). -/
def momValue (scale code : Nat) : Half := toF32 (mxValue 3 one32 scale code)

/-! ### A block's arithmetic (R361 to R367) -/

/-- What a block holds beside its record's tail: masters, m, r, and ROWADAPT's accumulator; the statistics S. -/
structure BlockVals where
  x : List Half
  m : List Half
  r : List Half
  acc : Half
  st : List Half
  deriving DecidableEq, Repr

/-- The gradient of an element in force and whether the bound changed it (R361). -/
def clipGrad (f clip graw : Half) : Half × Bool :=
  let y := fmul graw f
  if (f32 y).isNaN then (y, false)
  else if (f32 y).lt (f32 (fneg clip)) then (fneg clip, true)
  else if (f32 clip).lt (f32 y) then (clip, true)
  else (y, false)

/-- An ascending sum, rounding after each addition. -/
def fsumList : List Half → Half
  | [] => 0
  | x :: r => r.foldl fadd x

def nth (l : List Half) (i : Nat) : Half := l.getD i 0
/-- The place of (i, j) in a lower triangle held row by row. -/
def tri (i j : Nat) : Nat := i * (i + 1) / 2 + j

/-- ADAPT's moments of an element. -/
def adaptMoments (g : Group) (m r y : Half) : Half × Half :=
  (fadd (fmul g.b1 m) (fmul g.c1 y), fsqrt (fadd (fmul g.b2 (fmul r r)) (fmul g.c2 (fmul y y))))

/-- ADAPT's new master. -/
def adaptX (g : Group) (x m r : Half) : Half :=
  fsub (fmul g.a x) (fmul g.lr (fdiv (fmul m g.k1) (fadd (fmul r g.k2) g.eps)))

/-- One column of a factor: none where the pivot is not positive and finite (R365). -/
def cholColumn (n : Nat) (a : Nat → Nat → Half) (l : List Half) (j : Nat) : Option (List Half) :=
  let p := fsub (a j j) (fsumList ((upFrom 0 j).map fun k => fmul (nth l (tri j k)) (nth l (tri j k))))
  if !ffinite p || !(FV.fin false 0 0).lt (f32 p) then none
  else
    let d := fsqrt p
    some ((upFrom (j + 1) (n - 1 - j)).foldl (fun l i =>
      l.set (tri i j) (fdiv (fsub (a i j) (fsumList ((upFrom 0 j).map fun k => fmul (nth l (tri i k)) (nth l (tri j k)))))
        d)) (l.set (tri j j) d))

/-- The factor of S with a damping (R365). -/
def factor (n : Nat) (st : List Half) (lam : Half) : Option (List Half) :=
  let a (i j : Nat) : Half := if i = j then fadd (nth st (tri i i)) lam else nth st (tri i j)
  (upFrom 0 n).foldl (fun (l : Option (List Half)) j => l.bind fun l => cholColumn n a l j) (some (List.replicate 36 0))

/-- The factor under escalation (R366): the factor, where one attempt succeeds, and the retries. -/
def escalate (n : Nat) (st : List Half) : Nat → Half → Option (List Half) × Nat
  | 0, lam => (factor n st lam, 0)
  | k + 1, lam =>
    match factor n st lam with
    | some l => (some l, 0)
    | none => let (l, c) := escalate n st k (fmul lam 0x41200000#32); (l, c + 1)

/-- The solution of L y = b and Lᵀ u = y (R365). -/
def solve (n : Nat) (l b : List Half) : List Half :=
  let y := (upFrom 0 n).foldl (fun (y : List Half) i =>
    y ++ [fdiv (fsub (nth b i) (fsumList ((upFrom 0 i).map fun k => fmul (nth l (tri i k)) (nth y k)))) (nth l (tri i i))]) []
  (upFrom 0 n).foldl (fun (u : List Half) t =>
    let i := n - 1 - t
    fdiv (fsub (nth y i) (fsumList ((upFrom (i + 1) (n - 1 - i)).map fun k =>
      fmul (nth l (tri k i)) (nth u (k - i - 1))))) (nth l (tri i i)) :: u) []

/-- The new statistics of a sub-block: the elements of the block below its length take part. -/
def newStats (g : Group) (n : Nat) (st ys : List Half) : List Half :=
  (upFrom 0 n).foldl (fun st i => (upFrom 0 (i + 1)).foldl (fun st j =>
    st.set (tri i j) (fadd (fmul g.b2 (nth st (tri i j))) (fmul g.c2 (fmul (nth ys i) (nth ys j))))) st) st

/-- What an update of a block comes to: its new values, whether CURVE fell back, the escalations. -/
structure BlockOut where
  v : BlockVals
  fallback : Bool
  esc : Nat
  deriving DecidableEq, Repr

/-- The rules (R362 to R366) on the n elements of a block with gradients ys. `stats` tells whether the shard holds statistics, `acc`
ROWADAPT's new accumulator. -/
def ruleBlock (g : Group) (b : BlockVals) (ys : List Half) (stats : Bool) (acc : Half) : BlockOut :=
  let n := ys.length
  let put (old new : List Half) : List Half := new ++ old.drop n
  let ix := upFrom 0 n
  let mom := ix.map fun i => adaptMoments g (nth b.m i) (nth b.r i) (nth ys i)
  let m := mom.map Prod.fst
  let r := mom.map Prod.snd
  let adapt := ix.map fun i => adaptX g (nth b.x i) (nth m i) (nth r i)
  match g.rule with
  | 0 =>
    let m := ix.map fun i => fadd (fmul g.b1 (nth b.m i)) (nth ys i)
    let x := ix.map fun i =>
      fsub (fmul g.a (nth b.x i)) (fmul g.lr (if g.nesterov then fadd (nth ys i) (fmul g.b1 (nth m i)) else nth m i))
    ⟨{ b with x := put b.x x, m := put b.m m }, false, 0⟩
  | 1 => ⟨{ b with x := put b.x adapt, m := put b.m m, r := put b.r r }, false, 0⟩
  | 2 =>
    let den := fadd (fsqrt acc) g.eps
    ⟨{ b with x := put b.x (ix.map fun i => fsub (fmul g.a (nth b.x i)) (fmul g.lr (fdiv (nth ys i) den))), acc := acc }, false, 0⟩
  | _ =>
    if !stats then ⟨{ b with x := put b.x adapt, m := put b.m m, r := put b.r r }, true, 0⟩
    else
      let subs := ((upFrom 0 4).filter fun j => decide (8 * j < n)).map fun j =>
        let k := min 8 (n - 8 * j)
        let st := newStats g k ((b.st.drop (36 * j)).take 36) ((ys.drop (8 * j)).take 8)
        let (l, c) := escalate k st 3 g.damp
        (st, l.map fun l => solve k l (((m.drop (8 * j)).take k).map fun v => fmul v g.k1), c)
      let fell := subs.any fun e => e.2.1.isNone
      let us := subs.flatMap fun e => e.2.1.getD []
      let x := if fell then adapt else ix.map fun i => fsub (fmul g.a (nth b.x i)) (fmul g.lr (nth us i))
      let st := subs.flatMap fun e => e.1
      ⟨{ b with x := put b.x x, m := put b.m m, r := put b.r r, st := st ++ b.st.drop st.length }, fell,
        (subs.map fun e => e.2.2).foldl (· + ·) 0⟩

/-- Every value of an update is finite (R367). -/
def blockFinite (g : Group) (ys : List Half) (o : BlockOut) (stats : Bool) : Bool :=
  let n := ys.length
  ys.all ffinite && (o.v.x.take n).all ffinite && (g.rule == 2 || (o.v.m.take n).all ffinite)
    && ((g.rule == 0 || g.rule == 2) || (o.v.r.take n).all ffinite) && (g.rule != 2 || ffinite o.v.acc)
    && (!(g.rule == 3 && stats) || o.v.st.all ffinite)

/-! ### Pruning (R200 to R202) -/

/-- The kept mask of a group of eight masters: the n largest magnitudes, ties to the lower position. -/
def keptMask (n : Nat) (xs : List Half) : Nat :=
  let ms := (xs.map fun x => x.toNat % 2 ^ 31).zip (upFrom 0 8)
  let rank (m p : Nat) : Nat := (ms.filter fun q => decide (m < q.1) || (q.1 == m && decide (q.2 < p))).length
  (ms.filter fun q => decide (rank q.1 q.2 < n)).foldl (fun v q => v + 2 ^ q.2) 0

def keptMasks (n : Nat) (xs : List Half) : List Nat := (chunks 8 4 xs).map (keptMask n)
def popcount8 (v : Nat) : Nat := ((upFrom 0 8).filter fun i => v.testBit i).length
/-- The positions of a mask. -/
def maskAt (v : Nat) : List Nat := (upFrom 0 8).filter fun i => v.testBit i

namespace State

/-! ### Addresses and memory (R341, R348) -/

def updAgent (u : Nat) : Nat := agentEngine 0 (bUpd u).k (bUpd u).i

/-- An address lies in the memory an engine owns (R340). -/
def owns (s : State) (u a : Nat) : Bool :=
  match s.target a with
  | .fast k _ => k == u
  | .slow o => 12 + o / 4096 % 6 == u
  | _ => false

/-- P of a working-copy layout (R348). -/
def wcP (layout : Nat) : Nat := if layout = 1 then 2 else if layout = 2 then 4 else 1
/-- The bytes of an image's element part (R90, R152, R190). -/
def wcElems (h : ShardD) : Nat := if h.layout = 0 then 128 * fmtBits h.fmt else 32 * (4 * fmtBits h.fmt + 12)
/-- Where an image's scale array starts: at the first 64-byte boundary after its elements (R43, R190). -/
def wcScales (h : ShardD) (img : Nat) : Nat := scaleAt (img + wcElems h)
/-- The bytes of an image at an address, its scale array included. -/
def wcSize (h : ShardD) (img : Nat) : Nat := if fmtIsMX h.fmt then wcScales h img + 32 * wcP h.layout - img else wcElems h

/-- The table of a shard of kind 1. -/
def shardTable (k : UpdDesc) : TableD := tableOf k.table
/-- Blocks of a table row (R369). -/
def rowBlocks (t : TableD) : Nat := (t.elems + 31) / 32
/-- How many blocks a shard reaches (R351). -/
def shardBlocks (h : ShardD) (t : TableD) : Nat := if h.kind = 1 then t.rows * rowBlocks t else h.blocks

/-! ### Checks (R351) -/

/-- The status of the first failing check, or 0. -/
def updCheck (s : State) (u step : Nat) (d : UpdD) (h : ShardD) (tabRaw : List Byte) : Nat :=
  let t := tableOf tabRaw
  let n := shardBlocks h t
  let two (a len : Nat) : Bool := len == 0 || s.inTiers a len
  let three (a len : Nat) : Bool := len == 0 || s.mapped a len
  let pages := (h.blocks + 15) / 16
  let images := (h.blocks + 32 * wcP h.layout - 1) / (32 * wcP h.layout)
  if d.shard % 128 ≠ 0 ∨ ¬ s.inTiers d.shard 128 ∨ h.version ≠ 1 ∨ (h.kind = 1 ∧ (12 ≤ u ∨ ¬ s.mapped h.grad 128 ∨ t.version ≠ 1))
      ∨ ((h.layout = 1 ∨ h.layout = 2) ∧ (h.fmt = 7 ∨ h.fmt = 8)) then 4
  else if h.recs % 4096 ≠ 0 ∨ (h.kind = 0 ∧ ¬ (upFrom 0 pages).all fun p => s.owns u (h.recs + p * h.stride * 4096)) then 3
  else if (h.kind = 0 ∧ (h.grad % 64 ≠ 0 ∨ ¬ two h.grad (128 * h.blocks)
        ∨ (h.layout ≠ 3 ∧ (h.wc % 64 ≠ 0 ∨ ¬ (upFrom 0 images).all fun k => three (h.wc + k * h.wcStride) (wcSize h (h.wc + k * h.wcStride))))))
      ∨ (h.undoEn ∧ (h.undo % 256 ≠ 0 ∨ ¬ three h.undo (256 * n)))
      ∨ (h.countEn ∧ (h.countAt % 4 ≠ 0 ∨ ¬ three h.countAt 4))
      ∨ (h.stats ≠ 0 ∧ (h.stats % 64 ≠ 0 ∨ ¬ three h.stats (576 * n)))
      ∨ ¬ counterFieldOk (d.wait.map Prod.fst) ∨ ¬ counterFieldOk d.done then 3
  else if d.step ≠ step then 6
  else 0

/-! ### The check pass (R354 to R356) -/

/-- The rows of a table's walk (R369): the region's touched list, or the bitmap where the list is marked full. -/
def walkRows (s : State) (u : Nat) (t : TableD) : List Nat :=
  let la := t.listBase + u * (8 + 8 * t.listCap)
  let mine (r : Nat) : Bool := s.owns u (t.gradBase + r * t.gradStride)
  if s.devNat (la + 4) 4 % 2 = 1 then
    (upFrom 0 t.rows).filter fun r => bitsOf (s.devNat (t.touchBase + r / 8) 1) (r % 8) 1 == 1 && mine r
  else ((upFrom 0 (min t.listCap (s.devNat la 4))).map fun j => s.devNat (la + 8 + 8 * j) 8 % 2 ^ 40).filter mine

/-- The gradient a descriptor names: address and bytes of each piece. -/
def gradPieces (h : ShardD) (t : TableD) (rows : List Nat) : List (Nat × Nat) :=
  if h.kind = 1 then rows.map fun r => (t.gradBase + r * t.gradStride, 4 * t.elems)
  else (upFrom 0 h.blocks).map fun i => (h.grad + 128 * i, 128)

def f32s (s : State) (a n : Nat) : List Half := (chunks 4 n (s.devBytes a (4 * n))).map fun b => BitVec.ofNat 32 (leNat b)

def modUpdDesc (s : State) (u seq : Nat) (f : UpdDesc → UpdDesc) : State :=
  s.modUpd u fun g => { g with batch := g.batch.map fun k => if k.seq = seq then f k else k }

/-- The queue a unit's engine consumes (R341). -/
def updQueue (s : State) (u : Nat) : Option Nat := ((s.queues.filter fun q => q.2.kind == 5 && q.2.unit == u).map Prod.fst).head?

/-- The local flag is reported (R356); a verdict the hub already has follows at once. -/
def updReport (s : State) (u : Nat) : State :=
  let g := s.updEng u
  let code := match s.ex.verdicts.find? fun v => v.1 == g.step with
    | some (_, nf) => if nf then 2 else 1
    | none => 0
  let v := g.step % 2 ^ 32 + code * 2 ^ 32 + (if g.nf then 2 ^ 34 else 0) + 2 ^ 35
  (s.modUpd u fun g => { g with reported := true }).setReg (bUpd u) .UPD_VERDICT 0 (BitVec.ofNat 64 v)

/-- The check pass of a descriptor once its wait is over (R351, R355). -/
def updCheckEnd (s : State) (u : Nat) (k : UpdDesc) : State :=
  let d := updOf k.bytes
  let named := d.shard % 128 == 0 && s.inTiers d.shard 128
  let raw := if named then s.devBytes d.shard 128 else []
  let h := shardOf raw
  let traw := if h.kind = 1 then s.devBytes h.grad 128 else []
  let t := tableOf traw
  let clamps := shardClamps raw + if h.kind = 1 then tableClamps traw else 0
  let s := match s.updQueue u with
    | some q => if named ∧ clamps ≠ 0 then s.qClamp q clamps else s
    | none => s
  let bad0 := if named then s.badIn d.shard 128 else []
  let s := s.readBad bad0 (updAgent u) k.seq d.step
  let st := s.updCheck u (s.updEng u).step d h traw
  let (c, badC) := if h.countEn then (if (s.badIn h.countAt 4).isEmpty then s.devNat h.countAt 4 else 0, s.badIn h.countAt 4)
    else (d.nominal, [])
  let rows := if h.kind = 1 ∧ st = 0 then s.walkRows u t else []
  let pieces := if st = 0 ∧ c ≠ 0 then gradPieces h t rows else []
  let bad := if st = 0 then badC ++ pieces.flatMap fun p => s.badIn p.1 p.2 else []
  let nf := pieces.any fun p => (s.f32s p.1 (p.2 / 4)).any fun v => !ffinite v
  let s := s.readBad bad (updAgent u) k.seq d.step
  let s := if h.kind = 1 ∧ st = 0 then
      s.modEmb u fun e => { e with begun := Tbl.put (fun _ => 2 ^ 32) e.begun h.grad d.step }
    else s
  let s := s.modUpdDesc u k.seq fun k => { k with
    shard := raw, table := traw, waits := false, checked := true
    status := if st ≠ 0 then st else if bad.isEmpty then 0 else 2, count := c, rows := rows }
  let s := s.modUpd u fun g => { g with nf := g.nf || nf }
  if d.stepLast then s.updReport u else s

/-- The check pass of the next descriptor begins (R354, R355). -/
def updBegin (s : State) (u q seq : Nat) (b : List Byte) : State :=
  let d := updOf b
  let s := if updClamps b = 0 then s else s.qClamp q (updClamps b)
  let s := s.descStart q seq b
  let s := s.modUpd u fun g =>
    if g.batch.isEmpty then
      let g := { g with step := d.step, nf := false, reported := false }
      if g.copied = some d.step then g else { g with copied := some d.step, act := g.pend }
    else g
  let k : UpdDesc := ⟨seq, b, [], [], false, false, 0, 0, [], 0⟩
  let s := s.modUpd u fun g => { g with batch := g.batch ++ [k] }
  match d.wait with
  | some (c, n) =>
    if counterOk c then
      match s.syncWait (.engine (updAgent u % 2 ^ 28)) c n with
      | (some _, s) => s.updCheckEnd u k
      | (none, s) => s.modUpdDesc u seq fun k => { k with waits := true }
    else s.updCheckEnd u k
  | none => s.updCheckEnd u k

/-- An engine's wait has been released: its completion word is taken. -/
def takeRelease (s : State) (w : Waiter) : Option State :=
  match s.sync.released.findIdx? fun r => r.1 == w with
  | none => none
  | some i => some { s with sync.released := s.sync.released.eraseIdx i }

/-! ### The apply pass (R357, R358, R367, R368) -/

/-- A working copy's conversion counted under the class of its destination (R64, R65). -/
def wcStats (s : State) (u fmt a : Nat) (st : Stat) (d : Drawer) : State :=
  let s := s.countStats (10752 + u) fmt (s.classAt (if u < 12 then u else 0) a) st
  (s.nanSeen (10752 + u) st).setGen (10752 + u) d

/-- Values converted to a format with a tensor scale: codes, the scale code where the format has one, statistics. -/
def convertBlock (fmt : Nat) (t : Half) (xs : List Half) (d : Drawer) : List Nat × Option Nat × Stat × Drawer :=
  if fmt = 8 then (xs.map BitVec.toNat, none, ⟨xs.length, 0, 0, 0, 0⟩, d)
  else if fmtIsMX fmt then
    let (cs, sc, st, d) := mxBlock fmt t xs (xs.map fun _ => true) d
    (cs, some sc, st, d)
  else
    let (cs, st, d) := wideAll fmt xs d
    (cs, none, st, d)

/-- The pruning unit's counts (R202). -/
def pruneCount (s : State) (u : Nat) (old new : List Nat) : State :=
  s.foldS (old.zip new) fun s p =>
    if p.1 = 0 ∨ p.1 = p.2 then s
    else (s.count (bUpd u) .PRU_MASK_IN (popcount8 (p.2 &&& (255 - p.1)))).count (bUpd u) .PRU_GROUP_CHG

/-- How many of eight a group's prune setting keeps (R352). -/
def pruneN (g : Group) : Nat := if g.prune = 1 then 4 else 2

/-- The pruning unit after a block update of a group with a prune N: the masks it stores, and its counts (R200, R202). The masks of a table
row's last block rank all 32 stored masters, also those past the row's end (DESIGN CHOICE, log entry 117). -/
def pruneBlock (s : State) (u : Nat) (g : Group) (xs : List Half) (old : List Nat) : List Nat × State :=
  if g.prune = 0 then (old, s) else (keptMasks (pruneN g) xs, s.pruneCount u old (keptMasks (pruneN g) xs))

/-- The working copy of a dense shard's block (R368). -/
def writeCopy (s : State) (u : Nat) (h : ShardD) (g : Group) (i : Nat) (xs : List Half) : State :=
  let p := wcP h.layout
  let img := h.wc + i / (32 * p) * h.wcStride
  let b := i % (32 * p)
  let (n, j) := (b % 32, b / 32)
  let w := fmtBits h.fmt
  let dr := s.gen (10752 + u) s.job.seed g.sr
  if h.layout = 3 then s
  else if h.layout = 0 ∧ g.prune = 0 then
    let (cs, sc, st, dr) := convertBlock h.fmt h.wcT xs dr
    let s := s.setDevBytes (img + 4 * w * n) (packBytes w cs)
    let s := match sc with
      | some c => s.setDevBytes (wcScales h img + n) [BitVec.ofNat 8 c]
      | none => s
    s.wcStats u h.fmt (img + 4 * w * n) st dr
  else if h.layout = g.prune then
    let k := pruneN g
    let new := keptMasks k xs
    let kept := (new.zip (chunks 8 4 xs)).flatMap fun e => (maskAt e.1).map fun q => nth e.2 q
    let pos := new.flatMap maskAt
    let (cs, sc, st, dr) := convertBlock h.fmt h.wcT kept dr
    let size := 4 * w + 12
    let at_ := img + size * n + j * (k * 4 * w / 8)
    let s := s.setDevBytes at_ (packBytes w cs)
    let s := s.setDevBytes (img + size * n + 4 * w + j * (k * 12 / 8)) (packBytes 3 pos)
    let s := match sc with
      | some c => s.setDevBytes (wcScales h img + p * n + j) [BitVec.ofNat 8 c]
      | none => s
    s.wcStats u h.fmt at_ st dr
  else s.count (bUpd u) .UPD_WC_MISMATCH

/-- Every reflection of a row of a table is refreshed from its working copy and bears the step (R287). -/
def refreshRow (s : State) (t : TableD) (row step : Nat) : State :=
  let (a, _, _) := s.placement t row
  let bs := s.devBytes a (t.elems * t.width)
  { s with emb := Tbl.mapEntries (fun _ => EmbRegion.reset) s.emb fun _ e =>
      { e with dir := e.dir.map fun p =>
        if p.2.state ≠ 0 ∧ p.2.table = t.tableId ∧ p.2.row = row then (p.1, { p.2 with state := 2, stamp := step, copy := bs }) else p } }

/-- The working copy of a table row's block (R368, R369): its elements in the row format at the row's placement, and its reflections (R287).
A table row has no pruned image (R368 gives its working copy as its elements): a pruned layout writes none and counts as a mismatch, also
where PRUNE agrees with it (DESIGN CHOICE, log entry 117). -/
def writeRowCopy (s : State) (u : Nat) (h : ShardD) (g : Group) (t : TableD) (row b : Nat) (xs : List Half) (step : Nat) : State :=
  if h.layout = 3 then s
  else if h.layout = 0 ∧ g.prune = 0 then
    let fmt := [8, 6, 7].getD t.rowFmt 8
    let dr := s.gen (10752 + u) s.job.seed g.sr
    let (cs, _, st, dr) := convertBlock fmt one32 xs dr
    let at_ := (s.placement t row).1 + 32 * b * t.width
    ((s.setDevBytes at_ (packBytes (8 * t.width) cs)).wcStats u fmt at_ st dr).refreshRow t row step
  else s.count (bUpd u) .UPD_WC_MISMATCH

/-- The values of a record (R343). -/
def recordVals (r : List Byte) (st : List Half) : BlockVals :=
  let byte (i : Nat) : Nat := (r.getD i 0).toNat
  { x := (chunks 4 32 (r.take 128)).map fun b => BitVec.ofNat 32 (leNat b)
    m := (upFrom 0 32).map fun i => momValue (byte 192) (byte (128 + i))
    r := (upFrom 0 32).map fun i => ueValue (byte 193) (byte (160 + i))
    acc := BitVec.ofNat 32 (leNat ((r.drop 160).take 4))
    st := st }

/-- A block's place in what it belongs to: its number, its first record's number and the elements before it (for a table), how many
elements it has. -/
structure Place where
  block : Nat
  first : Nat
  n : Nat
  deriving DecidableEq, Repr

/-- A record's bytes after an applied update (R343, R345, R358): masters, moments where the rule writes them, the tail. Elements past a row's
end keep what they hold (R369). -/
def newRecord (s : State) (u : Nat) (g : Group) (raw : List Byte) (b : Place) (o : BlockOut) (step : Nat) (masks : List Nat) :
    List Byte × State :=
  let old (lo n : Nat) : List Byte := (raw.drop lo).take n
  let dr := s.gen (10752 + u) s.job.seed g.sr
  let (mb, ms, dr) : List Byte × List Byte × Drawer :=
    if g.rule = 2 then (old 128 32, old 192 1, dr)
    else
      let (cs, sc, _, dr) := mxBlock 3 one32 (o.v.m.take b.n) (List.replicate b.n true) dr
      (packBytes 8 cs ++ old (128 + b.n) (32 - b.n), [BitVec.ofNat 8 sc], dr)
  let (vb, vs, dr) : List Byte × List Byte × Drawer :=
    if g.rule = 0 then (old 160 32, old 193 1, dr)
    else if g.rule = 2 then
      (if b.block = b.first then (leBytes 4 o.v.acc.toNat ++ List.replicate 28 0, [0], dr) else (old 160 32, old 193 1, dr))
    else
      let (cs, sc, dr) := ueBlock (o.v.r.take b.n) dr
      (packBytes 8 cs ++ old (160 + b.n) (32 - b.n), [BitVec.ofNat 8 sc], dr)
  let flags := if g.rule = 3 then (if o.fallback then 2 else 0) else leNat (old 200 2) / 2 % 2 * 2
  (o.v.x.flatMap (fun v => leBytes 4 v.toNat) ++ mb ++ vb ++ ms ++ vs ++ old 194 2 ++ leBytes 4 step ++ leBytes 2 flags
      ++ masks.map (fun v => BitVec.ofNat 8 v) ++ List.replicate 50 0,
    s.setGen (10752 + u) dr)

/-- An uncorrectable error leaves a block not applied and fails its descriptor (R360). -/
def updBad (s : State) (u : Nat) (k : UpdDesc) (bad : List Nat) : State :=
  (s.readBad bad (updAgent u) k.seq (updOf k.bytes).step).modUpdDesc u k.seq fun k => { k with status := 2 }

/-- A block's undo slot is of this step, and the descriptor reapplies (R359). -/
def restores (s : State) (h : ShardD) (d : UpdD) (i : Nat) : Bool :=
  h.undoEn && d.reapply && s.devNat (h.undo + 256 * i + 208) 4 == d.step

/-- The accumulator a row holds before the step (R359, R364): that of the undo slot where its first record is restored from it. -/
def rowAccOf (s : State) (h : ShardD) (d : UpdD) (i : Nat) : Half :=
  let r := h.recordAt i
  BitVec.ofNat 32 (s.devNat ((if s.devNat (r + 196) 4 ≠ d.step ∧ s.restores h d i then h.undo + 256 * i else r) + 160) 4)

/-- What an applied block is given beside its record: its gradients as read, its row's for ROWADAPT, the accumulator its row holds, whether
the row's first block already bears the step, the failing granules of its own gradient, whether its reads of host memory fail, its row. -/
structure Fed where
  grads : List Half
  rowG : List Half
  rowAcc : Half
  rowDone : Bool
  gradBad : List Nat
  hostBad : Bool
  row : Option Nat
  deriving DecidableEq, Repr

/-- The granules of a read of an engine that fail: in the tiers, or of host memory where its reads fail (R312, R360). -/
def updReadBad (s : State) (hostBad : Bool) (a n : Nat) : List Nat :=
  s.badIn a n ++ if hostBad && inHost a n then granules a n else []

/-- A block in case 6 of R357 is applied with its gradients as read (R358, R359, R361 to R368). -/
def applyBlock (s : State) (u : Nat) (k : UpdDesc) (b : Place) (fed : Fed) : State :=
  let d := updOf k.bytes
  let h := shardOf k.shard
  let t := tableOf k.table
  let at_ := h.recordAt b.block
  let raw := s.devBytes at_ 256
  let undo := h.undo + 256 * b.block
  let sa := h.stats + 576 * b.block
  let g := groupOf (Tbl.get (fun _ => groupReset) (s.updEng u).act (leNat ((raw.drop 194).take 2) % 4096)) d.step
  let bad := (if h.undoEn && d.reapply then s.updReadBad fed.hostBad undo 256 else [])
    ++ if g.rule = 3 ∧ h.stats ≠ 0 then s.updReadBad fed.hostBad sa 576 else []
  if ¬ bad.isEmpty then s.updBad u k bad
  else
    let restore := s.restores h d b.block
    let raw := if restore then
        let r := s.devBytes undo 256
        r.take 208 ++ List.replicate 4 0 ++ r.drop 212
      else raw
    let s := if restore then (s.setDevBytes at_ raw).count (bUpd u) .UPD_RESTORED else s
    let q := fdiv (fofNat d.nominal) (fofNat k.count)
    let f := fmul d.mul q
    let ys := fed.grads.map fun y => (clipGrad f g.clip y).1
    let clipped := (fed.grads.filter fun y => (clipGrad f g.clip y).2).length
    let rowYs := fed.rowG.map fun y => (clipGrad f g.clip y).1
    let sq := fmul (fsumList (rowYs.map fun y => fmul y y)) (fdiv one32 (fofNat rowYs.length))
    let acc := if fed.rowDone then fed.rowAcc else fadd (fmul g.b2 fed.rowAcc) sq
    let stats := h.stats != 0
    let v := recordVals raw (if stats then s.f32s sa 144 else [])
    let o := ruleBlock g v ys stats acc
    let s := if clipped = 0 then s else s.count (bUpd u) .UPD_CLIPPED clipped
    let s := if o.esc = 0 then s else s.count (bUpd u) .UPD_CURVE_ESC o.esc
    let s := if o.fallback then s.count (bUpd u) .UPD_CURVE_FALLBACK else s
    if !blockFinite g ys o stats then
      let flags := 1 + if g.rule = 3 then (if o.fallback then 2 else 0) else leNat ((raw.drop 200).take 2) / 2 % 2 * 2
      let s := s.setDevBytes (at_ + 196) (leBytes 4 d.step ++ leBytes 2 flags)
      (s.count (bUpd u) .UPD_NF_BLOCK).setFlag (bUpd u) Fld.UPD_STATUS_NF_SEEN true
    else
      let s := if h.undoEn then s.setDevBytes undo (raw.take 208 ++ leBytes 4 d.step ++ raw.drop 212) else s
      let s := if stats && g.rule == 3 then s.setDevBytes sa (o.v.st.flatMap fun x => leBytes 4 x.toNat) else s
      let old := (upFrom 0 4).map fun j => (raw.getD (202 + j) 0).toNat
      let (masks, s) := s.pruneBlock u g o.v.x old
      let (image, s) := newRecord s u g raw b o d.step masks
      let s := s.setDevBytes at_ image
      let s := match fed.row with
        | some r => s.writeRowCopy u h g t r (b.block - b.first) (o.v.x.take b.n) d.step
        | none => s.writeCopy u h g b.block o.v.x
      (s.workItem (bankUpd u)).count (bUpd u) .UPD_APPLIED

/-- A block's first matching case (R357). -/
def caseBlock (s : State) (u : Nat) (k : UpdDesc) (nonfinite : Bool) (b : Place) (fed : Fed) : State :=
  let d := updOf k.bytes
  let h := shardOf k.shard
  let at_ := h.recordAt b.block
  let c := bUpd u
  if nonfinite then s.count c .UPD_NF_STEP
  else if k.count = 0 then s.count c .UPD_NOCONTRIB
  else if ¬ (s.badIn at_ 256).isEmpty then s.updBad u k (s.badIn at_ 256)
  else
    let raw := s.devBytes at_ 256
    let stamp := leNat ((raw.drop 196).take 4)
    let gi := leNat ((raw.drop 194).take 2) % 4096
    let s := s.compared (bankUpd u) (BitVec.ofNat 32 stamp) (BitVec.ofNat 32 d.step)
    if stamp = d.step then s.count c .UPD_STAMP_SKIP
    else if seqBefore (BitVec.ofNat 32 d.step) (BitVec.ofNat 32 stamp) then s.count c .UPD_STAMP_AHEAD
    else if bitsOf (Tbl.get (fun _ => groupReset) (s.updEng u).act gi) 2 1 = 1 then s.count c .UPD_FROZEN
    else if ¬ fed.gradBad.isEmpty then s.updBad u k fed.gradBad
    else s.applyBlock u k b fed

/-! ### Tables (R287, R369 to R371) -/

/-- One row of a walk (R369, R370). A gradient granule that fails its check is zeroed with the others; it leaves the blocks whose gradient it
holds not applied (R360), and reads as zeros in ROWADAPT's sum over the row (R364, R578). -/
def applyRow (s : State) (u : Nat) (k : UpdDesc) (nonfinite : Bool) (row : Nat) (hostBad : List Nat) : State :=
  let d := updOf k.bytes
  let h := shardOf k.shard
  let t := tableOf k.table
  let ta := t.touchBase + row / 8
  let s := s.setDevNat ta 1 (setBits (s.devNat ta 1) (row % 8) 1 0)
  let ga := t.gradBase + row * t.gradStride
  let nb := rowBlocks t
  let bad := (upFrom 0 nb).map fun i => s.badIn (ga + 128 * i) (4 * min 32 (t.elems - 32 * i))
  let grads := s.f32s ga t.elems
  let s := s.foldS (granules ga (4 * t.elems)) fun s g => s.setDevBytes g (List.replicate 64 0)
  let first := row * nb
  let (pa, _, pbad) := s.placement t row
  let okRow := (upFrom first nb).all (fun i => s.owns u (h.recordAt i)) && pbad.isEmpty
    && (h.layout == 3 || s.mapped pa (t.elems * t.width))
  if ¬ okRow then (s.readBad pbad (updAgent u) k.seq d.step).modUpdDesc u k.seq fun k => { k with status := 2 }
  else
    let rowDone := s.devNat (h.recordAt first + 196) 4 == d.step
    let acc := s.rowAccOf h d first
    s.foldS (upFrom 0 nb) fun s i =>
      s.caseBlock u k nonfinite ⟨first + i, first, min 32 (t.elems - 32 * i)⟩
        ⟨(grads.drop (32 * i)).take 32, grads, acc, rowDone, bad.getD i [], hostBad.contains i, some row⟩

/-- The end of a table's walk (R287, R370, R371): its list is emptied, and every reflection of the owner's rows that the step did not
update bears the step; one that awaits its first copy gets it (log entry 21). -/
def walkEnd (s : State) (u : Nat) (k : UpdDesc) : State :=
  let d := updOf k.bytes
  let t := tableOf k.table
  let s := s.setDevNat (t.listBase + u * (8 + 8 * t.listCap)) 8 0
  let rows := (s.emb.flatMap fun e => (e.2.dir.map Prod.snd).filter fun f =>
    f.state != 0 && f.table == t.tableId && s.ownerOf t f.row == u).map fun f => (f.row, f.state)
  let fresh := ((rows.filter fun f => f.2 == 1).map Prod.fst).dedup
  let s := s.foldS fresh fun s r => s.refreshRow t r d.step
  { s with emb := Tbl.mapEntries (fun _ => EmbRegion.reset) s.emb fun _ e =>
      { e with dir := e.dir.map fun p =>
        if p.2.state = 2 ∧ p.2.table = t.tableId ∧ s.ownerOf t p.2.row = u then (p.1, { p.2 with stamp := d.step }) else p } }

/-- The blocks or rows a descriptor applies. -/
def updWork (k : UpdDesc) : Nat :=
  if k.status ≠ 0 ∧ k.status ≠ 2 then 0
  else if (shardOf k.shard).kind = 1 then k.rows.length else (shardOf k.shard).blocks

/-- The verdict an engine has for its batch (R356): none while it is pending. -/
def verdictOf (s : State) (u : Nat) : Option Bool :=
  let g := s.updEng u
  let c := s.getF (bUpd u) Fld.UPD_VERDICT_CODE
  if g.reported ∧ s.getF (bUpd u) Fld.UPD_VERDICT_STEP = g.step ∧ (c = 1 ∨ c = 2) then some (c == 2) else none

/-- The next block or row of a descriptor is applied. -/
def applyNext (s : State) (u : Nat) (k : UpdDesc) (nonfinite : Bool) (hostBad : List Nat) : State :=
  let h := shardOf k.shard
  let s := (s.modUpd u fun g => { g with applying := true }).modUpdDesc u k.seq fun k => { k with next := k.next + 1 }
  if h.kind = 1 then s.applyRow u k nonfinite (k.rows.getD k.next 0) hostBad
  else
    let i := k.next
    let ga := h.grad + 128 * i
    let grads := s.f32s ga 32
    let acc := s.rowAccOf h (updOf k.bytes) i
    s.caseBlock u k nonfinite ⟨i, i, 32⟩ ⟨grads, grads, acc, false, s.badIn ga 128, hostBad.contains 0, none⟩

/-- A descriptor completes (R360): DONE, its failure recorded and reported. -/
def updFinish (s : State) (u : Nat) (k : UpdDesc) (status : Nat) : State :=
  let d := updOf k.bytes
  let s := s.modUpd u fun g => { g with batch := g.batch.filter fun e => e.seq != k.seq }
  let s := match d.done with
    | some c => if counterOk c then s.signal (updAgent u) k.seq c else s
    | none => s
  let s := if status = 0 then s
    else
      let img := status + k.seq % 2 ^ 32 * 2 ^ 8
      let s := (s.setReg (bUpd u) .UPD_ERR 0 (BitVec.ofNat 64 img)).setFlag (bUpd u) Fld.UPD_STATUS_ERR_SEEN true
      let s := s.irq (if u < 12 then srcRegion u 2 else 3208 + (u - 12))
      s.report ⟨0x0008, s.time, d.step, udUpd u, (s.updQueue u).map fun q => (q, k.seq), img⟩
  match s.updQueue u with
  | some q => s.descDone q k.seq
  | none => s

def updClear (s : State) (u : Nat) : State :=
  s.clearRegs (bUpd u) 0 [.UPD_APPLIED, .UPD_FROZEN, .UPD_NF_STEP, .UPD_NOCONTRIB, .UPD_STAMP_SKIP, .UPD_STAMP_AHEAD, .UPD_NF_BLOCK,
    .UPD_CLIPPED, .UPD_CURVE_ESC, .UPD_CURVE_FALLBACK, .UPD_RESTORED, .UPD_WC_MISMATCH, .UPD_VERDICT_WAIT]

/-- A group-table entry written to the pending copy, clamped; how many values were (R353, R354). -/
def groupWrite (s : State) (u i v : Nat) : Nat × State :=
  let (e, n) := groupClamp v
  (n, s.modUpd u fun g => { g with pend := Tbl.put (fun _ => groupReset) g.pend i e })

/-- A word of the entry UPD_GT_SEL names (R375). -/
def gtEntry (s : State) (u : Nat) : Nat :=
  let g := s.updEng u
  Tbl.get (fun _ => groupReset) (if s.getF (bUpd u) Fld.UPD_GT_SEL_BANK = 0 then g.pend else g.act) (s.getF (bUpd u) Fld.UPD_GT_SEL_INDEX)
/-- A write of UPD_GT_DATA: always to the pending copy; how many values were clamped. -/
def gtDataWrite (s : State) (u w : Nat) (v : Word) : Nat × State :=
  let i := s.getF (bUpd u) Fld.UPD_GT_SEL_INDEX
  s.groupWrite u i (setBits (Tbl.get (fun _ => groupReset) (s.updEng u).pend i) (64 * w) 64 v.toNat)

end State

/-- An update engine's island is ON (R521): a fast-tier engine's is its region controller's. -/
def State.updRuns (s : State) (u : Nat) : Bool := decide (12 ≤ u) || s.runs (672 + u)

/-- A descriptor admission of an update engine (R532); a slow-tier engine is on no self-timed island. -/
def State.updAdmits (s : State) (u : Nat) (t : State) : State := if 12 ≤ u then t else s.opportunity (672 + u) 2 t

/-! ### The rows -/

/-- UPDATE_CHECK_PASS (R354 to R356, R374, R532): the next descriptor's check pass begins, or goes on after its wait; HOLD stops both. -/
def execUpdateCheckPass (unit : UpdId) (s : State) : Host.Outcome State Fault Refusal :=
  let g := s.updEng unit
  .next (if g.reported || s.flag (bUpd unit) Fld.UPD_CTRL_HOLD || !s.updRuns unit then s
    else match g.batch.find? fun k => !k.checked with
      | some k =>
        match s.takeRelease (.engine (State.updAgent unit % 2 ^ 28)) with
        | some s => s.updCheckEnd unit k
        | none => s
      | none =>
        match s.updQueue unit with
        | none => s
        | some q => match s.startable q with
          | none => s
          | some (n, b) => s.updAdmits unit (s.updBegin unit q n b))

/-- UPDATE_APPLY_PASS (R357 to R370): the next block, or the next row of a table, once the verdict is known; `beat` gives the beats that have
passed for it and the reads of host memory that fail (log entry 5). A block's writes take place in one row (log entry 22). -/
def execUpdateApplyPass (unit : UpdId) (beat : UpdBeat) (s : State) : Host.Outcome State Fault Refusal :=
  .next (if s.flag (bUpd unit) Fld.UPD_CTRL_HOLD || !s.updRuns unit then s
    else match s.verdictOf unit, (s.updEng unit).batch.head? with
      | some nf, some k =>
        if k.next < State.updWork k then
          (if beat.waited = 0 then s else s.count (bUpd unit) .UPD_VERDICT_WAIT beat.waited).applyNext unit k nf beat.hostBad
        else s
      | _, _ => s)

/-- UPDATE_DONE (R360, R371): the oldest descriptor of the batch, all of whose blocks have been handled, completes; `waited` beats of the
batch's wait for its verdict have not been counted with a block (R356, log entry 5). HOLD lets no descriptor's pass start (R374). -/
def execUpdateDone (unit : UpdWait) (s : State) : Host.Outcome State Fault Refusal :=
  let waited := unit.waited
  let unit := unit.unit
  .next (match s.verdictOf unit, (s.updEng unit).batch.head? with
    | some _, some k =>
      if k.next < State.updWork k ∨ (k.next = 0 ∧ s.flag (bUpd unit) Fld.UPD_CTRL_HOLD) ∨ ¬ s.updRuns unit then s
      else
        let s := if waited = 0 then s else s.count (bUpd unit) .UPD_VERDICT_WAIT waited
        let s := if (k.status = 0 ∨ k.status = 2) ∧ (shardOf k.shard).kind = 1 then s.walkEnd unit k else s
        let s := s.updFinish unit k k.status
        if (updOf k.bytes).stepLast then
          s.modUpd unit fun g => { g with reported := false, nf := false, ended := some g.step, applying := false }
        else s.modUpd unit fun g => { g with applying := true }
    | _, _ => s)

/-- UPD_HOLD (R374). -/
def execUpdHold (unit : UpdId) (w : Writer) (hold : Bool) (s : State) : Host.Outcome State Fault Refusal :=
  .next (ifControl w s (s.ifReached (bUpd unit) (s.setFlag (bUpd unit) Fld.UPD_CTRL_HOLD hold)))

/-- UPD_CNT_CLEAR (R374). -/
def execUpdCntClear (unit : UpdId) (w : Writer) (s : State) : Host.Outcome State Fault Refusal :=
  .next (ifControl w s (s.ifReached (bUpd unit) (s.updClear unit)))

/-- UPD_GT_DATA_WRITE (R353, R375). -/
def execUpdGtDataWrite (unit : UpdId) (w : Writer) (word : Fin 8) (value : Word) (s : State) : Host.Outcome State Fault Refusal :=
  .next (ifControl w s (s.ifReached (bUpd unit) (s.gtDataWrite unit word value).2))

end Sys2Proof.Machine
end

