-- ==== Sys2Proof/Machine/Exchange.lean ====
section
/-! DEFINITION. The gradient exchange (R398 to R428): posts, contributions, reduce-scatter and all-gather over the ring, late
contributions and backups, verdict and seal rounds, ring breaks. A chunk is dealt with when its last packet is in. -/

namespace Sys2Proof.Machine

/-! ### The bucket table (R401, R402) -/

/-- A bucket-table entry. -/
structure BucketD where
  len : Nat
  valid : Bool
  carry : Bool
  mask : Nat
  partBase : Nat
  partStride : Nat
  contrib : Nat
  result : Nat
  carryBase : Nat
  staging : Nat
  countAt : Nat
  parity : Nat
  reduced : Option Nat
  deriving DecidableEq, Repr

def bucketOf (d : List Byte) : BucketD :=
  { len := dbits d 0 28
    valid := dbits d 28 1 == 1
    carry := dbits d 29 1 == 1
    mask := dbits d 32 12
    partBase := dbits d 64 52
    partStride := dbits d 128 48
    contrib := dbits d 192 52
    result := dbits d 256 52
    carryBase := dbits d 320 52
    staging := dbits d 384 52
    countAt := dbits d 448 52
    parity := dbits d 512 48
    reduced := counterField d 582 560 }

/-- Q of R402. -/
def BucketD.q (b : BucketD) : Nat := 16 * ((b.len + 63) / 64)
/-- Elements [lo, lo + n) of a quarter. -/
def BucketD.quarter (b : BucketD) (q : Nat) : Nat × Nat := (min b.len (q * b.q), min b.len ((q + 1) * b.q) - min b.len (q * b.q))
/-- Chunk k of a range split n ways (R405). -/
def chunkOf (r : Nat × Nat) (n k : Nat) : Nat × Nat :=
  let c := 16 * ((r.2 + 16 * n - 1) / (16 * n))
  (r.1 + min r.2 (k * c), min r.2 ((k + 1) * c) - min r.2 (k * c))

/-- A chunk's key. -/
def chunkKey (q level phase chunk : Nat) : Nat := ((q * 4 + level) * 4 + phase) * 65536 + chunk

/-- CRC-64 of ECMA-182 over bytes (R416). -/
def crc64 (bs : List Byte) : Nat :=
  bs.foldl (fun c b => (upFrom 0 8).foldl (fun c _ =>
    if c / 2 ^ 63 = 1 then (c % 2 ^ 63 * 2) ^^^ 0x42F0E1EBA9EA3693 else c * 2) (c ^^^ (b.toNat * 2 ^ 56))) 0

def exAgent : Nat := agentEngine 0 0 1
/-- The waiter of a post: the dispatcher, told apart by step and bucket above the 28 bits of its identifier. -/
def postWaiter (step bucket : Nat) : Waiter := .engine (exAgent % 2 ^ 28 + 2 ^ 28 * (1 + step * 256 + bucket))

namespace State

/-! ### Rings (R398) -/

/-- L; 0 with no job open (R425). -/
def levels (s : State) : Nat := s.getF bHub Fld.FR_STATUS_LEVELS
def ringSize (s : State) (l : Nat) : Nat := s.getF (bRing l) Fld.RL_POS_SIZE_M1 + 1
def ringPos (s : State) (l : Nat) : Nat := s.getF (bRing l) Fld.RL_POS_POSITION
def isBackup (s : State) : Bool := s.flag (bRing 0) Fld.RL_BACKUP_IS_BACKUP
/-- This module's backup (R412). -/
def myBackup (s : State) : Option Nat :=
  if s.flag (bRing 0) Fld.RL_BACKUP_BACKUP_EN then some (s.getF (bRing 0) Fld.RL_BACKUP_BACKUP) else none
/-- s_0 of R403: the oldest step not job-sealed. -/
def oldestStep (s : State) : Nat := (s.getF bHub Fld.FR_SEAL_JOB + 1) % 2 ^ 32
def nextStep (n : Nat) : Nat := (n + 1) % 2 ^ 32
/-- The steps a module exchanges: s_0 and s_0 + 1 (R403). -/
def inWindow (s : State) (step : Nat) : Bool := step == s.oldestStep || step == nextStep s.oldestStep

/-- The range of elements this module works on at a level (R405). -/
def levelRange (s : State) (b : BucketD) (q : Nat) : Nat → Nat × Nat
  | 0 => b.quarter q
  | l + 1 => chunkOf (s.levelRange b q l) (s.ringSize l) (s.ringPos l)

def bucketD (s : State) (i : Nat) : BucketD := bucketOf (Tbl.get (fun _ => []) s.job.buckets i)
def validBuckets (s : State) : List Nat := (upFrom 0 256).filter fun i => (s.bucketD i).valid

/-- A bucket of a step. -/
def exBuf (s : State) (step bucket : Nat) : ExBuf :=
  (s.ex.bufs.find? fun b => b.step == step && b.bucket == bucket).getD (ExBuf.reset step bucket)
def modBuf (s : State) (step bucket : Nat) (f : ExBuf → ExBuf) : State :=
  let b := f (s.exBuf step bucket)
  if s.ex.bufs.any fun b => b.step == step && b.bucket == bucket then
    { s with ex.bufs := s.ex.bufs.map fun c => if c.step = step ∧ c.bucket = bucket then b else c }
  else { s with ex.bufs := s.ex.bufs ++ [b] }

/-- The buffers of a parity (R402). -/
def pi (b : BucketD) (step : Nat) : Nat := step % 2 * b.parity
def contribAt (b : BucketD) (step e : Nat) : Nat := b.contrib + pi b step + 4 * e
def resultAt (b : BucketD) (step e : Nat) : Nat := b.result + pi b step + 4 * e
def stagingAt (b : BucketD) (slot q e : Nat) : Nat := b.staging + slot * (4 * b.q) + 4 * (e - (b.quarter q).1)

def putF32s (s : State) (a : Nat) (vs : List Half) : State := s.setDevBytes a (wordsLE vs)

/-! ### Sending (R406, R440) -/

/-- The ports of a die that face a level's side and are up (R400). -/
def diePorts (s : State) (d level role : Nat) : List Nat := (s.upPorts level role).filter fun p => p / 8 == d

/-- The mapped ports of a die that face a level's side and whose link is up (R420, R427). -/
def linkPorts (s : State) (d level role : Nat) : List Nat :=
  match s.lw.map with
  | none => []
  | some m => (upFrom (8 * d) 8).filter fun p => s.lwUp p && mapRole m p == role && mapLevel m p == level

/-- A chunk cut in packets of 4,096 elements (R440). -/
def chunkPackets (s : State) (dst step bucket q level phase chunk : Nat) (c : ExChunk) : List Packet :=
  let n := (c.vals.length + 4095) / 4096
  ((chunks 4096 n c.vals).zip (upFrom 0 n)).map fun e =>
    let spec := step % 2 ^ 32 + bucket * 2 ^ 32 + q * 2 ^ 40 + level * 2 ^ 42 + phase * 2 ^ 44 + (if c.nf then 2 ^ 46 else 0)
      + (if e.2 + 1 = n then 2 ^ 47 else 0) + chunk % 2 ^ 16 * 2 ^ 48 + c.count % 2 ^ 32 * 2 ^ 64 + e.2 * 4096 * 2 ^ 96
    ⟨4, level, dst, s.selfModule, spec, wordsLE e.1⟩

/-- A chunk leaves by a port of a die, in turn among those of a role at a level. -/
def sendOn (s : State) (d level role : Nat) (ps : List Packet) : State :=
  match s.takeTurn (16 + d * 16 + level * 4 + role) (s.diePorts d level role) with
  | none => s
  | some (p, s) => s.foldS ps fun s k => s.portSend p 0 k

/-- A partial (phase 0) or a chunk (phase 1) leaves for the successor, kept for the digest. -/
def sendChunk (s : State) (step bucket q level phase chunk : Nat) (c : ExChunk) : State :=
  if c.vals.isEmpty then s
  else
    let s := s.modBuf step bucket fun b => { b with sent := Tbl.put (fun _ => ExChunk.reset) b.sent (chunkKey q level phase chunk) c }
    let s := ((s.count (bDie q) .RE_CHUNK_TX).count (bDie q) .RE_TX_BYTES (4 * c.vals.length)).workItem (12192 + q)
    s.sendOn q level 1 (s.chunkPackets (s.getF (bRing level) Fld.RL_POS_SUCC) step bucket q level phase chunk c)

/-- A quarter sent between a member and its backup (R412). -/
def sendBackup (s : State) (dst step bucket q phase : Nat) (c : ExChunk) : State :=
  s.sendOn q 0 3 (s.chunkPackets dst step bucket q 0 phase 0 c)

/-! ### The non-finite flag (R413, R414) -/

/-- The first sight of a non-finite bucket: recorded where no record is held, and reported. -/
def nfFirst (s : State) (step bucket q level cause module : Nat) : State :=
  let img := step % 2 ^ 32 + bucket * 2 ^ 32 + q * 2 ^ 40 + level * 2 ^ 42 + cause * 2 ^ 44 + 2 ^ 47 + module * 2 ^ 48
  let s := if s.flag bHub Fld.FR_NF_FIRST_VALID then s else s.setReg bHub .FR_NF_FIRST 0 (BitVec.ofNat 64 img)
  (s.irq (srcDie q 0)).report ⟨0x000A, s.time, step, udDie q, none, img⟩

/-- The cause of non-finite elements in a range of the own value: the backup's copy, or the first code among them (R414, log entry 104). -/
def causeIn (b : ExBuf) (r : Nat × Nat) : Nat :=
  if b.decision = 2 then 2
  else ((b.causes.filter fun e => decide (r.1 ≤ e.1) && decide (e.1 < r.1 + r.2)).map Prod.snd).min?.getD 1

/-- Who a cause names (R414). -/
def causeModule (s : State) (level cause : Nat) : Nat :=
  if cause = 2 then s.getF (bRing 0) Fld.RL_BACKUP_BACKUP
  else if cause = 5 then s.getF (bRing level) Fld.RL_POS_PRED
  else s.selfModule

/-! ### Digests (R416, R417) -/

/-- The bytes of a level's chunks in ascending order: reduce-scatter, then all-gather. -/
def digestBytes (t : Tbl ExChunk) (q level : Nat) : List Byte :=
  [0, 1].flatMap fun ph => (t.filter fun e => e.1 / 65536 == (q * 4 + level) * 4 + ph).flatMap fun e => wordsLE e.2.vals

def digestLog (s : State) (step bucket q level : Nat) : State :=
  let b := s.exBuf step bucket
  let a := s.job.digest + ((step % 2 * 256 + bucket) * 4 + q) * 64 + 16 * level
  (s.setDevNat a 8 (crc64 (digestBytes b.sent q level))).setDevNat (a + 8) 8 (crc64 (digestBytes b.got q level))

/-! ### All-gather (R407, R408) -/

/-- This module's own chunk of a level is fully reduced, and the whole level is: from the top level down. -/
def levelDone (s : State) (b : ExBuf) (d : BucketD) (q l : Nat) (own : Bool) : Bool :=
  own && (Tbl.get (fun _ => 0) b.final (q * 4 + l)
    == (s.levelRange d q l).2 - (chunkOf (s.levelRange d q l) (s.ringSize l) (s.ringPos l)).2)

/-- Whether the own chunk of a level is final, for the levels from L − 1 down to l: `k` counts the levels above. -/
def ownFinal (s : State) (b : ExBuf) (d : BucketD) (q : Nat) : Nat → Bool
  | 0 => (Tbl.find? b.owned (q * 4 + (s.levels - 1))).isSome
  | k + 1 => s.levelDone b d q (s.levels - 1 - k) (s.ownFinal b d q k)

/-- The quarter is complete: every element of the result is final (R400, R408). -/
def quarterDone (s : State) (b : ExBuf) (d : BucketD) (q : Nat) : Bool :=
  if s.isBackup then decide (Tbl.get (fun _ => 0) b.final (q * 4) = (d.quarter q).2)
  else s.ownFinal b d q s.levels

/-- What follows once from a final level, with k levels above it: its digests are logged, once its own chunk has left; unless HOLD stops a
start (R425), the own chunk of the level below is sent on, and the whole quarter to the backup. -/
def finalLevel (s : State) (step bucket q k : Nat) : State :=
  let d := s.bucketD bucket
  let key := 2 * (q * 4 + k)
  let mark (s : State) (n : Nat) : State := s.modBuf step bucket fun b => { b with told := n :: b.told }
  let s := if k = 0 ∨ key ∈ (s.exBuf step bucket).told ∨ 2 * (q * 4 + (k - 1)) + 1 ∉ (s.exBuf step bucket).told then s else mark (s.digestLog step bucket q (s.levels - k)) key
  if key + 1 ∈ (s.exBuf step bucket).told ∨ s.flag bHub Fld.FR_CTRL_HOLD then s
  else
    let s := mark s (key + 1)
    if k = s.levels then
      match s.myBackup with
      | none => s
      | some m =>
        let r := d.quarter q
        let b := s.exBuf step bucket
        s.sendBackup m step bucket q 3 ⟨s.f32s (resultAt d step r.1) r.2, b.total, b.nf⟩
    else
      let l := s.levels - 1 - k
      if s.ringSize l = 1 then s
      else
        let r := chunkOf (s.levelRange d q l) (s.ringSize l) (s.ringPos l)
        let vals := s.f32s (resultAt d step r.1) r.2
        let own := Tbl.get (fun _ => (0, 0, false)) (s.exBuf step bucket).owned (q * 4 + l)
        s.sendChunk step bucket q l 1 (s.ringPos l) ⟨vals, own.2.1, own.2.2 || vals.any fun v => !ffinite v⟩

/-- What follows from the levels of a quarter that are final (R407). -/
def gatherOn (s : State) (step bucket q : Nat) : State :=
  let d := s.bucketD bucket
  s.foldS ((upFrom 0 (s.levels + 1)).filter fun k => s.ownFinal (s.exBuf step bucket) d q k) fun s k => s.finalLevel step bucket q k

/-- A count and a flag of a chunk of the result reach the bucket and the own chunks of the levels below. -/
def noteFinal (s : State) (step bucket q level : Nat) (count : Nat) (nf : Bool) : State :=
  s.modBuf step bucket fun b => { b with
    nf := b.nf || nf, total := count
    owned := b.owned.map fun e => if e.1 / 4 = q ∧ e.1 % 4 < level then (e.1, (e.2.1, count, e.2.2.2 || nf)) else e }

/-! ### Reduce-scatter (R405, R406, R409) -/

/-- The value of a range at a level: none where the contribution was excluded; with its count and whether it is known non-finite. -/
def valueOf (s : State) (step bucket q level : Nat) (r : Nat × Nat) : Option (List Half) × Nat × Bool :=
  let b := s.exBuf step bucket
  let d := s.bucketD bucket
  if level = 0 then
    if b.decision = 3 then (none, 0, false) else (some (s.f32s (contribAt d step r.1) r.2), b.count, false)
  else
    let o := Tbl.get (fun _ => (0, 0, false)) b.owned (q * 4 + (level - 1))
    (some (s.f32s (resultAt d step r.1) r.2), o.2.1, o.2.2)

/-- A reduced chunk is this module's: it is written to the result (R406). -/
def ownChunk (s : State) (step bucket q level : Nat) (r : Nat × Nat) (c : ExChunk) : State :=
  let d := s.bucketD bucket
  let s := s.putF32s (resultAt d step r.1) c.vals
  let s := s.modBuf step bucket fun b => { b with
    owned := Tbl.insert b.owned (q * 4 + level) (s.ringPos level, c.count, c.nf) }
  if level + 1 = s.levels then s.noteFinal step bucket q level c.count c.nf else s

/-- How many chunks that are not empty a member receives at a level, in both passes (R406, R407). -/
def expectedRx (s : State) (d : BucketD) (q l : Nat) : Nat :=
  let n := s.ringSize l
  let p := s.ringPos l
  let full := (upFrom 0 n).filter fun k => decide (0 < (chunkOf (s.levelRange d q l) n k).2)
  (full.filter (· != (p + n - 1) % n)).length + (full.filter (· != p)).length

/-- The engine of a die waits on its predecessor at a level (R420): a bucket it has begun has chunks to come, or, on die 0, a verdict or
seal round has values to come. -/
def engineWaits (s : State) (q l : Nat) : Bool :=
  decide (1 < s.ringSize l)
    && (s.ex.bufs.any (fun b => !b.complete && b.begun.contains (q * 4 + l)
        && decide ((b.got.filter fun e => e.1 / 65536 / 4 == q * 4 + l).length < s.expectedRx (s.bucketD b.bucket) q l))
      || (q == 0 && s.ex.rounds.any fun r => r.started && !r.ended && r.level == l && s.inWindow r.step))

/-- The engine's timer toward its predecessor runs from now (R420). -/
def heard (s : State) (d level : Nat) : State := { s with ex.heard := Tbl.put (fun _ => 0) s.ex.heard (d * 4 + level) s.time }
/-- It runs from now where the engine was not waiting. -/
def waitFrom (s : State) (d level : Nat) : State := if s.engineWaits d level then s else s.heard d level

/-- A level begins with the value known: this module's chunk leaves, or the level of a ring of one is owned at once. -/
def startLevel (s : State) (step bucket q level : Nat) : State :=
  let d := s.bucketD bucket
  let range := s.levelRange d q level
  let n := s.ringSize level
  let p := s.ringPos level
  let k := (p + n - 1) % n
  let r := chunkOf range n k
  let (v, cnt, flag) := s.valueOf step bucket q level r
  let vals := v.getD (List.replicate r.2 0)
  let bad := vals.any fun v => !ffinite v
  let cause := causeIn (s.exBuf step bucket) r
  let s := if level = 0 && bad && !flag then s.nfFirst step bucket q level cause (s.causeModule level cause) else s
  let s := (s.waitFrom q level).modBuf step bucket fun b => { b with begun := (q * 4 + level) :: b.begun }
  let c : ExChunk := ⟨vals, cnt, flag || bad⟩
  if n = 1 then s.ownChunk step bucket q level r c
  else
    let s := s.sendChunk step bucket q level 0 k c
    if (chunkOf range n p).2 = 0 then s.ownChunk step bucket q level (chunkOf range n p) ⟨[], cnt, false⟩ else s

/-- The member's value for a level exists (R409). -/
def valueKnown (s : State) (step bucket q level : Nat) : Bool :=
  let b := s.exBuf step bucket
  if level = 0 then b.decision != 0 else (Tbl.find? b.owned (q * 4 + (level - 1))).isSome

/-- The ring engine of a die works: its fabric is ON (R521, R524, R572). -/
def dieRuns (s : State) (d : Nat) : Bool := s.runs (684 + d)
/-- It is held: what reaches it waits (R524). -/
def dieHeld (s : State) (d : Nat) : Bool := s.islState (684 + d) == 1

/-- A quarter of a bucket goes as far as it can: levels whose value is known begin, unless HOLD stops a start (R425), and final levels are
followed up; nothing goes on while the die's ring engine does not work; `fuel` bounds the levels. -/
def advance (s : State) (step bucket q : Nat) : Nat → State
  | 0 => s
  | fuel + 1 =>
    if !s.dieRuns q then s
    else match (upFrom 0 s.levels).find? fun l =>
        !s.isBackup && !(s.exBuf step bucket).begun.contains (q * 4 + l) && s.valueKnown step bucket q l with
    | some l =>
      if s.flag bHub Fld.FR_CTRL_HOLD then s.gatherOn step bucket q
      else (s.startLevel step bucket q l).advance step bucket q fuel
    | none => s.gatherOn step bucket q

/-- A partial meets the member's value: it is added and goes on, or becomes the owner's chunk. -/
def partialOn (s : State) (step bucket q level k : Nat) (c : ExChunk) : State :=
  let d := s.bucketD bucket
  let n := s.ringSize level
  let r := chunkOf (s.levelRange d q level) n k
  let (v, cnt, flag) := s.valueOf step bucket q level r
  let inBad := c.vals.any fun x => !ffinite x
  let ownBad := (v.getD []).any fun x => !ffinite x
  let vals := match v with
    | none => c.vals
    | some v => (c.vals.zip v).map fun p => fadd p.1 p.2
  let sumBad := vals.any fun x => !ffinite x
  let s := if v.isSome then s.count (bDie q) .RE_ADD_ELEMS vals.length else s
  let nf := c.nf || flag || ownBad || sumBad
  let cause := if inBad then 5 else if ownBad && level == 0 then causeIn (s.exBuf step bucket) r else 4
  let s := if nf && !c.nf && !flag then s.nfFirst step bucket q level cause (s.causeModule level cause) else s
  let out : ExChunk := ⟨vals, c.count + cnt, nf⟩
  if k = s.ringPos level then (s.ownChunk step bucket q level r out).advance step bucket q 4
  else s.sendChunk step bucket q level 0 k out

/-- A partial parked in its staging slot (R409); at level 0 it starts the deadline (R410). -/
def parkPartial (s : State) (step bucket q level k : Nat) (c : ExChunk) : State :=
  let d := s.bucketD bucket
  let r := chunkOf (s.levelRange d q level) (s.ringSize level) k
  let s := (s.putF32s (stagingAt d (4 * level + q) q r.1) c.vals).count (bDie q) .RE_PARKED
  s.modBuf step bucket fun b => { b with
    park := b.park ++ [⟨q, level, k, c.count, c.nf⟩]
    since := if level = 0 then b.since <|> some s.time else b.since }

/-- Every quarter of a bucket goes as far as it can. -/
def startQuarters (s : State) (step bucket : Nat) : State := s.foldS (upFrom 0 4) fun s q => s.advance step bucket q 4

/-! ### Packets (R440) -/

/-- The fields of a bucket packet. -/
def pkStep (k : Packet) : Nat := k.bits 64 32
def pkBucket (k : Packet) : Nat := k.bits 96 8
def pkQuarter (k : Packet) : Nat := k.bits 104 2
def pkLevel (k : Packet) : Nat := k.bits 106 2
def pkPhase (k : Packet) : Nat := k.bits 108 2
def pkChunk (k : Packet) : Nat := k.bits 112 16

/-- A packet waits in its port's credit: its bucket's slot still serves an earlier step, or its step is not due (R409); the packet is the
later item of an unordered pair (R28). -/
def packetWaits (s : State) (step bucket : Nat) : Bool :=
  arrivesLater (BitVec.ofNat 32 (nextStep s.oldestStep)) (BitVec.ofNat 32 step)
    || (step == nextStep s.oldestStep && (s.bucketD bucket).valid && !(s.exBuf s.oldestStep bucket).complete)

/-- The elements a chunk of the packet's kind covers. -/
def pkRange (s : State) (k : Packet) : Nat × Nat :=
  let d := s.bucketD (pkBucket k)
  if 2 ≤ pkPhase k then d.quarter (pkQuarter k)
  else chunkOf (s.levelRange d (pkQuarter k) (pkLevel k)) (s.ringSize (pkLevel k)) (pkChunk k)

/-- A packet of a chunk joins what has arrived; the chunk, once its last packet is in. -/
def gatherPacket (s : State) (k : Packet) : Option ExChunk × State :=
  let key := chunkKey (pkQuarter k) (pkLevel k) (pkPhase k) (pkChunk k)
  let off := k.bits 160 28
  let n := min 4096 ((s.pkRange k).2 - off)
  let vals := (chunks 4 n k.payload).map fun b => BitVec.ofNat 32 (leNat b)
  let old := Tbl.get (fun _ => ExChunk.reset) (s.exBuf (pkStep k) (pkBucket k)).rx key
  let c : ExChunk := ⟨old.vals ++ vals, k.bits 128 32, old.nf || k.bits 110 1 == 1⟩
  let last := k.bits 111 1 == 1
  (if last then some c else none, s.modBuf (pkStep k) (pkBucket k) fun b => { b with
    rx := Tbl.put (fun _ => ExChunk.reset) b.rx key (if last then ExChunk.reset else c) })

/-- A packet that waits at the head of a port's bucket class: the beats it has waited (R409), and, once for the packet, its comparison where
the pair is unordered (R28). -/
def packetHeld (s : State) (p q step waited : Nat) : State :=
  let s := match (s.port p).rxq.find? fun k => k.cls == 3 with
    | none => s
    | some k =>
      if k.seen then s
      else (s.compared (bankRing q) (BitVec.ofNat 32 (nextStep s.oldestStep)) (BitVec.ofNat 32 step)).modPort p fun g =>
        { g with rxq := g.rxq.replace k { k with seen := true } }
  if waited = 0 then s else s.count (bDie q) .RE_CREDIT_WAIT waited

/-- A received chunk counted and kept for the digest. -/
def gotChunk (s : State) (k : Packet) (c : ExChunk) : State :=
  let q := pkQuarter k
  let s := s.modBuf (pkStep k) (pkBucket k) fun b => { b with
    got := Tbl.put (fun _ => ExChunk.reset) b.got (chunkKey q (pkLevel k) (pkPhase k) (pkChunk k)) c }
  (s.count (bDie q) .RE_CHUNK_RX).count (bDie q) .RE_RX_BYTES (4 * c.vals.length)

/-- A step has no verdict here. -/
def undecided (s : State) (step : Nat) : Bool := !s.ex.verdicts.any fun v => v.1 == step

/-- The exchange runs: a job is open or suspended and no break has halted it (R392, R420). -/
def exRuns (s : State) : Bool := s.job.phase != 0 && !s.ex.halted
/-- It starts work too: no HOLD (R425). -/
def exStarts (s : State) : Bool := s.exRuns && !s.flag bHub Fld.FR_CTRL_HOLD

/-! ### Contributions (R404, R411) -/

/-- The parts of a bucket added left to right (R404), with the granules that failed. -/
def sumParts (s : State) (d : BucketD) (step : Nat) : List Half × List Nat :=
  let rs := (upFrom 0 12).filter fun r => d.mask.testBit r
  let at_ (r : Nat) : Nat := d.partBase + pi d step + r * d.partStride
  let bad := rs.flatMap fun r => s.badIn (at_ r) (4 * d.len)
  match rs.map fun r => s.f32s (at_ r) d.len with
  | [] => ([], bad)
  | x :: rest => ((rest.foldl (fun a v => (a.zip v).map fun p => fadd p.1 p.2) x).map canonF, bad)

/-- A post's wait is satisfied: at once, or by the release of its registered wait, which is taken. -/
def postReady (s : State) (step bucket : Nat) : Option State :=
  let b := s.exBuf step bucket
  if !b.posted || b.ready then none
  else if b.registered then s.takeRelease (postWaiter step bucket)
  else some s

/-- The contribution is formed with the carry-over and used (R404); a backup sends it to its member (R412). -/
def contribute (s : State) (step bucket : Nat) : State :=
  let d := s.bucketD bucket
  let (sum, bad) := s.sumParts d step
  let s := s.readBad bad exAgent 0 step
  let cc := s.devNat d.carryBase 4
  let carry := if cc = 0 then [] else s.f32s (d.carryBase + 64) d.len
  let vals := if cc = 0 then sum else (sum.zip carry).map fun p => fadd p.1 p.2
  let partsBad := ((upFrom 0 12).filter fun r => d.mask.testBit r).foldl (fun (a : List Bool) r =>
    (a.zip (s.f32s (d.partBase + pi d step + r * d.partStride) d.len)).map fun p => p.1 || !ffinite p.2) (List.replicate d.len false)
  let carryBad := carry.map fun v => !ffinite v
  let causes := ((upFrom 0 d.len).zip (vals.zip (partsBad.zip (carryBad ++ List.replicate d.len false)))).filterMap fun e =>
    if ffinite e.2.1 then none else some (e.1, if e.2.2.1 then 1 else if e.2.2.2 then 3 else 4)
  let s := s.putF32s (contribAt d step 0) vals
  let s := if cc = 0 then s else s.setDevNat d.carryBase 4 0
  let s := s.modBuf step bucket fun b => { b with ready := true, decision := 1, count := 1 + cc, causes := causes }
  if s.isBackup then
    s.foldS (upFrom 0 4) fun s q =>
      let r := d.quarter q
      s.sendBackup (s.getF (bRing 0) Fld.RL_BACKUP_BACKS) step bucket q 2
        ⟨(vals.drop r.1).take r.2, 1 + cc, ((vals.drop r.1).take r.2).any fun v => !ffinite v⟩
  else s.startQuarters step bucket

/-- A contribution ready after the decision (R411). -/
def lateContribution (s : State) (step bucket : Nat) : State :=
  let d := s.bucketD bucket
  let b := s.exBuf step bucket
  let s := s.modBuf step bucket fun b => { b with ready := true }
  let s := if s.inWindow step then s else { s with ex.bufs := s.ex.bufs.filter fun b => !(b.step == step && b.bucket == bucket) }
  if b.decision = 3 ∧ d.carry then
    let (sum, bad) := s.sumParts d step
    let s := s.readBad bad exAgent 0 step
    let n := s.devNat d.carryBase 4
    let old := s.f32s (d.carryBase + 64) d.len
    let new := if n = 0 then sum else (old.zip sum).map fun p => fadd p.1 p.2
    ((s.putF32s (d.carryBase + 64) new).setDevNat d.carryBase 4 (n + 1)).count bHub .FR_CARRIED
  else s.count bHub .FR_LATE_DROP

/-- The decision at the deadline (R410). -/
def decide_ (s : State) (step bucket : Nat) : State :=
  let d := s.bucketD bucket
  let b := s.exBuf step bucket
  let landed := s.myBackup.isSome && (upFrom 0 4).all fun q => Tbl.get (fun _ => 0) b.backup q == (d.quarter q).2
  if landed then
    let copy := (upFrom 0 4).flatMap fun q => s.f32s (stagingAt d (12 + q) q (d.quarter q).1) (d.quarter q).2
    let s := (s.putF32s (contribAt d step 0) copy).count bHub .FR_BACKUP_USED
    (s.modBuf step bucket fun b => { b with decision := 2, count := 1 }).startQuarters step bucket
  else
    ((s.count bHub .FR_DEADLINE_MISS).modBuf step bucket fun b => { b with decision := 3, count := 0 }).startQuarters step bucket

/-- A bucket of a step is complete (R408): its count and REDUCED. -/
def bucketDone (s : State) (step bucket : Nat) : State :=
  let d := s.bucketD bucket
  let b := s.exBuf step bucket
  let s := s.setDevNat (d.countAt + pi d step) 4 b.total
  let s := if b.nf then (s.count bHub .FR_NF_BUCKETS).setFlag bHub Fld.FR_STATUS_NF_SEEN true else s
  let s := s.modBuf step bucket fun b => { b with complete := true }
  match d.reduced with
  | some c => if counterOk c then s.signal exAgent 0 c else s
  | none => s

/-! ### Rounds (R415, R418) -/

def round (s : State) (isSeal : Bool) (step : Nat) : Round :=
  (s.ex.rounds.find? fun r => r.isSeal == isSeal && r.step == step).getD ⟨isSeal, step, 0, false, [], false, false⟩
def modRound (s : State) (isSeal : Bool) (step : Nat) (f : Round → Round) : State :=
  let r := f (s.round isSeal step)
  if s.ex.rounds.any fun r => r.isSeal == isSeal && r.step == step then
    { s with ex.rounds := s.ex.rounds.map fun x => if x.isSeal = isSeal ∧ x.step = step then r else x }
  else { s with ex.rounds := s.ex.rounds ++ [r] }

/-- A verdict (4) or seal (5) control packet (R442). -/
def roundPacket (s : State) (isSeal : Bool) (step level : Nat) (value : Bool) (origin hops kind dst : Nat) : Packet :=
  ⟨5, level, dst, s.selfModule, if isSeal then 5 else 4,
    leBytes 4 step ++ [BitVec.ofNat 8 level, if value && !isSeal then 1 else 0] ++ leBytes 2 origin ++ leBytes 4 hops ++ [BitVec.ofNat 8 kind]⟩

/-- A round value leaves for the successor of a level over die 0 (R415). -/
def roundSend (s : State) (isSeal : Bool) (step level : Nat) (value : Bool) (origin hops : Nat) : State :=
  s.sendOn 0 level 1 [s.roundPacket isSeal step level value origin hops 0 (s.getF (bRing level) Fld.RL_POS_SUCC)]

/-- The verdict reaches the module's engines, and its backup (R356, R415). REPORTED stands for the step of the engine's own report. -/
def verdictIn (s : State) (step : Nat) (nf : Bool) : State :=
  if s.ex.verdicts.any fun v => v.1 == step then s
  else
    let s := { s with ex.verdicts := s.ex.verdicts ++ [(step, nf)] }
    let s := s.foldS s.job.named fun s u =>
      let s := if s.getF (bUpd u) Fld.UPD_VERDICT_STEP = step then s else s.setFlag (bUpd u) Fld.UPD_VERDICT_REPORTED false
      (s.setF (bUpd u) Fld.UPD_VERDICT_STEP step).setF (bUpd u) Fld.UPD_VERDICT_CODE (if nf then 2 else 1)
    let s := if nf then s.count bHub .FR_VERDICT_NF else s
    match s.myBackup with
    | some m => s.sendOn 0 0 3 [s.roundPacket false step 0 nf s.selfModule 0 1 m]
    | none => s

/-- The step is job-sealed (R418): the seal counter, and what was kept for the step is released (R419), but for contributions that are
still late (R411). A member passes the seal to its backup (log entry 105). -/
def jobSeal (s : State) (step : Nat) : State :=
  let s := (s.setF bHub Fld.FR_SEAL_JOB step).count bHub .FR_JOB_SEALS
  let s := match s.job.sealCtr with
    | some c => s.signal exAgent 0 c
    | none => s
  let s := match s.myBackup with
    | some m => s.sendOn 0 0 3 [s.roundPacket true step 0 true s.selfModule 0 0 m]
    | none => s
  { s with
    ex.bufs := s.ex.bufs.filter fun b => b.step != step || ((b.decision == 2 || b.decision == 3) && b.posted && !b.ready)
    ex.rounds := s.ex.rounds.filter fun r => r.step != step
    ex.verdicts := s.ex.verdicts.filter fun v => v.1 != step
    ex.flags := s.ex.flags.filter fun v => v.1 != step }

/-- The step that was job-sealed last here (R418). -/
def sealedStep (s : State) (step : Nat) : Bool := step == s.getF bHub Fld.FR_SEAL_JOB

/-- The seal round of a step that is job-sealed here, which others have restarted (R421, R422): it ends with nothing repeated. -/
def sealAgain (s : State) (step : Nat) : State := { s with ex.rounds := s.ex.rounds.filter fun r => !(r.isSeal && r.step == step) }

/-- A started round goes on as far as the values received allow; the round ends after the last level. A backup's seal round ends with its
member's seal (log entry 105). -/
def roundOn (s : State) (isSeal : Bool) (step : Nat) : Nat → State
  | 0 => s
  | fuel + 1 =>
    let r := s.round isSeal step
    if !r.started || r.ended || (isSeal && s.isBackup && r.recv.isEmpty) then s
    else
      let n := s.ringSize r.level
      let vs := r.recv.filter fun v => v.1 == r.level
      if vs.length + 1 < n then s
      else
        let value := r.value || vs.any fun v => v.2.2
        let l := r.level + 1
        let s := s.modRound isSeal step fun r => { r with value := value, level := l, ended := decide (s.levels ≤ l) }
        if l < s.levels then
          let s := if s.ringSize l = 1 then s else (s.waitFrom 0 l).roundSend isSeal step l value s.selfModule 0
          s.roundOn isSeal step fuel
        else if isSeal then (if s.sealedStep step then s.sealAgain step else s.jobSeal step)
        else s.verdictIn step value

/-- A round starts here with this module's value. -/
def roundStart (s : State) (isSeal : Bool) (step : Nat) (value : Bool) : State :=
  let s := (s.waitFrom 0 0).modRound isSeal step fun r => { r with value := value, started := true, level := 0 }
  let s := if s.ringSize 0 = 1 then s else s.roundSend isSeal step 0 value s.selfModule 0
  s.roundOn isSeal step 4

/-- The module's local flag for a step, once it is known (R415). -/
def localFlag (s : State) (step : Nat) : Option Bool :=
  let reported := s.job.named.all fun u => (s.updEng u).reported && (s.updEng u).step == step
  let bufs := s.validBuckets.map fun i => s.exBuf step i
  let backup := s.myBackup.isNone || s.ex.flags.any fun v => v.1 == step
  if reported && bufs.all ExBuf.complete && backup then
    some (s.job.named.any (fun u => (s.updEng u).nf) || bufs.any ExBuf.nf
      || s.ex.flags.any fun v => v.1 == step && v.2)
  else none

/-! ### Ring breaks (R420) -/

/-- A ring break at a level. -/
def ringBreak (s : State) (d level side cause : Nat) : State :=
  let step := s.oldestStep
  let img := step + level * 2 ^ 32 + d * 2 ^ 34 + side * 2 ^ 36 + cause * 2 ^ 37 + 2 ^ 38
  let s := if s.flag bHub Fld.FR_BREAK_VALID then s else s.setReg bHub .FR_BREAK 0 (BitVec.ofNat 64 img)
  let s := (s.setFlag bHub Fld.FR_STATUS_BREAK true).irq (srcDie d 0)
  let s := s.report ⟨0x000B, s.time, step, udDie d, none, img⟩
  let k (dst : Nat) : Packet := ⟨5, level, dst, s.selfModule, 6,
    leBytes 4 step ++ [BitVec.ofNat 8 level, BitVec.ofNat 8 d, BitVec.ofNat 8 side, BitVec.ofNat 8 cause] ++ leBytes 2 s.selfModule⟩
  let s := s.sendOn d level 1 [k (s.getF (bRing level) Fld.RL_POS_SUCC)]
  let s := s.sendOn d level 2 [k (s.getF (bRing level) Fld.RL_POS_PRED)]
  { s with ex.halted := true }

/-- The link of a side at a level has lost its last up port (R420); an engine that is held sees it once it is ON again (R524). -/
def linkDown (s : State) (d level role : Nat) : State :=
  if s.job.phase ≠ 0 ∧ !s.dieHeld d ∧ level < s.levels ∧ 1 < s.ringSize level ∧ (s.linkPorts d level role).isEmpty then
    s.ringBreak d level (role - 1) 0
  else s

/-- The buckets of the steps in exchange go on as far as they can, in one quarter. -/
def resumeQuarter (s : State) (q : Nat) : State :=
  if s.exRuns then s.foldS (s.ex.bufs.filter fun b => s.inWindow b.step) fun s b => s.advance b.step b.bucket q 4 else s

/-- A die's ring engine goes on when its fabric is ON again (R524): links lost in the meantime break their rings, and what waited starts. -/
def resumeDie (s : State) (d : Nat) : State :=
  let s := s.foldS ((upFrom 0 s.levels).flatMap fun l => [(l, 1), (l, 2)]) fun s e => if s.ex.halted then s else s.linkDown d e.1 e.2
  s.resumeQuarter d

/-- A timer that began at t, as it stands at the end of a hold that began at h: the time of the hold does not count (R420). -/
def heldOver (s : State) (h t : Nat) : Nat := t + (s.time - max t h)

/-- HOLD set or cleared: deadlines and break timers pause, and starts it stopped are made when it clears (R420, R425). -/
def frHold (s : State) (on : Bool) : State :=
  let was := s.flag bHub Fld.FR_CTRL_HOLD
  let s := s.setFlag bHub Fld.FR_CTRL_HOLD on
  if on && !was then { s with ex.holdAt := some s.time }
  else if !on && was then
    let h := s.ex.holdAt.getD s.time
    let s : State := { s with
      ex.holdAt := none
      ex.bufs := s.ex.bufs.map fun b => { b with since := b.since.map (s.heldOver h) }
      ex.heard := Tbl.mapEntries (fun _ => 0) s.ex.heard fun _ t => s.heldOver h t }
    s.foldS (upFrom 0 4) resumeQuarter
  else s

def frClear (s : State) : State :=
  s.clearRegs bHub 0 [.FR_POSTS, .FR_POST_IGNORED, .FR_DEADLINE_MISS, .FR_BACKUP_USED, .FR_CARRIED, .FR_LATE_DROP, .FR_NF_BUCKETS,
    .FR_VERDICT_NF, .FR_JOB_SEALS, .FR_RERUNS]
def reClear (s : State) (d : Nat) : State :=
  s.clearRegs (bDie d) 0 [.RE_CHUNK_TX, .RE_CHUNK_RX, .RE_PARKED, .RE_ADD_ELEMS, .RE_CREDIT_WAIT, .RE_TX_BYTES, .RE_RX_BYTES]

/-! ### Posts (R403) -/

/-- A post taken from the exchange queue: ignored, or accepted with its wait presented. -/
def takePost (s : State) (q n : Nat) (b : List Byte) : State :=
  let i := dbits b 0 8
  let step := dStep b
  let s0 := s.oldestStep
  let wait := if dbits b 30 1 = 1 then some (dbits b 8 22, dbits b 32 32) else none
  let unordered := seqUnordered (BitVec.ofNat 32 s0) (BitVec.ofNat 32 step)
  let s := (s.descStart q n b).descDone q n
  if unordered || !(s.bucketD i).valid || (s.exBuf step i).posted || seqBefore (BitVec.ofNat 32 step) (BitVec.ofNat 32 s0)
      || !counterFieldOk (wait.map Prod.fst) then
    (s.count bHub .FR_POST_IGNORED).compared bankHub (BitVec.ofNat 32 s0) (BitVec.ofNat 32 step)
  else
    let s := (s.count bHub .FR_POSTS).workItem 12234
    let s := s.modBuf step i fun b => { b with posted := true, wait := wait }
    match wait with
    | none => s
    | some (c, v) => match s.syncWait (postWaiter step i) c v with
      | (some _, s) => s
      | (none, s) => s.modBuf step i fun b => { b with registered := true }

end State

/-! ### The rows -/

/-- BUCKET_POST (R403, R532): the post at the head of the exchange queue; one of a later step stays there. -/
def execBucketPost (s : State) : Host.Outcome State Fault Refusal :=
  .next (match s.job.exq with
    | none => s
    | some q => match s.startable q with
      | none => s
      | some (n, b) =>
        if !s.exStarts || (seqBefore (BitVec.ofNat 32 (State.nextStep s.oldestStep)) (BitVec.ofNat 32 (dStep b))
            && !seqUnordered (BitVec.ofNat 32 s.oldestStep) (BitVec.ofNat 32 (dStep b))) then s
        else s.opportunity 688 2 (s.takePost q n b))

/-- CONTRIBUTION_READY (R404). -/
def execContributionReady (step : BitVec 32) (bucket : Fin 256) (s : State) : Host.Outcome State Fault Refusal :=
  .next (if !s.exStarts || !s.inWindow step.toNat || (s.exBuf step.toNat bucket).decision != 0 then s
    else match s.postReady step.toNat bucket with
      | none => s
      | some t => if s.isBackup && (upFrom 0 4).any s.dieHeld then s else t.contribute step.toNat bucket)

/-- RS_PARTIAL_RECEIVE (R406, R409): the next bucket packet of a port; `waited` beats a later step's packet has waited. -/
def execRsPartialReceive (port : PortId) (waited : Nat) (s : State) : Host.Outcome State Fault Refusal :=
  .next (if !s.exRuns then s
    else match s.rxTake port 3 fun k => State.pkPhase k == 0 with
      | none => s
      | some (k, t) =>
        let (step, b, q, l) := (State.pkStep k, State.pkBucket k, State.pkQuarter k, State.pkLevel k)
        if !s.dieRuns q then s
        else if s.packetWaits step b then s.packetHeld port q step waited
        else if !t.inWindow step then t
        else match (t.heard q l).gatherPacket k with
          | (none, t) => t
          | (some c, t) =>
            let t := t.gotChunk k c
            if t.valueKnown step b q l then t.partialOn step b q l (State.pkChunk k) c
            else t.parkPartial step b q l (State.pkChunk k) c)

/-- PARTIAL_UNPARK (R409): a parked partial proceeds, in the order they were parked. -/
def execPartialUnpark (step : BitVec 32) (bucket : Fin 256) (index : Nat) (s : State) : Host.Outcome State Fault Refusal :=
  let b := s.exBuf step.toNat bucket
  .next (match b.park[index]? with
    | none => s
    | some k =>
      if !s.exStarts || !s.dieRuns k.quarter || !s.valueKnown step.toNat bucket k.quarter k.level then s
      else
        let d := s.bucketD bucket
        let r := chunkOf (s.levelRange d k.quarter k.level) (s.ringSize k.level) k.chunk
        let vals := s.f32s (State.stagingAt d (4 * k.level + k.quarter) k.quarter r.1) r.2
        let s := s.modBuf step.toNat bucket fun b => { b with park := b.park.eraseIdx index }
        s.partialOn step.toNat bucket k.quarter k.level k.chunk ⟨vals, k.count, k.nf⟩)

/-- AG_CHUNK_RECEIVE (R407). -/
def execAgChunkReceive (port : PortId) (waited : Nat) (s : State) : Host.Outcome State Fault Refusal :=
  .next (if !s.exRuns then s
    else match s.rxTake port 3 fun k => State.pkPhase k == 1 with
      | none => s
      | some (k, t) =>
        let (step, b, q, l, c) := (State.pkStep k, State.pkBucket k, State.pkQuarter k, State.pkLevel k, State.pkChunk k)
        if !s.dieRuns q then s
        else if s.packetWaits step b then s.packetHeld port q step waited
        else if !t.inWindow step then t
        else match (t.heard q l).gatherPacket k with
          | (none, t) => t
          | (some v, t) =>
            let t := t.gotChunk k v
            let n := t.ringSize l
            let r := t.pkRange k
            let bad := v.vals.any fun x => !ffinite x
            let t := if bad && !v.nf then t.nfFirst step b q l 5 (t.causeModule l 5) else t
            let v := { v with nf := v.nf || bad }
            let t := t.putF32s (State.resultAt (t.bucketD b) step r.1) v.vals
            let t := t.modBuf step b fun x => { x with final := Tbl.upd (fun _ => 0) x.final (q * 4 + l) (· + r.2) }
            let t := t.noteFinal step b q l v.count v.nf
            let t := if (t.ringPos l + n - c) % n + 1 < n then t.sendChunk step b q l 1 c v else t
            t.gatherOn step b q)

/-- BUCKET_COMPLETE (R408). -/
def execBucketComplete (step : BitVec 32) (bucket : Fin 256) (s : State) : Host.Outcome State Fault Refusal :=
  let b := s.exBuf step.toNat bucket
  let d := s.bucketD bucket
  .next (if s.exRuns && s.inWindow step.toNat && d.valid && !b.complete && (s.isBackup || b.decision != 0)
        && (upFrom 0 4).all (s.quarterDone b d) then s.bucketDone step.toNat bucket
    else s)

/-- BUCKET_DEADLINE (R410): a contribution that is ready by then is on time. -/
def execBucketDeadline (step : BitVec 32) (bucket : Fin 256) (s : State) : Host.Outcome State Fault Refusal :=
  let b := s.exBuf step.toNat bucket
  .next (match b.since with
    | none => s
    | some t =>
      if s.exStarts && b.decision == 0 && (s.postReady step.toNat bucket).isNone && decide (t + s.getF bHub Fld.FR_CTRL_DEADLINE_US * 1000 ≤ s.time) then
        s.decide_ step.toNat bucket
      else s)

/-- LATE_CONTRIBUTION (R411). -/
def execLateContribution (step : BitVec 32) (bucket : Fin 256) (s : State) : Host.Outcome State Fault Refusal :=
  let b := s.exBuf step.toNat bucket
  .next (if !s.exStarts || !(b.decision == 2 || b.decision == 3) then s
    else match s.postReady step.toNat bucket with
      | none => s
      | some s => s.lateContribution step.toNat bucket)

/-- BACKUP_COPY_RECEIVE (R412): elements of the backup's copy land, or are discarded after the decision. -/
def execBackupCopyReceive (port : PortId) (waited : Nat) (s : State) : Host.Outcome State Fault Refusal :=
  .next (if !s.exRuns then s
    else match s.rxTake port 3 fun k => State.pkPhase k == 2 with
      | none => s
      | some (k, t) =>
        let (step, b, q) := (State.pkStep k, State.pkBucket k, State.pkQuarter k)
        if !s.dieRuns q then s
        else if s.packetWaits step b then s.packetHeld port q step waited
        else if !t.inWindow step || (t.exBuf step b).decision != 0 then t
        else match t.gatherPacket k with
          | (none, t) => t
          | (some c, t) =>
            let d := t.bucketD b
            (t.putF32s (State.stagingAt d (12 + q) q (d.quarter q).1) c.vals).modBuf step b fun x => { x with
              backup := Tbl.put (fun _ => 0) x.backup q c.vals.length, backupNf := x.backupNf || c.nf })

/-- BACKUP_RESULT_RECEIVE (R412): a result quarter from the member. -/
def execBackupResultReceive (port : PortId) (waited : Nat) (s : State) : Host.Outcome State Fault Refusal :=
  .next (if !s.exRuns || !s.isBackup then s
    else match s.rxTake port 3 fun k => State.pkPhase k == 3 with
      | none => s
      | some (k, t) =>
        let (step, b, q) := (State.pkStep k, State.pkBucket k, State.pkQuarter k)
        if !s.dieRuns q then s
        else if s.packetWaits step b then s.packetHeld port q step waited
        else if !t.inWindow step then t
        else match t.gatherPacket k with
          | (none, t) => t
          | (some c, t) =>
            let d := t.bucketD b
            (t.putF32s (State.resultAt d step (d.quarter q).1) c.vals).modBuf step b fun x => { x with
              final := Tbl.put (fun _ => 0) x.final (q * 4) c.vals.length, total := c.count, nf := x.nf || c.nf })

/-- VERDICT_ROUND_START (R415): a backup's flag goes to its member. -/
def execVerdictRoundStart (step : BitVec 32) (s : State) : Host.Outcome State Fault Refusal :=
  .next (if !s.exRuns || s.dieHeld 0 || !s.inWindow step.toNat || (s.round false step.toNat).started || !s.undecided step.toNat then s
    else match s.localFlag step.toNat with
      | none => s
      | some v =>
        if s.isBackup then
          let m := s.getF (bRing 0) Fld.RL_BACKUP_BACKS
          (s.modRound false step.toNat fun r => { r with value := v, started := true, ended := true }).sendOn 0 0 3
            [s.roundPacket false step.toNat 0 v s.selfModule 0 0 m]
        else s.roundStart false step.toNat v)

namespace State

/-- A round value received: kept, forwarded until it has made n − 1 hops, the round goes on (R415, R418). -/
def roundReceive (s : State) (isSeal : Bool) (k : Packet) : State :=
  let n (lo c : Nat) : Nat := leNat ((k.payload.drop lo).take c)
  let (step, level, value, origin, hops) := (n 0 4, n 4 1, n 5 1 == 1, n 6 2, n 8 4 + 1)
  let s := (s.heard 0 level).modRound isSeal step fun r => { r with
    recv := (r.recv.filter fun v => !(v.1 == level && v.2.1 == origin)) ++ [(level, origin, value)] }
  let s := if hops + 1 < s.ringSize level then s.roundSend isSeal step level value origin hops else s
  s.roundOn isSeal step 4

/-- A final verdict that a predecessor sends a new member of its rings (R421): nothing of the step is exchanged again, so that its buckets
count as complete here. -/
def verdictMember (s : State) (step : Nat) (nf : Bool) : State :=
  let s := s.verdictIn step nf
  if s.isBackup then s
  else s.foldS s.validBuckets fun s i => s.modBuf step i fun b => { b with
    posted := true, ready := true, complete := true, decision := if b.decision = 0 then 1 else b.decision }

/-- A verdict or seal packet is acted on (R412, R415, R418): a round value, the backup's flag, or a final verdict. A round value of a module
that is in no ring of the level counts for nothing. A seal round that others have restarted for the step job-sealed last here finds this
module's seal again, and nothing is repeated (R421, R422). -/
def roundPacketIn (s : State) (k : Packet) : State :=
  let n (lo c : Nat) : Nat := leNat ((k.payload.drop lo).take c)
  let (step, level, origin) := (n 0 4, n 4 1, n 6 2)
  let known := s.isBackup || (s.job.rings.getD level []).any fun e => e.1 == origin
  if !s.inWindow step then
    (if k.bits 64 8 = 5 ∧ known ∧ !s.isBackup ∧ s.sealedStep step then
      (if (s.round true step).started then s else s.roundStart true step true).roundReceive true k
    else s)
  else if k.bits 64 8 = 5 then if known then s.roundReceive true k else s
  else if n 12 1 = 1 then (if s.undecided step then s.verdictMember step (n 5 1 == 1) else s)
  else if s.myBackup = some k.src ∧ origin = k.src then { s with ex.flags := s.ex.flags ++ [(step, n 5 1 == 1)] }
  else if known then s.roundReceive false k else s

/-- Such a packet leaves its port's buffer (R437): while a break has halted the exchange it is kept for the re-formed rings, and without a
job it is of none. -/
def roundTake (s : State) (k : Packet) : State :=
  if s.exRuns then s.roundPacketIn k
  else if s.job.phase = 0 then s
  else { s with ex.mail := s.ex.mail ++ [k.encode] }

end State

/-- VERDICT_RECEIVE (R412, R415). -/
def execVerdictReceive (port : PortId) (s : State) : Host.Outcome State Fault Refusal :=
  .next (if s.dieHeld 0 then s
    else match s.rxTake port 4 fun k => k.bits 64 8 == 4 with
      | none => s
      | some (k, t) => t.roundTake k)

/-- SEAL_RECEIVE (R418). -/
def execSealReceive (port : PortId) (s : State) : Host.Outcome State Fault Refusal :=
  .next (if s.dieHeld 0 then s
    else match s.rxTake port 4 fun k => k.bits 64 8 == 5 with
      | none => s
      | some (k, t) => t.roundTake k)

/-- RING_BREAK_TIMEOUT (R420): the engine of a die waits on its predecessor and has heard nothing from it for BREAK_MS. -/
def execRingBreakTimeout (die : DieId) (level : Fin 3) (s : State) : Host.Outcome State Fault Refusal :=
  .next (if s.exStarts && s.dieRuns die && decide (level.val < s.levels) && decide (1 < s.ringSize level)
      && decide (Tbl.get (fun _ => 0) s.ex.heard (die.val * 4 + level.val) + s.getF bHub Fld.FR_CTRL_BREAK_MS * 1000000 ≤ s.time)
      && s.engineWaits die level then s.ringBreak die level 1 1
    else s)

/-- BREAK_RECEIVE (R441): the notice is taken; R420 lets only an engine's own link or timer declare a break. -/
def execBreakReceive (port : PortId) (s : State) : Host.Outcome State Fault Refusal :=
  .next (match s.rxTake port 4 fun k => k.bits 64 8 == 6 with
    | none => s
    | some (_, t) => t)

/-- FR_HOLD (R420, R425). -/
def execFrHold (w : Writer) (hold : Bool) (s : State) : Host.Outcome State Fault Refusal :=
  .next (ifControl w s (s.frHold hold))

/-- FR_CNT_CLEAR (R425). -/
def execFrCntClear (w : Writer) (s : State) : Host.Outcome State Fault Refusal := .next (ifControl w s s.frClear)

/-- RE_CNT_CLEAR (R427). -/
def execReCntClear (die : DieId) (w : Writer) (s : State) : Host.Outcome State Fault Refusal :=
  .next (ifControl w s (s.ifReached (bDie die) (s.reClear die)))

end Sys2Proof.Machine
end

