-- ==== Sys2Proof/Machine/RotOps.lean ====
section
/-! DEFINITION. The root of trust's operations (R442, R558 to R565): measurements, the device's identity, the attestation report. -/

namespace Sys2Proof.Machine

/-- A byte list of exactly n bytes, filled with zeros. -/
def fit (n : Nat) (l : List Byte) : List Byte := l.take n ++ List.replicate (n - l.length) 0

/-- Bytes [lo, lo + n) of a byte list; zeros beyond its end. -/
def cut (l : List Byte) (lo n : Nat) : List Byte := fit n ((l.drop lo).take n)

/-- A SHAKE256 digest as bytes. -/
def digest (n : Nat) (l : List Byte) : List Byte := leBytes n (Config.shake256 n l)

/-- An ML-DSA-65 signature of 3,309 bytes by a key of the device: 0 the device key, 1 the meter's. -/
def signature (key : Nat) (l : List Byte) : List Byte := fit 3309 (Config.mlDsaSign key l)

/-- The device's public key (1,952 bytes), its certificate (3,309 bytes), its identifier (R562). -/
def devicePub : List Byte := fit 1952 (Config.deviceKey 0)
def deviceCert : List Byte := fit 3309 (Config.deviceKey 1)
def deviceId : List Byte := digest 32 devicePub

/-- Fields of an image (R558). -/
def imgKind (b : List Byte) : Nat := leNat (cut b 0 4)
def imgVersion (b : List Byte) : Nat := leNat (cut b 4 4)
def imgRollback (b : List Byte) : Nat := leNat (cut b 8 4)
def imgSlot (b : List Byte) : Nat := leNat (cut b 12 4)
def imgLength (b : List Byte) : Nat := leNat (cut b 16 8)
def imgDigest (b : List Byte) : List Byte := cut b 24 64

namespace State

/-- The running firmware's version (R470, R563). -/
def fwVersion (s : State) : Nat := imgVersion s.rot.running
/-- Words of a measurement register (R561). -/
def measure (s : State) (k : Nat) : List Byte := (upFrom 0 8).flatMap fun w => leBytes 8 (s.reg (bFn 6) .RT_MEAS (8 * k + w)).toNat
/-- A measurement register set. -/
def setMeasure (s : State) (k : Nat) (b : List Byte) : State :=
  s.foldS (upFrom 0 8) fun s w => s.setReg (bFn 6) .RT_MEAS (8 * k + w) (BitVec.ofNat 64 (leNat (cut b (8 * w) 8)))
/-- A measurement register extended with an item (R561). -/
def extend (s : State) (k : Nat) (d : List Byte) : State := s.setMeasure k (digest 64 (s.measure k ++ d))

/-- Bit k: key slot k is enrolled. -/
def keyBits (s : State) : Nat :=
  ((upFrom 0 4).filter fun k => (Tbl.find? s.rot.keys k).isSome).foldl (fun n k => n + 2 ^ k) 0

/-- The attestation report of R563: body and signature. -/
def attestation (s : State) (nonce : List Byte) : List Byte :=
  let b := bFn 6
  let body := fit 640 (leBytes 2 1 ++ [0, 0] ++ fit 32 nonce ++ deviceId ++ leBytes 4 s.fwVersion
    ++ leBytes 1 (s.getF b Fld.BOOT_STATUS_FW_RB) ++ leBytes 1 (s.getF b Fld.BOOT_STATUS_EXT_RB) ++ leBytes 1 s.keyBits
    ++ leBytes 1 (s.getF b Fld.BOOT_STATUS_LAST_RESET) ++ [0, 0, 0, 0] ++ leBytes 8 s.time
    ++ (upFrom 0 8).flatMap s.measure)
  body ++ signature 0 body

/-- An image's checks (R559): signature, digest, rollback level. -/
def imageOk (s : State) (img : List Byte) (kind : Nat) : Bool :=
  let n := imgLength img
  let key := if kind = 0 then Config.deviceKey 3 else (Tbl.find? s.rot.keys (imgSlot img)).getD []
  let counter := s.getF (bFn 6) (if kind = 0 then Fld.BOOT_STATUS_FW_RB else Fld.BOOT_STATUS_EXT_RB)
  imgKind img == kind && (kind == 0 || (Tbl.find? s.rot.keys (imgSlot img)).isSome) && img.length == 256 + n + 3309
    && Config.mlDsaVerify key (img.take (256 + n)) (img.drop (256 + n))
    && imgDigest img == digest 64 (cut img 256 n) && decide (counter ≤ imgRollback img)

end State

end Sys2Proof.Machine
end

