-- ==== Sys2Proof/Machine/Link.lean ====
section
/-! DEFINITION. Lightway ports (R429 to R437): light, training, wavelengths, going up and down, frames and retry. -/

namespace Sys2Proof.Machine

/-- CRC-32 of IEEE 802.3 over bytes (R434). -/
def crc32 (bs : List Byte) : Nat :=
  (bs.foldl (fun c b => (upFrom 0 8).foldl (fun c _ => if c % 2 = 1 then (c / 2) ^^^ 0xEDB88320 else c / 2) (c ^^^ b.toNat))
    0xFFFFFFFF) ^^^ 0xFFFFFFFF

/-- How many of the low n bits are set. -/
def bitCount (n v : Nat) : Nat := ((upFrom 0 n).filter v.testBit).length

/-- The trailer of a frame with its CRC (R434). -/
def trailerOf (flit : List Byte) (low : Nat) : Nat := low + crc32 (flit ++ leBytes 12 low) * 2 ^ 96

/-- Credits of a port whose peer's buffers are empty, by class × 2 + half (R436). -/
def fullCredits : Tbl Nat :=
  (upFrom 0 5).flatMap fun c => (c * 2, classFlits c) :: if hasHalves c then [(c * 2 + 1, classFlits c)] else []

/-- The payload of an IDENT challenge and response (R442). -/
def identHead (s : State) (form : Nat) : List Byte := deviceId ++ leBytes 4 s.fwVersion ++ [BitVec.ofNat 8 form, 0, 0, 0]
def identChallenge (s : State) (nonce : List Byte) : List Byte := identHead s 0 ++ fit 32 nonce
def identResponse (s : State) (nonce : List Byte) : List Byte :=
  identHead s 1 ++ List.replicate 32 0 ++ s.attestation nonce ++ devicePub ++ deviceCert

/-- The four checks of an IDENT response (R442). -/
def identOk (nonce b : List Byte) : Bool :=
  let report := cut b 72 3949
  let pub := cut b 4021 1952
  Config.mlDsaVerify (Config.deviceKey 2) pub (cut b 5973 3309) && cut b 0 32 == digest 32 pub
    && Config.mlDsaVerify pub (cut report 0 640) (cut report 640 3309) && cut report 4 32 == nonce

namespace State

def lwWaves (s : State) (p : Nat) : Nat := s.getF (bDie (p / 8)) Fld.LW_STATUS_WL_ACTIVE (p % 8)
def setLw (s : State) (p : Nat) (f : Fld) (v : Nat) : State := s.setF (bDie (p / 8)) f v (p % 8)
def lwIrq (s : State) (p : Nat) : State := s.irq (srcDie (p / 8) (1 + p % 8))
def lwCause (s : State) (p : Nat) : Nat := s.getF (bDie (p / 8)) Fld.LW_STATUS_QCAUSE (p % 8)

/-- LW_DISC.STAGE reaches at least a code (R461). -/
def discStage (s : State) (n : Nat) : State :=
  if s.getF bHub Fld.LW_DISC_STAGE < n then s.setF bHub Fld.LW_DISC_STAGE n else s

def lwLevel (s : State) (l : Nat) : LwLevel := Tbl.get (fun _ => LwLevel.reset) s.lw.levels l
def modLwLevel (s : State) (l : Nat) (f : LwLevel → LwLevel) : State :=
  { s with lw.levels := Tbl.upd (fun _ => LwLevel.reset) s.lw.levels l f }

/-- The upstream port of R450: none at a root. -/
def upstream (s : State) : Option Nat :=
  match s.lw.map with
  | none => none
  | some m =>
    match [2, 1, 0].find? fun l => (s.lwLevel l).valid && position m m.module l != position m m.gm l with
    | none => none
    | some l => (s.upPorts l 2).head?

/-- LW_TIME follows the upstream port; without one the module is not locked (R450, R451). -/
def retime (s : State) : State :=
  match s.upstream with
  | some u => s.setF bHub Fld.LW_TIME_UPSTREAM u
  | none => ((s.setF bHub Fld.LW_TIME_UPSTREAM 0).setFlag bHub Fld.LW_TIME_LOCKED false).setF bHub Fld.LW_TIME_HOPS 0

/-- A control packet leaves by a port (R441, R442). -/
def sendControl (s : State) (p sub : Nat) (payload : List Byte) : State :=
  let peer := s.getF (bDie (p / 8)) Fld.LW_PEER_MODULE (p % 8)
  s.portSend p 0 ⟨5, s.getF (bDie (p / 8)) Fld.LW_STATUS_LEVEL (p % 8), peer, s.selfModule, sub, payload⟩

/-- MAP_ID: this module's identifier, its port, the port entry's role and level (R442, R454). -/
def sendMapId (s : State) (p : Nat) : State :=
  match s.lw.map with
  | none => s
  | some m => s.sendControl p 2
    (leBytes 2 m.module ++ [BitVec.ofNat 8 p, BitVec.ofNat 8 (mapRole m p), BitVec.ofNat 8 (mapLevel m p)])

/-- A packet that waits to be sent is a discovery packet. -/
def discoveryTx (k : TxPkt) : Bool := k.cls == 4 && (Packet.decode k.bytes).discovery

/-- What a port holds once it is quarantined (R431, R435): the link stays trained. From the up states its unacknowledged flits and the
packets other than discovery packets are discarded, and its numbering and credits go back to before them (log entry 107). -/
def quarantined (q : LwPort) (was : Bool) : LwPort :=
  let q := { q with matched := false, stamps := none }
  if !was then q
  else { q with
    tx := (q.tx.filter discoveryTx).map fun k => { k with sent := 0 }
    part := q.part.filter fun e => e.1 == 4 && (Packet.decode e.2).discovery
    txSeq := (q.replay.head?.map fun f => f.seq).getD q.txSeq
    credits := q.replay.foldl (fun t f => Tbl.upd (fun _ => 0) t (2 * f.cls + f.half) (· + 1)) q.credits
    replay := [], resend := [], nakIn := false }

/-- The packets a port loses as it goes down: those whose last flit is not acknowledged, and those not sent whole (R435). -/
def lostPackets (q : LwPort) (was trained : Bool) : Nat :=
  if trained && !was then 0
  else (q.replay.filter fun f => f.last).length + (q.tx.filter fun k => !(trained && discoveryTx k)).length

/-- A port stops carrying traffic (R431, R435): its flits and packets are lost and counted, DOWN_SEEN is set where it was up, its
peer is forgotten, a ring side that loses its last port breaks (R420). `trained` keeps the link itself, for a quarantine. -/
def portDown (s : State) (p state cause : Nat) (trained : Bool) : State :=
  let b := bDie (p / 8)
  let was := s.lwUp p
  let q := s.port p
  let lost := lostPackets q was trained
  let side := if was then s.lw.map.map fun m => (mapLevel m p, mapRole m p) else none
  let s := if lost = 0 then s else s.lwCount p .LW_DROPPED lost
  let s := s.modPort p fun q =>
    if trained then quarantined q was
    else { LwPort.reset with dark := q.dark, rxq := q.rxq.map fun k => { k with half := k.half % 2 + 2 } }
  let s := (s.setLw p Fld.LW_STATUS_STATE state).setLw p Fld.LW_STATUS_QCAUSE cause
  let s := if trained then s else s.setLw p Fld.LW_STATUS_WL_ACTIVE 0
  let s := s.setReg b .LW_PEER (p % 8) 0
  let s := if was then (s.setFlag b Fld.LW_STATUS_DOWN_SEEN true (p % 8)).lwIrq p else s
  let s := match side with
    | some (l, r) => if r = 1 ∨ r = 2 then s.linkDown (p / 8) l r else s
    | none => s
  s.retime

/-- A port goes up once both ends have verified each other's reports (R453); a module with a map names itself. -/
def tryUp (s : State) (p : Nat) : State :=
  let b := bDie (p / 8)
  if (s.lwState p = 3 ∨ (s.lwState p = 6 ∧ s.lwCause p = 1)) ∧ s.flag b Fld.LW_PEER_ATTESTED (p % 8) ∧ (s.port p).answered ∧ (s.port p).verified then
    let s := (s.setLw p Fld.LW_STATUS_STATE (if bitCount 9 (s.lwWaves p) = 8 then 4 else 5)).setLw p Fld.LW_STATUS_QCAUSE 0
    (((s.discStage 2).lwIrq p).sendMapId p).retime
  else s

end State

/-! ### Light, training, wavelengths -/

/-- LW_PORT_LIGHT_LOSS (R429). -/
def execLwPortLightLoss (port : PortId) (s : State) : Host.Outcome State Fault Refusal :=
  .next ((s.portDown port 0 0 false).modPort port fun q => { q with dark := true })

/-- LASER_LIGHT_RETURN (R429): an enabled port searches. -/
def execLaserLightReturn (port : PortId) (s : State) : Host.Outcome State Fault Refusal :=
  .next (if (s.port port).dark then
      let s := s.modPort port fun q => { q with dark := false }
      if s.lwReady port then s.setLw port Fld.LW_STATUS_STATE 1 else s
    else s)

/-- LW_SEARCH_LISTEN (R432): whether the peer's patterns are heard. -/
def execLwSearchListen (port : PortId) (heard : Bool) (s : State) : Host.Outcome State Fault Refusal :=
  .next (if heard && s.lwState port == 1 && s.lwReady port then s.setLw port Fld.LW_STATUS_STATE 2 else s)

/-- The spare wavelength of a port is brought in, under a repair record (R433, R571). -/
def State.spareWave (s : State) (p : Nat) : State := s.repairRecord (udDie (p / 8)) 0 0 0

/-- LW_TRAINING_DONE (R432, R453): `good` are the wavelengths that passed, bit 8 the spare; `nonce` the fresh challenge. -/
def execLwTrainingDone (port : PortId) (good : BitVec 9) (nonce : BitVec 256) (s : State) : Host.Outcome State Fault Refusal :=
  let g := good.toNat
  let main := g % 256
  .next (if s.lwState port ≠ 2 ∨ ¬ s.lwReady port then s
    else if bitCount 9 g < 4 then s.setLw port Fld.LW_STATUS_STATE 1
    else
      let use_ := if main = 255 then main else g
      let s := (s.setLw port Fld.LW_STATUS_STATE 3).setLw port Fld.LW_STATUS_WL_ACTIVE use_
      let n := leBytes 32 nonce.toNat
      let s := s.modPort port fun q => { q with
        txSeq := 0, rxSeq := 0, credits := fullCredits, owed := [], nonce := n, answered := false, verified := false, spareOk := good.getLsbD 8 }
      ((if use_.testBit 8 then s.spareWave port else s).discStage 1).sendControl port 1 (identChallenge s n))

/-- LW_WAVELENGTH_FAIL (R433): the spare is requested, or the wavelength is dropped, or the port goes down. -/
def execLwWavelengthFail (port : PortId) (w : Fin 9) (s : State) : Host.Outcome State Fault Refusal :=
  let act := s.lwWaves port
  let q := s.port port
  .next (if !s.lwUp port || !act.testBit w || q.failed == some w.val then s
    else if s.flag (bDie (port / 8)) Fld.LW_CTRL_SPARE_AUTO (port % 8) && q.spareOk && !act.testBit 8 && q.failed.isNone then
      s.modPort port fun q => { q with failed := some w.val }
    else
      let act := setBits act w 1 0
      let s := if w.val = 8 then s.modPort port fun q => { q with spareOk := false } else s
      let s := s.setLw port Fld.LW_STATUS_WL_ACTIVE act
      if bitCount 9 act < 4 then s.portDown port 1 0 false else s.setLw port Fld.LW_STATUS_STATE 5)

/-- LW_SPARE_SWITCH (R433, R571). -/
def execLwSpareSwitch (port : PortId) (s : State) : Host.Outcome State Fault Refusal :=
  .next (match (s.port port).failed with
    | none => s
    | some w =>
      let s := s.modPort port fun q => { q with failed := none }
      ((s.setLw port Fld.LW_STATUS_WL_ACTIVE (setBits (setBits (s.lwWaves port) w 1 0) 8 1 1)).lwCount port .LW_SPARE_SWITCH).spareWave port)

/-- LW_PORT_DOWN (R431, R435): the link is lost and the port searches again. -/
def execLwPortDown (port : PortId) (s : State) : Host.Outcome State Fault Refusal :=
  .next (if s.lwTalks port || s.lwState port == 2 then s.portDown port 1 0 false else s)

/-! ### Frames and retry -/

namespace State

/-- A frame leaves a port (R434): it acknowledges, asks for a replay, returns credit from the first class and half in turn that
owes some. -/
def frameOut (s : State) (p : Nat) (flit : List Byte) (seq cls half : Nat) (first : Bool) (credit : Nat) : State :=
  let q := s.port p
  let key := ((upFrom 0 10).map fun i => (credit + i) % 10).find? fun k => Tbl.get (fun _ => 0) q.owed k != 0
  let n := match key with
    | none => 0
    | some k => min 16383 (Tbl.get (fun _ => 0) q.owed k)
  let low := seq % 2 ^ 32 + (q.rxSeq + (2 ^ 32 - 1)) % 2 ^ 32 * 2 ^ 32 + (if q.nak then 2 ^ 64 else 0) + cls * 2 ^ 65
    + (if first then 2 ^ 68 else 0) + half * 2 ^ 69
    + (match key with | none => 15 * 2 ^ 70 | some k => k / 2 * 2 ^ 70 + n * 2 ^ 74 + k % 2 * 2 ^ 88)
  s.modPort p fun q => { q with
    out := some ⟨flit, trailerOf flit low⟩
    nak := false
    owed := match key with
      | none => q.owed
      | some k => Tbl.upd (fun _ => 0) q.owed k (· - n) }

/-- The head packet of a class a port may send now: in the up states of every class, else a discovery packet (R431). -/
def txHead (s : State) (p cls : Nat) : Option TxPkt :=
  (s.port p).tx.find? fun k => k.cls == cls && (s.lwUp p || discoveryTx k)

def creditOf (q : LwPort) (k : TxPkt) : Nat := Tbl.get (fun _ => 0) q.credits (2 * k.cls + k.half)

/-- The next flit of a packet leaves (R435, R437). -/
def sendFlit (s : State) (p : Nat) (k : TxPkt) (credit : Nat) : State :=
  let q := s.port p
  let last := decide (256 * (k.sent + 1) ≥ k.bytes.length)
  let f : Flit := ⟨q.txSeq, k.cls, k.half, k.sent == 0, last, cut k.bytes (256 * k.sent) 256, 0⟩
  let s := s.modPort p fun q => { q with
    tx := if last then q.tx.erase k else q.tx.map fun j => if j == k then { k with sent := k.sent + 1 } else j
    replay := q.replay ++ [f]
    txSeq := (q.txSeq + 1) % 2 ^ 32
    progress := if q.replay.isEmpty then s.time else q.progress
    credits := Tbl.upd (fun _ => 0) q.credits (2 * k.cls + k.half) (· - 1) }
  ((s.lwCount p .LW_TX_FLITS).workItem (bankPort p)).frameOut p f.bytes f.seq f.cls f.half f.first credit

end State

/-- LW_FRAME_SEND (R434, R435, R437): a replay, else a data flit of the first class in turn that has one and credit, else an idle
frame. Which class, and which credit is returned first, is the environment's (log entry 5). -/
def execLwFrameSend (port : PortId) (turn : Fin 5) (credit : Fin 10) (s : State) : Host.Outcome State Fault Refusal :=
  let q := s.port port
  .next (if !s.lwTalks port || q.failed.isSome then s
    else match q.resend with
      | f :: r =>
        let s := s.modPort port fun q => { q with
          resend := r
          replay := q.replay.map fun g => if g.seq = f.seq then { g with times := g.times + 1 } else g }
        (s.lwCount port .LW_REPLAYS).frameOut port f.bytes f.seq f.cls f.half f.first credit
      | [] =>
        let heads := ((upFrom 0 5).map fun i => (turn.val + i) % 5).filterMap fun c => s.txHead port c
        let s := if heads.any fun k => State.creditOf q k == 0 then s.lwCount port .LW_CREDIT_WAIT else s
        match if q.replay.length < 8192 then heads.find? fun k => State.creditOf q k != 0 else none with
        | some k => s.sendFlit port k credit
        | none => s.frameOut port (List.replicate 256 0) q.txSeq 5 0 false credit)

namespace State

/-- Acknowledged flits leave the replay buffer (R28, R434, R435). -/
def takeAck (s : State) (p ack : Nat) (nak : Bool) : State :=
  let q := s.port p
  let rest := q.replay.filter fun f => seqBefore (BitVec.ofNat 32 ack) (BitVec.ofNat 32 f.seq)
  let s := s.foldS q.replay fun s f => s.compared (bankPort p) (BitVec.ofNat 32 f.seq) (BitVec.ofNat 32 ack)
  s.modPort p fun q => { q with
    replay := rest
    resend := q.resend.filter rest.contains
    nakIn := q.nakIn || nak
    progress := if rest.length = q.replay.length then q.progress else s.time }

/-- A port takes a flit of a class (R431, R454): flits of discovery packets wherever it talks, the others in the up states; on a module with
a map, a port without a role takes only what names its ends. A flit that is not its packet's first follows what the port has taken of it. -/
def carries (s : State) (p cls : Nat) (first : Bool) (flit : List Byte) : Bool :=
  let used := match s.lw.map with
    | none => true
    | some m => mapRole m p != 0
  let k := Packet.decode (if first then flit else Tbl.get (fun _ => []) (s.port p).part cls)
  (s.lwUp p && used) || (cls == 4 && (if used || !s.lwUp p then k.discovery else k.naming))

/-- A data flit in order joins its packet; a whole packet is received (R435, R438). -/
def takeFlit (s : State) (p cls half : Nat) (first : Bool) (flit : List Byte) : State :=
  let s := (s.lwCount p .LW_RX_FLITS).modPort p fun q => { q with rxSeq := (q.rxSeq + 1) % 2 ^ 32 }
  let bytes := (if first then [] else Tbl.get (fun _ => []) (s.port p).part cls) ++ flit
  let done := decide (256 * (leNat (cut bytes 0 2) / 16 % 128 + 1) ≤ bytes.length)
  s.modPort p fun q => { q with
    part := Tbl.put (fun _ => []) q.part cls (if done then [] else bytes)
    rxq := if done then q.rxq ++ [⟨cls, half, bytes, false⟩] else q.rxq }

end State

/-- LW_FRAME_RECEIVE (R430, R434, R435): `corrected` symbols and `lost` codewords of the frame's code are the environment's; a frame that a
lost codeword carried fails its CRC. A flit that the port does not carry is not accepted (log entry 109). -/
def execLwFrameReceive (port : PortId) (flit : List Byte) (trailer : BitVec 128) (corrected lost : Nat) (s : State) :
    Host.Outcome State Fault Refusal :=
  let t := trailer.toNat
  let cls := bitsOf t 65 3
  .next (if !s.lwTalks port then s
    else
      let s := if corrected = 0 then s else s.lwCount port .LW_FEC_CORR corrected
      let s := if lost = 0 then s else s.lwCount port .LW_FEC_UNCORR lost
      let flit := fit 256 flit
      if lost ≠ 0 ∨ trailerOf flit (t % 2 ^ 96) ≠ t then
        let s := s.lwCount port .LW_CRC_ERR
        if cls ≤ 4 then s.modPort port fun q => { q with nak := true } else s
      else
        let s := s.takeAck port (bitsOf t 32 32) (t.testBit 64)
        let s := if 5 ≤ bitsOf t 70 4 then s
          else s.modPort port fun q => { q with
            credits := Tbl.upd (fun _ => 0) q.credits (2 * bitsOf t 70 4 + bitsOf t 88 1) (· + bitsOf t 74 14) }
        if 5 ≤ cls then s
        else if bitsOf t 0 32 = (s.port port).rxSeq ∧ s.carries port cls (t.testBit 68) flit then s.takeFlit port cls (bitsOf t 69 1) (t.testBit 68) flit
        else s.modPort port fun q => { q with nak := true })

/-- LW_REPLAY (R435): go back to ACK + 1. -/
def execLwReplay (port : PortId) (s : State) : Host.Outcome State Fault Refusal :=
  .next (if (s.port port).nakIn then s.modPort port fun q => { q with nakIn := false, resend := q.replay } else s)

/-- LW_RETRY_TIMEOUT (R435). -/
def execLwRetryTimeout (port : PortId) (s : State) : Host.Outcome State Fault Refusal :=
  let q := s.port port
  .next (if s.lwTalks port && !q.replay.isEmpty && (q.replay.any (fun f => decide (16 ≤ f.times)) || decide (q.progress + 100000 ≤ s.time))
    then s.portDown port 1 0 false else s)

/-! ### Control writes -/

namespace State

/-- EN: 0 turns a port OFF, 1 lets it search where it has light (R431). -/
def lwEnable (s : State) (p : Nat) (on : Bool) : State :=
  let s := s.setFlag (bDie (p / 8)) Fld.LW_CTRL_EN on (p % 8)
  if !on then s.portDown p 0 0 false
  else if s.lwState p = 0 ∧ s.lwReady p then s.setLw p Fld.LW_STATUS_STATE 1
  else s

/-- RETRAIN takes an up port to SEARCH (R432). -/
def lwRetrain (s : State) (p : Nat) : State := if s.lwUp p then s.portDown p 1 0 false else s

def lwClear (s : State) (p : Nat) : State :=
  s.clearRegs (bDie (p / 8)) (p % 8) [.LW_TX_FLITS, .LW_RX_FLITS, .LW_CRC_ERR, .LW_REPLAYS, .LW_FEC_CORR, .LW_FEC_UNCORR,
    .LW_CREDIT_WAIT, .LW_SPARE_SWITCH, .LW_DROPPED]

end State

/-- LW_EN_WRITE (R459). -/
def execLwEnWrite (port : PortId) (w : Writer) (on : Bool) (s : State) : Host.Outcome State Fault Refusal :=
  .next (ifControl w s (s.lwEnable port on))

/-- LW_RETRAIN (R432). -/
def execLwRetrain (port : PortId) (w : Writer) (s : State) : Host.Outcome State Fault Refusal :=
  .next (ifControl w s (s.lwRetrain port))

/-- LW_CNT_CLEAR (R459). -/
def execLwCntClear (port : PortId) (w : Writer) (s : State) : Host.Outcome State Fault Refusal :=
  .next (ifControl w s (s.lwClear port))

end Sys2Proof.Machine
end

