-- ==== Sys2Proof/Machine/Fabric.lean ====
section
/-! DEFINITION. The Lightway fabric (R438 to R457): packets and remote writes, discovery, topology maps, ring formation, timing. -/

namespace Sys2Proof.Machine

/-! ### Packets (R439, R443, R447) -/

namespace State

/-- A write packet at its target (R439, R443): its bytes land and are tallied, or wait as a message at the embedding owner they name; an
unmapped target drops it. -/
def landWrite (s : State) (p : Nat) (k : Packet) : State :=
  let a := k.bits 128 52
  let n := k.bits 96 32
  if k.bits 180 2 = 1 then
    if bitsOf a 0 4 < 12 then s.modEmb (bitsOf a 0 4) fun g => { g with inbox := g.inbox ++ [(k.src, k.payload.take n)] }
    else s.lwCount p .LW_DROPPED
  else if !s.mapped a n then s.lwCount p .LW_DROPPED
  else (s.setDevBytes a (k.payload.take n)).landed k.src k.level (k.bits 64 32) n

/-- The packet's type or control subtype is reserved, or is no packet's (R443). -/
def reservedPacket (k : Packet) : Bool :=
  decide (6 ≤ k.typ) || (k.typ == 5 && (k.bits 64 8 == 0 || decide (6 < k.bits 64 8)))

/-- What a write packet is for is on an island that is ON, so that it need not wait (R521, R524): the owner logic of a region, or memory. -/
def targetRuns (s : State) (k : Packet) : Bool :=
  let a := k.bits 128 52
  if k.bits 180 2 = 1 then decide (12 ≤ bitsOf a 0 4) || s.runs (672 + bitsOf a 0 4) else s.memRuns a (k.bits 96 32)

/-- Whether the packet at the head of a class is dealt with here: dropped, forwarded, or a write or signal that need not wait for the
landing table or for held signals (R437). -/
def packetGoes (s : State) (k : Packet) : Bool :=
  reservedPacket k
    || (decide (k.typ ≤ 3) && (k.dst != s.selfModule || s.lw.map.isNone))
    || (k.typ == 0 && s.targetRuns k && (k.bits 180 2 == 1 || s.landingRoom (landingKey k.src k.level (k.bits 64 32))))
    || (k.typ == 3 && (k.bits 96 32 == 0 || decide (k.bits 96 32 ≤ s.tally (landingKey k.src k.level (k.bits 64 32)))
        || decide (s.sync.held.length < 256)))

end State

/-- LW_PACKET_RECEIVE (R437, R439, R443, R447): the oldest packet of a class. Bucket and control packets, read requests and read
responses of this module have rows of their own. -/
def execLwPacketReceive (port : PortId) (cls : Fin 5) (s : State) : Host.Outcome State Fault Refusal :=
  let half := (((s.port port).rxq.find? fun k => k.cls == cls.val).map fun k => k.half % 2).getD 0
  .next (match s.rxTake port cls s.packetGoes with
    | none => s
    | some (k, t) =>
      if State.reservedPacket k then t.lwCount port .LW_DROPPED
      else if k.dst ≠ t.selfModule ∨ t.lw.map.isNone then
        t.routePacket k (some (half, t.getF (bDie (port / 8)) Fld.LW_STATUS_LEVEL (port % 8), port))
      else if k.typ = 0 then t.landWrite port k
      else if counterOk (k.bits 182 22) then t.remoteSignal k.src k.level (k.bits 64 32) (k.bits 182 22) (k.bits 96 32)
      else t.lwCount port .LW_DROPPED)

/-- LW_READ_REQUEST (R439): memory is read and the response leaves; an unmapped range carries no data. -/
def execLwReadRequest (port : PortId) (s : State) : Host.Outcome State Fault Refusal :=
  .next (match s.rxTake port 0 fun k => k.typ == 1 && k.dst == s.selfModule && s.lw.map.isSome && s.memRuns (k.bits 128 52) (k.bits 96 32) with
    | none => s
    | some (k, t) =>
      let a := k.bits 128 52
      let n := k.bits 96 32
      let answer (s : State) (status : Nat) (data : List Byte) : State :=
        s.routePacket ⟨2, k.level, k.src, s.selfModule, k.bits 64 32 + data.length * 2 ^ 32 + status * 2 ^ 116, data⟩ none
      if t.mapped a n then
        let bad := t.badIn a n
        answer (t.readBad bad (agentRemote k.level k.src) (k.bits 64 32) 0) (if bad.isEmpty then 0 else 2) (t.devBytes a n)
      else answer t 1 [])

/-- LW_READ_RESPONSE (R439): data and status reach the control complex. -/
def execLwReadResponse (port : PortId) (s : State) : Host.Outcome State Fault Refusal :=
  .next (match s.rxTake port 1 fun k => k.typ == 2 && k.dst == s.selfModule && s.lw.map.isSome with
    | none => s
    | some (k, t) => { t with lw.reads := t.lw.reads ++ [(k.bits 64 32, k.bits 180 2, k.payload.take (k.bits 96 32))] })

/-! ### Remote writes (R448, R449) -/

namespace State

def lwAgent (d : Nat) : Nat := agentEngine 1 1 d

/-- A remote-write descriptor completes: DONE, and its error report where it failed (R332, R448, R449). -/
def rwFinish (s : State) (d q n : Nat) (b : List Byte) (status : Nat) : State :=
  let s := match counterField b 238 216 with
    | some c => if counterOk c then s.signal (lwAgent d) n c else s
    | none => s
  let s := if status = 0 then s
    else s.report ⟨0x0007, s.time, dStep b, udDie d, some (q, n), status + n % 2 ^ 32 * 2 ^ 8 + 2 ^ 40⟩
  s.descDone q n

/-- Check 1 of R331 on a remote-write descriptor of die d (R448); no byte is addressed where LEN is 0. -/
def rwOk (s : State) (d : Nat) (b : List Byte) : Bool :=
  let n := dbits b 192 24
  counterFieldOk (counterField b 238 216) &&
    (n == 0 || match rwRun d b with
      | some (t, r) => decide (t < (d + 1) * 2688) && decide (dbits b 0 52 + r.n ≤ 0x40000)
      | none => s.inTiers (dbits b 0 52) n)

/-- The bytes a remote-write descriptor sends. -/
def rwBytes (s : State) (d : Nat) (b : List Byte) : List Byte :=
  match rwRun d b with
  | some (t, r) => s.scratchBytes t r.base r.n
  | none => s.devBytes (dbits b 0 52) (dbits b 192 24)

/-- The reads of a remote write that fail their check are recorded (R332, R578): whether there are any. -/
def rwBad (s : State) (d n : Nat) (b : List Byte) : Bool × State :=
  match rwRun d b with
  | some (t, r) =>
    let ws := s.badWords t r.meets
    (!ws.isEmpty, s.readBadWords t ws (lwAgent d) n (dStep b))
  | none =>
    let gs := s.badIn (dbits b 0 52) (dbits b 192 24)
    (!gs.isEmpty, s.readBad gs (lwAgent d) n (dStep b))

/-- The packets of a remote write: up to 16,384 bytes each (R448). -/
def rwSend (s : State) (q n : Nat) (b : List Byte) (data : List Byte) : State :=
  let m := (data.length + 16383) / 16384
  s.foldS ((chunks 16384 m data).zip (upFrom 0 m)) fun s e =>
    s.routePacket ⟨0, dbits b 144 2, dbits b 128 16, s.selfModule,
      dbits b 160 32 + e.1.length * 2 ^ 32 + (dbits b 64 52 + 16384 * e.2) % 2 ^ 52 * 2 ^ 64, e.1⟩ none (some (q, n))

/-- The transmit queue of a die (R448). -/
def lwQueue (s : State) (d : Nat) : Option Nat := s.job.lwq[d]?

end State

/-- REMOTE_WRITE_DESCRIPTOR (R448): the descriptor starts, is checked, and its packets join their ports' lists once its scratch banks
serve the engine, or while the stacks it reads are ON (R524); `waitOwn` and `waitPort` are the beats waited. One that fails its checks, or of no bytes, completes at once. -/
def execRemoteWriteDescriptor (die : DieId) (waitOwn waitPort : Nat) (s : State) : Host.Outcome State Fault Refusal :=
  .next (match s.lwQueue die with
    | none => s
    | some q => match s.startable q with
      | none => s
      | some (n, b) =>
        if !s.rwOk die b then (s.descStart q n b).rwFinish die q n b 3
        else if dbits b 192 24 = 0 then (s.descStart q n b).rwFinish die q n b 0
        else
          let run := rwRun die b
          let serves := match run with
            | some (t, r) => r.banks.all fun k => s.bankServes t k 3 0 (.desc q n)
            | none => s.memRuns (dbits b 0 52) (dbits b 192 24)
          if !serves then s
          else
            let s := s.descStart q n b
            let data := s.rwBytes die b
            let s := match run with
              | some (t, _) => s.bankWaits t 3 waitOwn waitPort none
              | none => s
            let (bad, s) := s.rwBad die n b
            let s := s.rwSend q n b data
            if !bad then s
            else s.report ⟨0x0007, s.time, dStep b, udDie die, some (q, n), 2 + n % 2 ^ 32 * 2 ^ 8 + 2 ^ 40⟩)

/-- REMOTE_WRITE_DONE (R449): no port has yet to accept a packet of the descriptor. -/
def execRemoteWriteDone (die : DieId) (seq : BitVec 32) (s : State) : Host.Outcome State Fault Refusal :=
  .next (match s.lwQueue die with
    | none => s
    | some q => match (s.queue q).running.find? fun e => e.1 == seq.toNat with
      | none => s
      | some (n, b) =>
        if (upFrom 0 32).any fun p => (s.port p).tx.any fun k => k.desc == some (q, n) then s
        else s.rwFinish die q n b 0)

/-! ### Topology maps (R445, R446, R454, R457) -/

/-- The topology map's bytes (R446). -/
def mapBytes : Nat := 524608

/-- A topology map read from its bytes. -/
def mapOf (b : List Byte) : LwMap :=
  { module := leNat (cut b 2 2)
    levels := leNat (cut b 4 1)
    gm := leNat (cut b 6 2)
    n := (upFrom 0 3).map fun l => leNat (cut b (8 + 4 * l) 4)
    ports := (upFrom 0 32).map fun j => leNat (cut b (0x40 + 8 * j) 8)
    pos := (upFrom 0 65536).filterMap fun k =>
      let e := leNat (cut b (0x140 + 8 * k) 8)
      if e.testBit 49 then some (k, e) else none }

/-- A map that MAP_LOAD accepts (R446). -/
def mapOk (b : List Byte) : Bool :=
  let m := mapOf b
  let n (l : Nat) : Nat := m.n.getD l 1
  let inPod (k : Nat) : Bool := (Tbl.find? m.pos k).isSome
  let members := m.pos.filter fun e => e.2.testBit 48
  leNat (cut b 0 2) == 1 && decide (1 ≤ m.levels ∧ m.levels ≤ 3)
    && ((upFrom 0 3).all fun l => decide (1 ≤ n l ∧ n l ≤ 65536) && (decide (l < m.levels) || n l == 1))
    && decide (n 0 * n 1 * n 2 ≤ 65536)
    && inPod m.module && inPod m.gm && State.isMember m m.gm
    && (members.all fun e => (upFrom 0 3).all fun l => decide (bitsOf e.2 (16 * l) 16 < n l))
    && decide (List.Nodup (members.map fun (e : Nat × Nat) => (e.2 % 2 ^ 48 : Nat)))
    && ((upFrom 0 32).all fun j =>
      decide (State.mapLevel m j < m.levels) && (State.mapRole m j != 3 || State.mapLevel m j == 0) && inPod (State.mapPeer m j))

namespace State

/-- A member is ready at a level (R455). -/
def levelReady (s : State) (l : Nat) : Bool :=
  s.lw.checked && decide (l < (s.lw.map.map LwMap.levels).getD 0) && (l == 0 || (s.lwLevel (l - 1)).valid)
    && (upFrom 0 4).all fun d => !(s.diePorts d l 1).isEmpty && !(s.diePorts d l 2).isEmpty

/-- When a level became ready here is noted. -/
def noteReady (s : State) : State :=
  s.foldS (upFrom 0 3) fun s l =>
    if s.levelReady l && (s.lwLevel l).readyAt.isNone then s.modLwLevel l fun v => { v with readyAt := some s.time } else s

/-- A MAP_ID names what a port entry expects: module, port and level, and the facing role (R454). -/
def idMatches (m : LwMap) (p : Nat) (e : Nat × Nat × Nat × Nat) : Bool :=
  let r := mapRole m p
  e == (mapPeer m p, mapPeerPort m p, if r = 3 then 3 else 3 - r, mapLevel m p)

/-- A MAP_ID is compared with the port entry (R454): the port takes its role, stays idle, or is quarantined. -/
def compareMapId (s : State) (p : Nat) : State :=
  match s.lw.map, (s.port p).peerId with
  | some m, some e =>
    if mapRole m p = 0 then s
    else if idMatches m p e then
      (s.modPort p fun q => { q with matched := true }).retime.noteReady
    else
      let s := (s.count bHub .LW_MAP_MISMATCH).setFlag bHub Fld.LW_DISC_MAP_ERR true
      s.portDown p 6 2 true
  | _, _ => s

/-- A map takes force (R445, R457, R461): identifiers and roles are set, every level descriptor becomes invalid, checks and formation
begin again. On a reload the MAP_ID that an up port's peer sent last is compared again: one that does not match waits for the peer's next
(log entry 111). -/
def installMap (s : State) (m : LwMap) : State :=
  let again := s.lw.map.isSome
  let s := { s with lw.map := some m, lw.levels := [], lw.mapAt := s.time, lw.checked := false }
  let s := (s.setF bHub Fld.LW_ID_MODULE m.module).setFlag bHub Fld.LW_ID_VALID true
  let s := (s.setF bHub Fld.LW_DISC_STAGE 2).setF bHub Fld.LW_DISC_FORMED 0
  let s := s.setFlag bHub Fld.LW_TIME_GM (m.module == m.gm)
  let s := s.foldS (upFrom 0 4) fun s l => s.setReg (bRing l) .UD 0 (BitVec.ofNat 64 (7 + m.module * 8 + l * 2 ^ 19 + 2 ^ 56))
  let s := s.foldS (upFrom 0 32) fun s p =>
    let s := (s.setLw p Fld.LW_STATUS_ROLE (mapRole m p)).setLw p Fld.LW_STATUS_LEVEL (mapLevel m p)
    s.modPort p fun q => { q with matched := false }
  let s := s.foldS ((upFrom 0 32).filter s.lwUp) fun s p =>
    let s := s.sendMapId p
    if again && !(((s.port p).peerId.map (idMatches m p)).getD false) then s else s.compareMapId p
  s.retime

/-- A discovery result is reported (R454, R455). -/
def discReport (s : State) (missing : Nat) : State :=
  (s.irq 3215).event 0x000C udHub ((s.reg bHub .LW_DISC).toNat % 2 ^ 32 + missing * 2 ^ 64)

end State

/-! ### Identity (R442, R453) -/

/-- An IDENT packet at its end (R442, R453): a challenge is answered; a response verifies, or quarantines the port. -/
def State.identTaken (s : State) (p : Nat) (k : Packet) : State :=
  if leNat (cut k.payload 36 1) = 0 then
    let n := cut k.payload 40 32
    let s := s.modPort p fun q => { q with peerNonce := n, answered := true }
    s.sendControl p 1 (identResponse s n)
  else if identOk (s.port p).nonce k.payload then s.setFlag (bDie (p / 8)) Fld.LW_PEER_ATTESTED true (p % 8)
  else
    let s := (s.count bHub .LW_ATTEST_FAIL).setFlag (bDie (p / 8)) Fld.LW_PEER_ATTESTED false (p % 8)
    if s.lwState p = 6 then s else (s.portDown p 6 1 true).lwIrq p

/-- IDENT_RECEIVE (R453): the oldest IDENT packet is taken; the port goes up once both ends have verified, of which the environment tells
the peer's part (log entry 112). -/
def execIdentReceive (step : IdentStep) (s : State) : Host.Outcome State Fault Refusal :=
  let p := step.port
  .next (if !s.lwTalks p then s
    else
      let s := if step.peerOk && (s.port p).answered then s.modPort p fun q => { q with verified := true } else s
      let s := match s.rxTake p 4 fun k => k.bits 64 8 == 1 with
        | none => s
        | some (k, t) => t.identTaken p k
      let t := s.tryUp p
      if !s.lwUp p && t.lwUp p then t.compareMapId p else t)

/-- ATTEST_RETRY (R453): a port quarantined for attestation reports again, with a fresh challenge. -/
def execAttestRetry (port : PortId) (nonce : BitVec 256) (s : State) : Host.Outcome State Fault Refusal :=
  .next (if s.lwState port = 6 ∧ s.lwCause port = 1 then
      let n := leBytes 32 nonce.toNat
      let s := s.modPort port fun q => { q with nonce := n }
      (s.sendControl port 1 (identResponse s (s.port port).peerNonce)).sendControl port 1 (identChallenge s n)
    else s)

/-! ### The map check (R454) -/

/-- MAP_ID_RECEIVE (R454, R460): kept until a map is loaded and the port is up, then compared. -/
def execMapIdReceive (port : PortId) (s : State) : Host.Outcome State Fault Refusal :=
  .next (if !s.lwTalks port then s
    else match s.rxTake port 4 fun k => k.bits 64 8 == 2 with
      | none => s
      | some (k, t) =>
        let b := bDie (port / 8)
        let n (lo c : Nat) : Nat := leNat (cut k.payload lo c)
        let t := (t.setF b Fld.LW_PEER_MODULE (n 0 2) (port % 8)).setF b Fld.LW_PEER_PORT (n 2 1) (port % 8)
        let t := t.setFlag b Fld.LW_PEER_VALID true (port % 8)
        let t := t.modPort port fun q => { q with peerId := some (n 0 2, n 2 1, n 3 1 % 4, n 4 1) }
        if t.lwUp port then t.compareMapId port else t)

/-- MAP_CHECK_END (R454): every mapped port has matched, or 10 s have passed since the map was loaded;
mapped ports that are not up then are missing. -/
def execMapCheckEnd (s : State) : Host.Outcome State Fault Refusal :=
  .next (match s.lw.map with
    | none => s
    | some m =>
      let mapped := (upFrom 0 32).filter fun p => State.mapRole m p != 0
      let missing := mapped.filter fun p => !s.lwUp p
      let all := mapped.all fun p => s.lwUp p && (s.port p).matched
      if s.lw.checked || !(all || decide (s.lw.mapAt + 10000000000 ≤ s.time)) then s
      else
        let s := ({ s with lw.checked := true }).discStage 3
        let s := if missing.isEmpty then s else s.setFlag bHub Fld.LW_DISC_MAP_ERR true
        (s.discReport (missing.foldl (fun n p => n + 2 ^ p) 0)).noteReady)

/-! ### Ring formation (R455) -/

namespace State

/-- A token leaves over die 0 for the successor (R438, R442, R455). -/
def sendToken (s : State) (pass level origin attempt hops : Nat) : State :=
  (s.discStage 4).sendOn 0 level 1 [⟨5, level, (s.lw.map.map fun m => mapPeer m ((s.diePorts 0 level 1).headD 0)).getD 0, s.selfModule, 3,
    [BitVec.ofNat 8 pass, BitVec.ofNat 8 level] ++ leBytes 2 origin ++ leBytes 4 attempt ++ leBytes 4 hops⟩]

/-- A level has formed here: its descriptor is valid (R15, R455), and the upstream port follows (R450). LOGICAL has 16 bits: a ring of
65,536 members reads 0 (log entry 93). -/
def formLevel (s : State) (m : LwMap) (l : Nat) : State :=
  let s := s.modLwLevel l fun v => { v with valid := true, held := none }
  let s := s.setReg (bRing l) .UD 0
    (BitVec.ofNat 64 (7 + m.module * 8 + l * 2 ^ 19 + m.n.getD l 1 % 2 ^ 16 * 2 ^ 32 + 2 ^ 56))
  let s := s.setF bHub Fld.LW_DISC_FORMED (setBits (s.getF bHub Fld.LW_DISC_FORMED) l 1 1)
  let s := if (upFrom 0 m.levels).all fun k => (s.lwLevel k).valid then s.discStage 5 else s
  s.retime.noteReady

/-- A check token goes on at a member that is ready: its count and its port are checked (R455). -/
def passToken (s : State) (m : LwMap) (l : Nat) : State :=
  match (s.lwLevel l).held with
  | none => s
  | some (attempt, hops, port, origin) =>
    if !s.levelReady l then s
    else
      let s := s.modLwLevel l fun v => { v with held := none }
      if hops = position m m.module l ∧ port < 8 ∧ (s.diePorts 0 l 2).contains port then
        let s := s.modLwLevel l fun v => { v with attempt := attempt }
        s.sendToken 1 l origin attempt (hops + 1)
      else s.discReport 0

/-- A level goes through formation: a map names it, it has not formed and has not failed. -/
def forming (s : State) (l : Nat) : Bool :=
  decide (l < (s.lw.map.map LwMap.levels).getD 0) && !(s.lwLevel l).valid && !(s.lwLevel l).failed

end State

/-- TOKEN_SEND (R455): position 0 sends its first attempt, or the validate token once the check token has returned; another member
sends on the token it held until it was ready. -/
def execTokenSend (level : Fin 3) (s : State) : Host.Outcome State Fault Refusal :=
  let l := level.val
  .next (match s.lw.map with
    | none => s
    | some m =>
      if !s.forming l then s
      else if State.position m m.module l ≠ 0 then s.passToken m l
      else
        let v := s.lwLevel l
        match v.held with
        | some (a, _) => (s.modLwLevel l fun v => { v with held := none, passed := true }).sendToken 2 l m.module a 1
        | none =>
          if v.sentAt.isNone && s.levelReady l then
            (s.modLwLevel l fun v => { v with attempt := 1, sentAt := some s.time }).sendToken 1 l m.module 1 1
          else s)

/-- TOKEN_RECEIVE (R455). -/
def execTokenReceive (port : PortId) (s : State) : Host.Outcome State Fault Refusal :=
  .next (match s.rxTake port 4 fun k => k.bits 64 8 == 3 with
    | none => s
    | some (k, t) =>
      let n (lo c : Nat) : Nat := leNat (cut k.payload lo c)
      let (pass, l, origin, attempt, hops) := (n 0 1, n 1 1, n 2 2, n 4 4, n 8 4)
      match t.lw.map with
      | none => t
      | some m =>
        if !t.forming l then t
        else
          let v := t.lwLevel l
          if State.position m m.module l = 0 then
            if pass = 1 then
              if attempt = v.attempt ∧ v.sentAt.isSome then
                if hops = m.n.getD l 1 then t.modLwLevel l fun v => { v with held := some (attempt, hops, port.val, origin) } else t.discReport 0
              else t
            else t.formLevel m l
          else if pass = 1 then
            if attempt < v.attempt then t
            else (t.modLwLevel l fun v => { v with held := some (attempt, hops, port.val, origin) }).passToken m l
          else (t.formLevel m l).sendToken 2 l origin attempt (hops + 1))

/-- TOKEN_RETRY (R455): the check pass has not returned within 1 s. -/
def execTokenRetry (level : Fin 3) (s : State) : Host.Outcome State Fault Refusal :=
  let l := level.val
  .next (match s.lw.map, (s.lwLevel l).sentAt with
    | some m, some at_ =>
      let v := s.lwLevel l
      if s.forming l && State.position m m.module l == 0 && v.held.isNone && !v.passed && decide (at_ + 1000000000 ≤ s.time) then
        let s := s.modLwLevel l fun v => { v with attempt := v.attempt + 1, sentAt := some s.time }
        (s.count bHub .LW_TOKEN_RETRY).sendToken 1 l m.module (v.attempt + 1) 1
      else s
    | _, _ => s)

/-- RING_FORM_TIMEOUT (R455): 10 s after the members were ready, this one among them. -/
def execRingFormTimeout (level : Fin 3) (s : State) : Host.Outcome State Fault Refusal :=
  let l := level.val
  .next (match (s.lwLevel l).readyAt with
    | none => s
    | some at_ =>
      if s.forming l && decide (at_ + 10000000000 ≤ s.time) then
        ((s.modLwLevel l fun v => { v with failed := true, held := none }).setFlag bHub Fld.LW_DISC_RING_ERR true).discReport 0
      else s)

/-! ### Timing (R450 to R452) -/

namespace State

/-- Device time in 1/16 ns, modulo 2^64. -/
def stamp (s : State) (frac : Nat) : Nat := (s.time * 16 + frac) % 2 ^ 64

/-- This module is a root of its timing path: the grandmaster, or one whose position equals the grandmaster's at every formed level
(R450). -/
def isRoot (s : State) : Bool := match s.lw.map with
  | none => false
  | some m => (upFrom 0 3).all fun l => !(s.lwLevel l).valid || position m m.module l == position m m.gm l

/-- The port of an upstream link (R451): this module's own upstream port, or the lowest-numbered port toward the successor at the level
at which the successor takes its time (log entry 110). -/
def upstreamLink (s : State) (m : LwMap) (p : Nat) : Bool :=
  s.upstream == some p
    || (mapRole m p == 1
      && ([2, 1, 0].find? fun l => (s.lwLevel l).valid && position m (mapPeer m p) l != position m m.gm l) == some (mapLevel m p)
      && !((s.upPorts (mapLevel m p) 1).any fun j => decide (mapPeerPort m j < mapPeerPort m p)))
def locked (s : State) : Bool := s.flag bHub Fld.LW_TIME_LOCKED

/-- The device time counter is moved by whole nanoseconds. -/
def stepTime (s : State) (d : Int) : State := { s with time := (s.time + d).toNat % 2 ^ 64 }

/-- A measured offset in 1/16 ns, module minus upstream: the first is stepped away, later ones slewed (R451). -/
def applyOffset (s : State) (off : Int) : State :=
  let s := s.setF bHub Fld.LW_TIME_OFFSET (ofSigned 32 off)
  let s := s.setFlag bHub Fld.LW_TIME_LOCKED (decide (off.natAbs < 160))
  if s.lw.stepped then { s with lw.slew := -(off / 16) }
  else ({ s with lw.stepped := true, lw.slew := 0 }).stepTime (-(off / 16))

/-- One nanosecond of the module's own oscillator (R26): device time counts it, slewed by at most one in 10,000 (R451, R517). -/
def tick (s : State) : State :=
  let s := { s with lw.ticks := s.lw.ticks + 1 }
  if s.lw.ticks % 10000 = 0 ∧ s.lw.slew ≠ 0 then
    if 0 < s.lw.slew then { s with time := s.time + 2, lw.slew := s.lw.slew - 1 } else { s with lw.slew := s.lw.slew + 1 }
  else { s with time := s.time + 1 }

end State

/-- TIMING_FRAME_SEND (R433, R451, R452): on an upstream link, toward either end; `frac` is the sixteenth of the departure. -/
def execTimingFrameSend (port : PortId) (frac : Fin 16) (s : State) : Host.Outcome State Fault Refusal :=
  let q := s.port port
  .next (match s.lw.map with
    | none => s
    | some m =>
      if !s.lwUp port || !q.matched || q.failed.isSome || !s.upstreamLink m port then s
      else
        let (t3, t4) := q.stamps.getD (0, 0)
        let root := s.isRoot
        let flags := (if q.stamps.isSome then 1 else 0) + (if s.locked || root then 2 else 0) + (if m.module = m.gm then 4 else 0)
        let hops := if root then 0 else if s.locked then s.getF bHub Fld.LW_TIME_HOPS else 255
        let flit := fit 256 (leBytes 8 (s.stamp frac) ++ leBytes 8 t3 ++ leBytes 8 t4
          ++ [BitVec.ofNat 8 flags, BitVec.ofNat 8 hops] ++ leBytes 2 m.gm)
        s.frameOut port flit q.txSeq 6 0 false 0)

/-- TIMING_FRAME_RECEIVE (R451, R452): the frame's values and the sixteenth of its arrival. -/
def execTimingFrameReceive (port : PortId) (t1 t3 t4 : BitVec 64) (flags hops : BitVec 8) (frac : Fin 16) (s : State) :
    Host.Outcome State Fault Refusal :=
  .next (if !s.lwUp port || !(s.port port).matched then s
    else
      let t2 := s.stamp frac
      let s := s.modPort port fun q => { q with stamps := some (t1.toNat, t2) }
      if s.upstream = some port.val ∧ flags.getLsbD 0 then
        let off := toSigned 64 (t2 + 2 ^ 64 - t1.toNat) - toSigned 64 (t4.toNat + 2 ^ 64 - t3.toNat)
        (s.setF bHub Fld.LW_TIME_HOPS (min 255 (hops.toNat + 1))).applyOffset (off / 2)
      else s)

end Sys2Proof.Machine
end

