-- ==== Sys2Proof/Machine/Reset.lean ====
section
/-! DEFINITION. What job close and the resets share (R18 to R20, R230, R259, R289, R332, R360, R390 to R392, R568): stopping
descriptors, clearing units, counters and registers, spares and absent children. -/

namespace Sys2Proof.Machine

namespace State

/-! ### Stopping descriptors (R391) -/

/-- A stopped descriptor is reported in event 0x000D alone. -/
def stopEvent (s : State) (unit step level : Nat) (queue : Option (Nat × Nat)) : State :=
  s.report ⟨0x000D, s.time, step, unit, queue, level⟩

/-- A sampler stops (R230): headers read ABORTED. -/
def stopSampler (s : State) (n level : Nat) : State :=
  let s := s.foldS (s.sampler n).active fun s k =>
    let s := s.setDevBytes (smpTrace k.desc) [6]
    let s := s.setReg (bCluster n) .SMP_ERR 0 (BitVec.ofNat 64 (6 + k.tile % 16 * 2 ^ 8 + k.seq % 2 ^ 32 * 2 ^ 12))
    s.stopEvent (udCluster n) (dStep k.desc) level (some (tileQueue k.tile 0, k.seq))
  s.modSmp n fun _ => Sampler.reset

/-- A gather/scatter engine stops (R259): window and hot sums are discarded; adds that it has sent complete. -/
def stopGather (s : State) (n level : Nat) : State :=
  let s := (s.finishAdds n).foldS (s.gather n).active fun s k =>
    let img := 5 + k.tile % 16 * 2 ^ 8 + k.seq % 2 ^ 32 * 2 ^ 12 + if k.d.scatter then 2 ^ 44 else 0
    (s.setReg (bCluster n) .GS_ERR 0 (BitVec.ofNat 64 img)).stopEvent (udCluster n) k.d.step level (some (gsQueue k, k.seq))
  s.modGs n fun g => { Gather.reset with thresh := g.thresh, log := g.log }

/-- An owner logic stops (R289). -/
def stopEmb (s : State) (r level : Nat) : State :=
  let s := s.foldS (s.embReg r).active fun s k =>
    let img := 5 + k.tile % 896 * 2 ^ 8 + k.seq % 2 ^ 32 * 2 ^ 18 + if k.d.backward then 2 ^ 50 else 0
    (s.setReg (bRegion r) .EMB_ERR 0 (BitVec.ofNat 64 img)).stopEvent (udRegion r) k.d.step level (some (embQueue k, k.seq))
  s.modEmb r fun g => { g with active := [], begun := [], inbox := [], fetches := [], owed := [] }

/-- A DMA engine stops (R332): its FIFO is emptied. -/
def stopDma (s : State) (e level : Nat) : State :=
  let r := e / 4
  let s := s.foldS (s.dmaEng e).active fun s j =>
    let img := 6 + j.seq % 2 ^ 32 * 2 ^ 8 + if j.queue.isSome then 2 ^ 40 else 0
    (s.setReg (bDma e) .DMA_ERR 0 (BitVec.ofNat 64 img)).stopEvent (udRegion r) j.d.step level (j.queue.map fun q => (q, j.seq))
  s.modDma e fun g => { g with fifo := [], active := [] }

/-- An update engine's descriptor stops (R360). -/
def updAbort (s : State) (u level : Nat) (k : UpdDesc) : State :=
  let s := s.setReg (bUpd u) .UPD_ERR 0 (BitVec.ofNat 64 (5 + k.seq % 2 ^ 32 * 2 ^ 8))
  s.stopEvent (udUpd u) (dStep k.bytes) level ((s.updQueue u).map fun q => (q, k.seq))

/-- An update engine stops (R360). -/
def stopUpd (s : State) (u level : Nat) : State :=
  let s := s.foldS (s.updEng u).batch fun s k => s.updAbort u level k
  (s.modUpd u fun g => { g with batch := [], nf := false, reported := false, applying := false }).orphanWaits (· == .engine (updAgent u % 2 ^ 28))

/-- Descriptors of queues that no engine above tells of: launches and remote writes. -/
def stopOthers (s : State) (c : Scope) (level : Nat) : State :=
  s.foldS (s.queues.filter fun e => c.queue e.1 e.2 && (e.2.kind == 3 || e.2.kind == 7)) fun s e =>
    s.foldS e.2.running fun s d =>
      s.stopEvent (if e.2.kind = 3 then udTile (queueTile e.1) else udDie (e.1 / 65536)) (dStep d.2) level (some (e.1, d.1))

/-- Every engine of a scope stops. -/
def stopEngines (s : State) (c : Scope) (level : Nat) : State :=
  let s := s.foldS ((upFrom 0 672).filter c.cluster) fun s n => (s.stopSampler n level).stopGather n level
  let s := s.foldS ((upFrom 0 12).filter c.region) fun s r => s.stopEmb r level
  let s := s.foldS ((upFrom 0 48).filter fun e => c.region (e / 4)) fun s e => s.stopDma e level
  let s := s.foldS ((upFrom 0 18).filter c.upd) fun s u => s.stopUpd u level
  s.stopOthers c level

/-! ### Queues and tiles -/

/-- A queue emptied (R481): CONS is set to PROD, and nothing of it is in progress. -/
def emptied (v : QueueCtx) : QueueCtx :=
  { v with
    cons := v.prod, writing := [], taken := [], running := [], inIsland := false, marked := false
    segs := [((v.segs.getLastD (0, 7, 0)).1, (v.segs.getLastD (0, 7, 0)).2.1, 0)] }

/-- A mapping over the queue contexts of a scope. -/
def mapQueues (s : State) (c : Scope) (f : Nat → QueueCtx → QueueCtx) : State :=
  { s with queues := Tbl.mapEntries QueueCtx.reset s.queues fun q v => if c.queue q v then f q v else v }

/-- The sparsity codes of the planes that a tile's arrays hold, two bits an array (R190, R192). -/
def planeSparse (s : State) (t plane : Nat) : Nat :=
  (upFrom 0 4).foldl (fun n a => setBits n (2 * a) 2 (s.plane (4 * t + a) plane).sparsity) 0

/-- The tiles of a scope: every context FREE, outstanding instructions and cached lines gone; scratch, accumulator memory and vector
registers zero; banks with their reset owners (R170, R171, R182, R568). Planes and what is recorded of them stay, and which context issued
last, which no rule has job close forget. -/
def clearTiles (s : State) (c : Scope) : State :=
  let keep (k n : Nat) : Bool := !c.tile (k / n)
  { s with
    tile.tiles := Tbl.mapEntries (fun _ => Tile.reset) s.tile.tiles fun t v =>
      if c.tile t then
        { Tile.reset with
          nextId := v.nextId, last := v.last, lastAny := v.lastAny, turn := v.turn, reelOn := v.reelOn, sparseA := s.planeSparse t 0, sparseB := s.planeSparse t 1 }
      else v
    tile.threads := Tbl.mapEntries (fun _ => Thread.reset) s.tile.threads fun k h => if keep k 128 then h else h.freed
    tile.vreg := s.tile.vreg.filter fun e => keep e.1 1024
    tile.acc := s.tile.acc.filter fun e => keep e.1 49152
    tile.tags := s.tile.tags.filter fun e => keep e.1 49152
    tile.rows := s.tile.rows.filter fun e => keep e.1 1536
    tile.drains := s.tile.drains.filter fun e => keep e.1 4
    tile.planes := Tbl.mapEntries (fun _ => Plane.reset) s.tile.planes fun k p => if c.tile (k / 8) then { p with loading := false } else p
    mem.scratch := s.mem.scratch.filter fun e => keep e.1 (2 ^ 18)
    mem.badScratch := s.mem.badScratch.filter fun w => keep w (2 ^ 15)
    mem.badWords := s.mem.badWords.filter fun e => !((e.1 == 1 && c.tile (e.2 / 24576)) || (e.1 == 2 && c.tile (e.2 / 512)))
    regs := s.regs.filter fun e => !(keyReg e.1 == .BANK_OWN && c.block (keyBlk e.1)) }

/-- Nobody takes what the waits of a scope's threads are released with any more (R377; log entry 48). -/
def orphanThreads (s : State) (c : Scope) : State :=
  s.orphanWaits fun w => match w with
    | .thread t _ _ => c.tile t
    | _ => false

/-- Contexts of a scope at their reset values: the tiles were reset, are other tiles, or lost their supply (R568). -/
def resetContexts (s : State) (c : Scope) : State :=
  { s with
    tile.threads := s.tile.threads.filter fun e => !c.tile (e.1 / 128)
    tile.xreg := s.tile.xreg.filter fun e => !c.tile (e.1 / 4096) }

/-- Weight planes of a scope invalid, with what is held of them; nothing of an array's status stays. -/
def losePlanes (s : State) (c : Scope) : State :=
  { s with
    tile.planes := s.tile.planes.filter fun e => !c.tile (e.1 / 8)
    tile.pieces := s.tile.pieces.filter fun e => !c.tile (e.1 / 4)
    regs := s.regs.filter fun e => !(keyReg e.1 == .ARR_STATUS && c.block (keyBlk e.1)) }

/-- Nothing of a scope's tiles has issued, and Reel mode is not in force (R168). -/
def resetIssue (s : State) (c : Scope) : State :=
  { s with tile.tiles := Tbl.mapEntries (fun _ => Tile.reset) s.tile.tiles fun t v =>
      if c.tile t then { v with last := Tile.reset.last, lastAny := Tile.reset.lastAny, turn := 0, reelOn := false } else v }

/-- The tiles of a scope as another reset, or another tile in their place, leaves them. -/
def renewTiles (s : State) (c : Scope) : State := (((s.losePlanes c).clearTiles c).resetContexts c).resetIssue c

/-! ### Registers -/

/-- Counters that job close leaves: those of the interrupt controller, the host link, power and errors (R505, R519, R542, R580). -/
def keptCounter (r : Reg) : Bool :=
  match r.row.en with
  | some .IC_CTRL | some .HL_CTRL | some .PM_CTRL | some .ERR_CTRL => true
  | _ => false

/-- Registers that job close returns to their reset values (R235, R266, R294, R339, R356, R395, R426, R427). -/
def jobRegs : List Reg :=
  [.SMP_ERR, .GS_ERR, .EMB_ERR, .DMA_ERR, .UPD_ERR, .UPD_VERDICT, .SYNC_ERR, .FR_NF_FIRST, .FR_BREAK, .RL_POS, .RL_BACKUP]

/-- Fields that job close clears (R69, R132, R184, R234, R264, R293, R339, R375, R395, R425, R459). -/
def jobFlags : List Fld :=
  [Fld.FMT_CTRL_NAN_SEEN, Fld.FMT_CTRL_SAT_SEEN, Fld.AM_STATUS_OVF_SEEN, Fld.AM_STATUS_NF_SEEN, Fld.BANK_STATUS_LONG_WAIT,
    Fld.SMP_STATUS_ERR_SEEN, Fld.GS_STATUS_ERR_SEEN, Fld.EMB_STATUS_ERR_SEEN, Fld.DMA_STATUS_ERR_SEEN, Fld.UPD_STATUS_ERR_SEEN,
    Fld.UPD_STATUS_NF_SEEN, Fld.SYNC_STATUS_HOLD_LATE, Fld.FR_STATUS_BREAK, Fld.FR_STATUS_NF_SEEN, Fld.FR_STATUS_LEVELS,
    Fld.FR_STATUS_BACKUP, Fld.LW_STATUS_DOWN_SEEN]

/-- A register's value after job close. -/
def jobCloseValue (k : Nat) (v : Word) : Word :=
  let r := keyReg k
  if (r.row.en.isSome && !keptCounter r) || jobRegs.contains r then regDefault k
  else (jobFlags.filter fun f => f.reg == r).foldl (fun v f => BitVec.ofNat 64 (setBits v.toNat f.lo f.w 0)) v

/-- Fuse images, unit descriptors and the power manager's counters, which no reset of a unit changes (R542, R568). -/
def lasting (r : Reg) : Bool := [Reg.UD, .ARR_FUSE, .CL_SPARE_FUSE, .SC_REPAIR, .ISL_DROOPS, .ISL_RAMPS].contains r

/-- Remap registers load their fuse images (R102, R577), but of rows whose parity failed. -/
def loadFuses (s : State) (c : Scope) : State :=
  let fused := s.regs.filter fun e => c.block (keyBlk e.1) &&
    ((keyReg e.1 == .ARR_FUSE && !s.fuseRowBad (keyBlk e.1).i)
      || (keyReg e.1 == .CL_SPARE_FUSE && !s.flag (keyBlk e.1) Fld.CL_SPARE_STATUS_PARITY_BAD))
  s.foldS fused fun s e =>
    let b := keyBlk e.1
    if keyReg e.1 = .ARR_FUSE then s.setReg b .ARR_REMAP 0 e.2 else s.setReg b .CL_SPARE 0 e.2

/-- The registers of a scope's blocks at their reset values, the generators' counters among them (R70), fuse images and descriptors apart; a fuse row that failed its parity stays out of
use (R577). -/
def resetRegs (s : State) (c : Scope) (also : Nat → Bool) : State :=
  let bad := (s.regs.filter fun e =>
    keyReg e.1 == .CL_SPARE_STATUS && c.block (keyBlk e.1) && s.flag (keyBlk e.1) Fld.CL_SPARE_STATUS_PARITY_BAD).map fun e => keyBlk e.1
  let s := { s with
    regs := s.regs.filter fun e => !c.block (keyBlk e.1) || lasting (keyReg e.1) || also e.1
    tile.gens := s.tile.gens.filter fun e => !(if e.1 < 10752 then c.tile e.1 else c.upd (e.1 - 10752)) }
  (s.foldS bad fun s b => s.setFlag b Fld.CL_SPARE_STATUS_PARITY_BAD true).loadFuses c

/-- The clusters of a scope's tiles take the operating point that their segments ask for: IDLE's where their queues hold none any more (R32). -/
def retargetClusters (s : State) (c : Scope) : State := s.foldS ((upFrom 0 672).filter fun n => (upFrom (16 * n) 16).any c.tile) retarget

/-! ### Sync counters (R390, R392) -/

/-- Counters owned by units of the scope become ABANDONED in one handshake. -/
def abandonOwned (s : State) (c : Scope) : State :=
  s.foldS ((s.sync.counters.filter fun e => c.covers e.2.owner).map Prod.fst) State.abandon

/-- Counters of rows beyond repair stay ABANDONED (R576). -/
def keepDead (s : State) : State :=
  s.foldS (s.err.syncDead.flatMap fun r => upFrom (64 * r) 64) fun s c => s.setCounter c { s.counterOf c with abandoned := true }

/-- Job close and the wider resets: every wait is released as ABANDONED, then every counter is as after cold reset; the engines that waited
are at reset. -/
def clearSync (s : State) : State :=
  let ws := s.sync.waits ++ s.sync.retry
  let s := { s with sync.waits := [], sync.retry := [] }
  let s := s.foldS ws fun s w =>
    let t := s.syncCount w.counter .SYNC_ABANDON_REL
    if w.gone then t else t.release w.who (completion (s.counterOf w.counter).value 3)
  (({ s with sync.counters := [], sync.landing := [], sync.held := [] }).withdrawWaits (· matches .engine _)).keepDead

/-! ### Children present (R18 to R20) -/

/-- The stacks in use follow the regions present while no job is open (R309). -/
def fixStacks (s : State) : State :=
  if s.jobOpen then s else s.setF bPackage Fld.MEM_MAP_PRESENT (((upFrom 0 12).filter s.regionPresent).foldl (fun n k => n + 2 ^ k) 0)

/-- The parent of a unit's block and the unit's bit there. -/
def parentOf (b : Blk) : Option (Blk × Nat) :=
  match b.k with
  | 3 => some (bRegion (b.i / 56), b.i % 56)
  | 2 => some (bDie (b.i / 3), b.i % 3)
  | 1 => some (bPackage, b.i)
  | _ => none

/-- A child fails: its bit in PRESENT clears, LOGICAL falls, event 0x0001 announces it; a unit with no child left is absent from its
own parent. -/
def loseChild (s : State) (b : Blk) (bit : Nat) : Nat → State
  | 0 => s
  | fuel + 1 =>
    let p := (s.reg b .UD 4).toNat
    if p.testBit bit then
      let p := setBits p bit 1 0
      let w := (s.reg b .UD 0).toNat
      let n := bitsOf w 32 16 - 1
      let s := (s.setReg b .UD 4 (BitVec.ofNat 64 p)).setReg b .UD 0 (BitVec.ofNat 64 (setBits w 32 16 n))
      let s := s.event 0x0001 (w % 2 ^ 28) (n + p * 2 ^ 64)
      if n = 0 then
        match parentOf b with
        | some (q, k) => s.loseChild q k fuel
        | none => s
      else s
    else s

/-- A child is found absent: at once, or at the next step boundary while a job is open (R20). -/
def childAbsent (s : State) (b : Blk) (bit : Nat) : State :=
  if s.jobOpen then s.addDue (.absent (b.k * 2 ^ 20 + b.i) bit)
  else (s.loseChild b bit 4).fixStacks

/-! ### Tile spares (R7, R571, R574) -/

/-- The cluster's spare is free: not in use, its fuse row sound. -/
def spareFree (s : State) (n : Nat) : Bool :=
  !s.flag (bCluster n) Fld.CL_SPARE_EN && !s.flag (bCluster n) Fld.CL_SPARE_STATUS_PARITY_BAD

/-- Spare counts of an array's descriptor whose fuse row failed its parity (R14, R577). -/
def spareCounts (s : State) (b : Blk) (free used : Nat) : State :=
  s.setReg b .UD 0 (BitVec.ofNat 64 (setBits (setBits (s.reg b .UD 0).toNat 48 4 free) 52 4 used))

/-- How the list of tiles that wait for a quiescent point names one that is due from ageing alone. -/
def agedTile (t : Nat) : Nat := 2 ^ 20 + t

/-- The spare of a cluster serves a logical tile: with zeroed memories, under a repair record; errors counted so far were another
tile's. -/
def useSpare (s : State) (t : Nat) : State :=
  let n := clusterOfTile t
  let s := { s with err.counts := s.err.counts.filter fun e => !(decide (e.1 < 2 ^ 72) && e.1 / 2 ^ 20 == t) }
  let s := (s.setF (bCluster n) Fld.CL_SPARE_FOR (t % 16)).setFlag (bCluster n) Fld.CL_SPARE_EN true
  ((s.orphanThreads (Scope.ofUnit (udTile t))).renewTiles (Scope.ofUnit (udTile t))).repairRecord (udCluster n) 0 0 0

/-- A tile waits no longer for a quiescent point. -/
def dropLater (s : State) (t : Nat) : State := { s with err.dueLater := s.err.dueLater.filter fun k => k % 2 ^ 20 != t }

/-- A tile due for its spare gets it, or is absent (R574). -/
def swapTile (s : State) (t : Nat) : State :=
  let s := s.dropLater t
  if s.spareFree (clusterOfTile t) then s.useSpare t
  else (((s.orphanThreads (Scope.ofUnit (udTile t))).renewTiles (Scope.ofUnit (udTile t))).loseChild (bCluster (clusterOfTile t)) (t % 16) 4).fixStacks

/-- A tile due at a quiescent point (R571): its spare serves at once; without one it is absent, from the next step boundary on while a job
is open (R20). -/
def swapQuiet (s : State) (t : Nat) : State :=
  let s := s.dropLater t
  if s.spareFree (clusterOfTile t) then s.useSpare t
  else ((s.orphanThreads (Scope.ofUnit (udTile t))).renewTiles (Scope.ofUnit (udTile t))).childAbsent (bCluster (clusterOfTile t)) (t % 16)

/-! ### Changes that wait for a step boundary (R37) -/

/-- The job seed is set: every generator's counter returns to zero (R61). -/
def setSeed (s : State) (seed : Word) : State := { s with job.seed := seed, tile.gens := [] }

def mb (s : State) (m : Nat) : Mailbox := Tbl.get (fun _ => Mailbox.reset) s.kci m
def modMb (s : State) (m : Nat) (f : Mailbox → Mailbox) : State :=
  { s with kci := Tbl.put (fun _ => Mailbox.reset) s.kci m (f (s.mb m)) }

/-- Fields clamped in a mailbox's commands (R469). -/
def mbClamp (s : State) (m n : Nat) : State := s.modMb m fun b => { b with clamps := satAdd b.clamps n }

/-- A command's answer: status and payload, to be written by its mailbox's response (R466). The fields clamped of a command begun before
count where it ends with OK (R468, R469). -/
def answer (s : State) (m status : Nat) (payload : List Byte) : State :=
  let n := Tbl.get (fun _ => 0) s.job.clamps m
  let s := if status = 0 ∧ n ≠ 0 then s.mbClamp m n else s
  { s with
    job.answers := Tbl.put (fun _ => none) s.job.answers m (some (status, payload))
    job.accepted := s.job.accepted.erase m
    job.clamps := Tbl.put (fun _ => 0) s.job.clamps m 0 }

/-- The free entries of a region's reflection directory, ascending (R285). -/
def freeRefl (s : State) (r : Nat) : List Nat := (upFrom 0 16384).filter fun i => (Tbl.find? (s.embReg r).dir i).isNone

/-- A reflection entry of a command (R479): table address, identifier, row. -/
def sameRefl (x : Refl) (e : Nat × Nat × Nat) : Bool := x.table == e.2.1 && x.row == e.2.2

/-- Reflections installed in state REFRESHING, or removed (R285). -/
def applyReflect (s : State) (add : Bool) (r : Nat) (entries : List (Nat × Nat × Nat)) : State :=
  if add then
    let new := entries.filter fun e => !(s.embReg r).dir.any fun x => sameRefl x.2 e
    s.foldS ((s.freeRefl r).zip new) fun s e =>
      s.modEmb r fun g => { g with dir := Tbl.put (fun _ => Refl.reset) g.dir e.1 ⟨e.2.2.1, e.2.2.2, 0, 1, []⟩ }
  else s.modEmb r fun g => { g with dir := g.dir.filter fun x => !entries.any fun e => sameRefl x.2 e }

/-- The payload of a reflect command (R479). -/
def reflectImage (r : Nat) (es : List (Nat × Nat × Nat)) : List Byte :=
  leBytes 4 r ++ es.flatMap fun e => leBytes 16 (e.1 + e.2.1 * 2 ^ 64 + e.2.2 * 2 ^ 80)

/-- One change takes effect (R37, R61, R285, R574, R20, R322). -/
def applyDue (s : State) (d : Due) : State :=
  match d with
  | .reseed seed n m => (s.setSeed seed).answer m 0 (leBytes 8 seed.toNat ++ leBytes 4 n)
  | .reflect add r es m => (s.applyReflect add r es).answer m 0 (reflectImage r es)
  | .tile t => s.swapTile t
  | .absent p bit => s.loseChild ⟨p / 2 ^ 20, p % 2 ^ 20⟩ bit 4
  | .pin r => s.applyPin r

/-! ### Job close (R474) -/

/-- The bindings of a closing job end (R481, R483): every queue is emptied; queues that JOB_OPEN bound return to no consumer. -/
def unbind (s : State) : State :=
  { s with queues := Tbl.mapEntries QueueCtx.reset s.queues fun _ v =>
      let v := emptied v
      let v := if v.kind = 5 ∨ v.kind = 6 ∨ v.kind = 7 then { v with kind := 15, unit := 0 } else v
      { v with job := false } }

/-- What job close does in every unit (R474 and the rules it gathers); with no job open any more, the changes that waited for a step
boundary take effect at once (R37). A suspension in progress, which only a reset can meet here, ends with ABORTED (R468). -/
def jobClose (s : State) (level : Nat) : State :=
  let s := match s.job.busy with
    | some m => s.answer m 9 []
    | none => s
  let s := s.stopEngines Scope.all level
  let s := (s.clearSync.orphanThreads Scope.all).clearTiles Scope.all
  let s := { s with regs := Tbl.mapEntries regDefault s.regs jobCloseValue }
  let s := s.unbind
  let due := s.job.due
  let s := { s with
    job := { JobState.reset with
      accepted := s.job.accepted, answers := s.job.answers, clamps := s.job.clamps }
    ex := Exch.reset
    gs := Tbl.mapEntries (fun _ => Gather.reset) s.gs fun _ g => { Gather.reset with thresh := g.thresh, log := g.log }
    smp := []
    emb := Tbl.mapEntries (fun _ => EmbRegion.reset) s.emb fun _ g => { EmbRegion.reset with dir := g.dir }
    ms.upd := [] }
  let s := s.foldS due applyDue
  let later := s.err.dueLater
  let s := s.foldS (later.map (· % 2 ^ 20)).dedup swapTile
  s.fixStacks.retargetClusters Scope.all

end State

end Sys2Proof.Machine
end

