-- ==== Sys2Proof/Machine/Boundary.lean ====
section
/-! DEFINITION. The local seal and the step boundary (R37, R418): the changes that wait for it. -/

namespace Sys2Proof.Machine

namespace State

/-- Whether a reseed waits for a later boundary than the one at which step s seals. -/
def laterReseed (step : Nat) : Due → Bool
  | .reseed _ n _ => n != nextStep step
  | _ => false

/-- The step boundary after a step (R37): the changes due, in the order in which they were received. -/
def stepBoundary (s : State) (step : Nat) : State :=
  let now := s.job.due.filter fun d => !laterReseed step d
  let s := { s with job.due := s.job.due.filter (laterReseed step) }
  s.foldS now applyDue

/-- Everything a local seal of a step waits for (R418). -/
def sealReady (s : State) (step : Nat) : Bool :=
  (s.validBuckets.all fun i => (s.exBuf step i).complete) && (s.ex.verdicts.any fun v => v.1 == step)
    && s.job.named.all fun u => (s.updEng u).ended == some step

end State

/-- LOCAL_SEAL (R36, R37, R418): the oldest unsealed step is sealed, the step boundary's changes are made, the seal round starts. -/
def execLocalSeal (s : State) : Host.Outcome State Fault Refusal :=
  let step := State.nextStep (s.getF bHub Fld.FR_SEAL_LOCAL)
  .next (if s.exRuns && !s.dieHeld 0 && s.sealReady step then
      ((s.setF bHub Fld.FR_SEAL_LOCAL step).stepBoundary step).roundStart true step true
    else s)

end Sys2Proof.Machine
end

