-- ==== Sys2Proof/Machine/KciOps.lean ====
section
/-! DEFINITION. Mailboxes and the way firmware runs a command (R464 to R470, R556), the event ring (R484, R487). -/

namespace Sys2Proof.Machine

/-- What a command comes to: done with its response payload and the fields clamped; refused with a status; or begun, to be answered
later. -/
inductive KciOut where
  | ok (payload : List Byte) (clamps : Nat) (s : State)
  | refused (status : Nat)
  | later (clamps : Nat) (s : State)

/-- A command's opcode, the job states it is allowed in (0 CLOSED, 1 OPEN, 2 SUSPENDED), whether it is a job-state command, whether it
names a queue, counter, engine or table (R467, R470). -/
structure KciCmd where
  opcode : Nat
  states : List Nat
  job : Bool := false
  names : Bool := false

/-- The commands firmware answers before standalone ready (R556). -/
def earlyCmds : List Nat := [0x01, 0x02, 0x90, 0x91, 0x97, 0x98]

/-- The opcodes of R470, R541, R551, R566 and R596. -/
def kciOpcodes : List Nat :=
  [0x01, 0x02, 0x10, 0x20, 0x21, 0x22, 0x23, 0x24, 0x25, 0x30, 0x40, 0x41, 0x50, 0x51, 0x52, 0x53, 0x60, 0x61]
    ++ upFrom 0x70 6 ++ upFrom 0x80 6 ++ upFrom 0x90 9 ++ upFrom 0xA0 3

/-- A number clamped, and how many fields that is (R469). -/
def clampN (lo hi v : Nat) : Nat × Nat := (clampTo lo hi v, if clampTo lo hi v = v then 0 else 1)

namespace State

/-- A field of the request payload; it reads as zero beyond LENGTH (R469). -/
def req (s : State) (m off n : Nat) : Nat :=
  let b := s.mb m
  Memory.readLE b.payload off (min n (b.length - off))

/-- How many entries of a size the payload carries from an offset on: at most `most`. -/
def reqCount (s : State) (m off size most : Nat) : Nat := min most (((s.mb m).length - off + size - 1) / size)

/-- BOOT_STATUS.STAGE (R570). -/
def stage (s : State) : Nat := s.getF (bFn 6) Fld.BOOT_STATUS_STAGE

/-- A slot write of the host has not been accepted yet: its other writes take effect as they arrive, so that these are what a command may
have to wait for (R467; log entry 126). -/
def hostWriting (s : State) : Bool := s.queues.any fun e => e.2.writing.any Prod.fst

/-- Firmware takes the command at the head of those accepted, once the host's writes before it have been accepted; in recovery the root of
trust takes those of mailbox 0 that it answers (R467, R504, R554, R555). -/
def kciTakes (s : State) (m op : Nat) : Bool :=
  (s.mb m).opcode == op && s.pwr.cc == 0 && !s.hostWriting
    && (if s.stage = 7 then m == 0 && s.job.accepted.contains 0 && (op == 0x01 || op == 0x92)
      else s.job.accepted.head? == some m && decide (4 ≤ s.stage))

/-- A command runs (R467 to R470): it is refused with BUSY or STATE, or has its effect. -/
def kciRun (s : State) (m : Nat) (c : KciCmd) (f : State → KciOut) : State :=
  if !s.kciTakes m c.opcode then s
  else if s.job.busy.isSome && (c.job || c.names) then s.answer m 1 []
  else if (decide (s.stage < 6) && !earlyCmds.contains c.opcode) || !c.states.contains s.job.phase then s.answer m 2 []
  else match f s with
    | .ok p n t => (t.mbClamp m n).answer m 0 p
    | .refused st => s.answer m st []
    | .later n t => { t with job.accepted := t.job.accepted.erase m, job.clamps := Tbl.put (fun _ => 0) t.job.clamps m n }

/-! ### The event ring (R484, R487) -/

/-- Events kept while the ring was full are written as space allows, the OVERFLOW event first. -/
def flushEvents (s : State) : Nat → State
  | 0 => s
  | n + 1 =>
    if s.ringFull then s
    else if 0 < s.ev.ring.lost then
      let e : Event := ⟨0x00FF, s.time, 0, udHub, none, s.ev.ring.lost⟩
      (({ s with ev.ring.lost := 0 }).eventWrite e 64).flushEvents n
    else match s.ev.ring.kept with
      | [] => s
      | (e, v) :: r => (({ s with ev.ring.kept := r }).eventWrite e v).flushEvents n

/-- The nearest legal ring size (R469, R484): a power of two from 2^6 to 2^16; its logarithm. -/
def ringLog (n : Nat) : Nat :=
  (upFrom 7 10).foldl (fun b k => if (n - 2 ^ k) + (2 ^ k - n) < (n - 2 ^ b) + (2 ^ b - n) then k else b) 6

/-- The event ring is set: EVSEQ counts from 0. A trip not yet reported is reported now (R540). -/
def eventRingSet (s : State) (base log : Nat) : State :=
  let s := { s with ev.ring := { s.ev.ring with base := some base, log2 := log, produced := 0, consumed := 0 } }
  let s := s.flushEvents (s.ev.ring.kept.length + 1)
  if s.pwr.unreported then
    ({ s with pwr.unreported := false }).event 0x001A udHub (s.reg (bFn 5) .PM_TRIP).toNat
  else s

/-- The host's consumed count (R487): one that would pass the produced count is clamped to it and counted in mailbox 0. -/
def eventsConsumed (s : State) (n : Nat) : State :=
  let r := s.ev.ring
  let d := (BitVec.ofNat 32 n - BitVec.ofNat 32 r.consumed).toNat
  let s := if r.produced - r.consumed < d then
      ({ s with ev.ring.consumed := r.produced }).mbClamp 0 1
    else { s with ev.ring.consumed := r.consumed + d }
  match r.base with
  | none => s
  | some _ => s.flushEvents (s.ev.ring.kept.length + 1)

/-- A write of the consumed count (R487), which asserts its source (R498). -/
def consumedWrite (s : State) (n : Nat) : State := (s.irq 3203).eventsConsumed n

/-- A write of MB_CTRL (R465, R466): IRQ is written; GO submits the command, or is discarded and marked while the mailbox is BUSY. -/
def mailboxGo (s : State) (m : Nat) (irq go : Bool) : State :=
  let s := s.modMb m fun b => { b with irq := irq }
  if !go then s
  else if (s.mb m).state = 1 then s.modMb m fun b => { b with lost := true }
  else
    let s := s.modMb m fun b => { b with state := 1 }
    ({ s with job.accepted := s.job.accepted ++ [m] }).irq (3136 + m)

/-! ### Queue bindings (R483, R488) -/

/-- LOG2_SIZE in force. -/
def ringLog2 (n : Nat) : Nat := if n = 0 then 0 else clampTo 4 16 n

/-- KIND and UNIT in force on a queue. -/
def bindKind (q kind unit : Nat) : Nat × Nat :=
  if q % 65536 < 10752 then (q % 4, 0)
  else
    let k := if kind = 4 ∨ kind = 8 then kind else 15
    (k, if k = 4 then min unit 47 else 0)

/-- Fields of a queue spec that its rules clamp: LOG2_SIZE, KIND and UNIT. -/
def logClamps (log : Nat) : Nat := if ringLog2 log = log then 0 else 1
def kindClamps (q kind unit : Nat) : Nat :=
  if q % 65536 < 10752 then 0
  else (if (bindKind q kind unit).1 = kind then 0 else 1) + if kind = 4 ∧ 47 < unit then 1 else 0

/-- The queue has nothing in it. -/
def queueEmpty (s : State) (q : Nat) : Bool := (s.queue q).prod == (s.queue q).cons && (s.queue q).writing.isEmpty

/-- A context of die d as Q_VIEW shows it, word by word (R488). -/
def qWord (s : State) (q w : Nat) : Nat :=
  let c := s.queue q
  match w with
  | 0 => c.base + c.log2 * 2 ^ 52 + c.mode * 2 ^ 57
  | 1 => c.kind + c.unit * 16
  | 2 => c.prod.toNat + c.cons.toNat * 2 ^ 32
  | 3 => c.clamps
  | 4 => c.refused
  | _ => c.overflow

/-- A write of Q_SEL latches the selected context (R488). -/
def qSel (s : State) (d v : Nat) : State :=
  let s := s.setF (bDie d) Fld.Q_SEL_LOCAL v
  s.foldS (upFrom 0 6) fun s w => s.setReg (bDie d) .Q_VIEW w (BitVec.ofNat 64 (s.qWord (d * 65536 + v % 65536) w))

/-- A write of Q_VIEW word 0 or 1 binds the selected context as QUEUE_BIND does, without its refusals; the word reads as then in
force (R488). -/
def qView (s : State) (d w v : Nat) : State :=
  if 2 ≤ w then s
  else
  let q := d * 65536 + s.getF (bDie d) Fld.Q_SEL_LOCAL
  let s := match w with
    | 0 =>
      let log := ringLog2 (bitsOf v 52 5)
      s.modQueue q fun c => { c with
        base := if log = 0 then 0 else bitsOf v 12 40 * 4096, log2 := log, mode := bitsOf v 57 1 }
    | _ =>
      let (k, u) := bindKind q (bitsOf v 0 4) (bitsOf v 4 24)
      s.modQueue q fun c => { c with kind := k, unit := u }
  (s.setReg (bDie d) .Q_VIEW w (BitVec.ofNat 64 (s.qWord q w))).fwQueueLevel d

end State

/-! ### The rows -/

/-- MAILBOX_GO (R466, R467): IRQ is written; the command is submitted, or discarded and marked while the mailbox is BUSY. The write reaches
the module while BAR0 decodes (R510). -/
def execMailboxGo (mailbox : MailboxId) (irq : Bool) (s : State) : Host.Outcome State Fault Refusal :=
  .next (if s.barsDecode then s.mailboxGo mailbox irq true else s)

namespace State

/-- Firmware's answer: the payload, MB_RSP, DONE, then the mailbox's vector (R466). -/
def respond (s : State) (m status : Nat) (p : List Byte) : State :=
  let s := { s with
    job.answers := Tbl.put (fun _ => none) s.job.answers m none
    job.accepted := s.job.accepted.erase m }
  let s := s.modMb m fun b => { b with
    payload := Memory.writeBytes b.payload 0 (p.take 4032)
    status := status, rlength := (p.take 4032).length, rseq := b.seq, state := 2 }
  if (s.mb m).irq then s.msixRaise m else s

end State

/-- MAILBOX_RESPONSE (R466, R470, R491): the command's answer; an opcode that no rule assigns is UNKNOWN, an extension's opcode has the
status and payload the extension gives (log entry 5). -/
def execMailboxResponse (mailbox : MailboxId) (status : BitVec 16) (payload : List Byte) (s : State) :
    Host.Outcome State Fault Refusal :=
  let m := mailbox.val
  .next (if (s.mb m).state ≠ 1 then s
    else match (Tbl.get (fun _ => none) s.job.answers m : Option (Nat × List Byte)) with
      | some (st, p) => s.respond m st p
      | none =>
        let op := (s.mb m).opcode
        if kciOpcodes.contains op || !s.kciTakes m op then s
        else if 0x8000 ≤ op ∧ s.rot.ext.isSome ∧ 6 ≤ s.stage then s.respond m status.toNat payload
        else s.respond m 3 [])

/-- PING (R470). -/
def execPing (mailbox : MailboxId) (s : State) : Host.Outcome State Fault Refusal :=
  .next (s.kciRun mailbox ⟨0x01, [0, 1, 2], false, false⟩ fun s => .ok (leBytes 8 s.fwVersion ++ leBytes 4 s.job.phase) 0 s)

/-- EVENT_RING_SET (R484). -/
def execEventRingSet (mailbox : MailboxId) (s : State) : Host.Outcome State Fault Refusal :=
  let m := mailbox.val
  .next (s.kciRun m ⟨0x02, [0], false, false⟩ fun s =>
    let base := s.req m 0 8
    let n := s.req m 8 4
    let k := State.ringLog n
    if base % 4096 ≠ 0 then .refused 4
    else .ok (leBytes 8 base ++ leBytes 4 (2 ^ k)) (if n = 2 ^ k then 0 else 1) (s.eventRingSet base k))

/-- EVENT_CONSUMED_WRITE (R487), which reaches the module while BAR0 decodes (R510). -/
def execEventConsumedWrite (count : BitVec 32) (s : State) : Host.Outcome State Fault Refusal :=
  .next (if s.barsDecode then s.consumedWrite count.toNat else s)

/-- Q_SEL_WRITE (R488). -/
def execQSelWrite (die : DieId) (w : Writer) (value : BitVec 16) (s : State) : Host.Outcome State Fault Refusal :=
  .next (s.ifReached (bDie die) (ifControl w s (s.qSel die value.toNat)))

/-- Q_VIEW_WRITE (R488). -/
def execQViewWrite (die : DieId) (w : Writer) (word : Fin 6) (value : BitVec 64) (s : State) :
    Host.Outcome State Fault Refusal :=
  .next (s.ifReached (bDie die) (ifControl w s (s.qView die word value.toNat)))

end Sys2Proof.Machine
end

