-- ==== Sys2Proof/Machine/Intr.lean ====
section
/-! DEFINITION. The interrupt controller and the pilot light (R498 to R504, R507). -/

namespace Sys2Proof.Machine

/-- The sources that units assert (R498): sources 3,264 to 3,519 are software's. -/
def sourceOk (n : Nat) : Bool :=
  decide (n < 2688) || (decide (n < 2880) && decide ((n - 2688) % 16 < 8)) || (decide (2880 ≤ n ∧ n < 3136) && decide ((n - 2880) % 64 < 11))
    || decide (3136 ≤ n ∧ n < 3216)

/-- A software source (R498). -/
def softSource (n : Nat) : Bool := decide (3264 ≤ n ∧ n < 3520)

/-- A software source of the extension (R491, R498). -/
def extSource (n : Nat) : Bool := decide (3456 ≤ n ∧ n < 3520)

namespace State

/-- A logical core is retired with no spare to serve it (R490). -/
def coreGone (s : State) (c : Nat) : Bool := s.getF (bFn 0) Fld.CC_CORE_STATE c == 3
/-- The logical core that serves a core's sources and threads (R490). -/
def servedBy (s : State) (c : Nat) : Nat :=
  if s.coreGone c then ((upFrom 0 16).find? fun k => !s.coreGone k).getD c else c

/-- A core's priority stack, top first: source and priority (R500). -/
def stackOf (s : State) (c : Nat) : List (Nat × Nat) := Tbl.get (fun _ => []) s.ev.intr.stk c
def setStack (s : State) (c : Nat) (l : List (Nat × Nat)) : State :=
  { s with ev.intr.stk := Tbl.put (fun _ => []) s.ev.intr.stk c l }

/-- Whether a source may be delivered to a core (R499). -/
def deliverable (s : State) (c n : Nat) : Bool :=
  let b := bFn 2
  let p := s.getF b Fld.IC_SRC_PRIO n
  s.flag b Fld.IC_SRC_PENDING n && s.flag b Fld.IC_SRC_EN n && !s.flag b Fld.IC_SRC_STORM n && !s.flag b Fld.IC_SRC_STUCK n
    && s.servedBy (s.getF b Fld.IC_SRC_TARGET n) == c && decide (s.getF b Fld.IC_CORE_THRESH c ≤ p)
    && (match s.stackOf c with
      | [] => true
      | (_, q) :: _ => decide (q < p))

/-- The sources whose registers have been written: only they can be pending. -/
def touchedSources (s : State) : List Nat :=
  let lo := rkey (bFn 2) .IC_SRC 0
  (s.regs.filter fun e => decide (lo ≤ e.1) && decide (e.1 < lo + 4096)).map fun e => e.1 - lo

/-- The source delivered to a core: the highest priority, then the lowest number (R499). -/
def bestSource (s : State) (c : Nat) : Option Nat :=
  (s.touchedSources.filter (s.deliverable c)).foldl (fun b n =>
    match b with
    | none => some n
    | some k => if s.getF (bFn 2) Fld.IC_SRC_PRIO k < s.getF (bFn 2) Fld.IC_SRC_PRIO n then some n else b) none

/-- A wake entry covers a source (R504). -/
def wakeEntry (s : State) (e n : Nat) : Bool :=
  let base := s.getF (bFn 3) Fld.PL_WAKE_BASE e
  decide (base ≤ n) && decide (n < base + 2 ^ s.getF (bFn 3) Fld.PL_WAKE_SPAN_LOG e)

/-- A claim read (R500): the source delivered, if any, and the state after. A source that woke the complex has been delivered with it
(R504). -/
def claimIrq (s : State) (c : Nat) : Option Nat × State :=
  match s.bestSource c with
  | none => (none, s)
  | some n =>
    let b := bFn 2
    let p := s.getF b Fld.IC_SRC_PRIO n
    let s := (s.setStack c ((n, p) :: s.stackOf c)).setFlag b Fld.IC_SRC_PENDING false n
    let s := (s.setFlag b Fld.IC_SRC_ACTIVE true n).setF b Fld.IC_SRC_ON_CORE c n
    let s := { s with pwr.waking := s.pwr.waking.filter fun e => !s.wakeEntry e n }
    (some n, s.count b .IC_DELIVERED)

/-- An entry leaves a stack: its source is no longer ACTIVE; a level source still asserted is pending again (R500). -/
def endHandler (s : State) (n : Nat) : State :=
  let s := s.setFlag (bFn 2) Fld.IC_SRC_ACTIVE false n
  if s.flag (bFn 2) Fld.IC_SRC_LEVEL n && s.levelHigh n then s.setFlag (bFn 2) Fld.IC_SRC_PENDING true n else s

/-- An EOI of a core (R500, R501). -/
def eoi (s : State) (c n : Nat) : State :=
  let st := s.stackOf c
  let top := ((st.head?).map Prod.fst).getD 0
  if st.head?.map Prod.fst = some n then (s.setStack c st.tail).endHandler n
  else
    let s := if st.any fun e => e.1 == n then
        let above := st.takeWhile fun e => e.1 != n
        ((s.setStack c (st.drop (above.length + 1))).foldS above fun s e => s.endHandler e.1).endHandler n
      else s
    (s.count (bFn 2) .IC_STACK_FAULT).event 0x0012 udHub (c + n * 2 ^ 64 + top * 2 ^ 128)

/-- W1C of a source's STORM and STUCK (R502): counting starts again at the next window. -/
def unmask (s : State) (n : Nat) (storm stuck : Bool) : State :=
  let was := (storm && s.flag (bFn 2) Fld.IC_SRC_STORM n) || (stuck && s.flag (bFn 2) Fld.IC_SRC_STUCK n)
  let s := if storm then s.setFlag (bFn 2) Fld.IC_SRC_STORM false n else s
  let s := if stuck then s.setFlag (bFn 2) Fld.IC_SRC_STUCK false n else s
  if was then { s with ev.intr.counts := Tbl.put (fun _ => 0) s.ev.intr.counts n (2 ^ 32) } else s

/-- A write of IC_SWSET (R491, R498) by a core: core 15 is an extension's while one is loaded. -/
def swSet (s : State) (core n : Nat) : State :=
  if softSource n && (extSource n || !(core == 15 && s.rot.ext.isSome)) then s.irqEdge n else s

def icClear (s : State) : State :=
  s.clearRegs (bFn 2) 0 [.IC_DELIVERED, .IC_COALESCED, .IC_STORM, .IC_STUCK, .IC_STACK_FAULT]

/-- IC_CLAIM as it stands (R500, R507): the source that a read would claim, or 0. -/
def claimWord (s : State) (core : Nat) : Nat :=
  match s.bestSource core with
  | none => 0
  | some n => n + 2 ^ 12

/-- A read of IC_CLAIM (R9, R500): it returns the source and claims it. -/
def claimRead (s : State) (core : Nat) : State :=
  let w := s.claimWord core
  let s := (s.claimIrq core).2
  { s with ev.claimed := Tbl.put (fun _ => 0) s.ev.claimed core w }

/-- A pending source that an enabled wake entry covers (R504). -/
def wakeCovers (s : State) (e : Nat) : Bool :=
  s.flag (bFn 3) Fld.PL_WAKE_EN e && s.touchedSources.any fun n => s.wakeEntry e n && s.flag (bFn 2) Fld.IC_SRC_PENDING n

/-- The source that woke the complex has yet to be delivered: no thread resumes before (R504). -/
def wakePending (s : State) : Bool :=
  match s.pwr.waking with
  | none => false
  | some e => s.touchedSources.any fun n => s.wakeEntry e n && (upFrom 0 16).any fun c => s.deliverable c n

/-- A write of PL_WAKE (R504): SPAN_LOG 7 becomes 6, BASE is aligned down to the span; how many fields were clamped. -/
def plWakeWrite (s : State) (e v : Nat) : Nat × State :=
  let span := min 6 (bitsOf v 12 3)
  let base := bitsOf v 0 12 / 2 ^ span * 2 ^ span
  ((if span = bitsOf v 12 3 then 0 else 1) + if base = bitsOf v 0 12 then 0 else 1,
   s.setReg (bFn 3) .PL_WAKE e (BitVec.ofNat 64 (base + span * 2 ^ 12 + bitsOf v 15 1 * 2 ^ 15)))

/-- The control complex wakes (R504): entry 32 is a fixed cause. -/
def ccWake (s : State) (entry : Nat) : State :=
  let b := bFn 3
  let s := ({ s with pwr.cc := 0, pwr.waking := if entry < 32 then some entry else none }).setFlag b Fld.PL_STATUS_ASLEEP false
  (s.setF b Fld.PL_STATUS_LAST entry).setF b Fld.PL_STATUS_PL_WAKES (satAdd (s.getF b Fld.PL_STATUS_PL_WAKES) 1)

end State

/-! ### The rows -/

/-- IRQ_ASSERT (R499): a unit's source asserts, or a level source's line takes a level. -/
def execIrqAssert (source : SourceId) (high : Bool) (s : State) : Host.Outcome State Fault Refusal :=
  .next (if !sourceOk source then s
    else if s.flag (bFn 2) Fld.IC_SRC_LEVEL source then s.irqLevel source high
    else if high then s.irqEdge source else s)

/-- IC_CLAIM (R500): the read returns the source, which `claimed` records, and clears it (R9). -/
def execIcClaim (core : CoreId) (s : State) : Host.Outcome State Fault Refusal := .next (s.claimRead core)

/-- IC_EOI (R500, R501). -/
def execIcEoi (core : CoreId) (source : SourceId) (s : State) : Host.Outcome State Fault Refusal := .next (s.eoi core source)

/-- STORM_WINDOW_END (R502): windows end at multiples of their length in device time. -/
def execStormWindowEnd (s : State) : Host.Outcome State Fault Refusal :=
  .next (if s.time % (s.getF (bFn 2) Fld.IC_CTRL_STORM_WIN_US * 1000) = 0 then { s with ev.intr.counts := [] } else s)

/-- IRQ_STUCK (R502). -/
def execIrqStuck (source : SourceId) (s : State) : Host.Outcome State Fault Refusal :=
  .next (match (Tbl.get (fun _ => none) s.ev.intr.levels source : Option Nat) with
    | none => s
    | some t =>
      if s.flag (bFn 2) Fld.IC_SRC_STUCK source ∨ s.time - t ≤ s.getF (bFn 2) Fld.IC_CTRL_STUCK_US * 1000 then s
      else ((s.setFlag (bFn 2) Fld.IC_SRC_STUCK true source).count (bFn 2) .IC_STUCK).event 0x0011 udHub source.val)

/-- IC_SRC_UNMASK (R491, R502): an extension writes its own sources alone. -/
def execIcSrcUnmask (w : Writer) (source : SourceId) (storm stuck : Bool) (s : State) : Host.Outcome State Fault Refusal :=
  .next (if w = .ext ∧ ¬ extSource source then s else ifControl w s (s.unmask source storm stuck))

/-- IC_SWSET (R498). -/
def execIcSwset (core : CoreId) (source : SourceId) (s : State) : Host.Outcome State Fault Refusal := .next (s.swSet core source)

/-- IC_CNT_CLEAR (R507). -/
def execIcCntClear (w : Writer) (s : State) : Host.Outcome State Fault Refusal := .next (ifControl w s s.icClear)

/-- PILOT_LIGHT_WAKE (R504): by an enabled entry that covers a pending source, or by a fixed cause. -/
def execPilotLightWake (entry : Option (Fin 32)) (s : State) : Host.Outcome State Fault Refusal :=
  .next (if s.pwr.cc ≠ 1 then s
    else match entry with
      | none => s.ccWake 32
      | some e => if s.wakeCovers e then s.ccWake e else s)

end Sys2Proof.Machine
end

