-- ==== Sys2Proof/Machine/HostLink.lean ====
section
/-! DEFINITION. The host link (R508 to R520): link events, BAR2, MSI-X masking, time alignment, power states. -/

namespace Sys2Proof.Machine
namespace State

/-- HL_STATUS with FABRIC_TIME as it stands (R520). -/
def hlStatus (s : State) : Nat := setBits (s.reg (bFn 4) .HL_STATUS).toNat 8 1 (if s.locked then 1 else 0)

/-- What a Configuration Request does: it reaches the function while the link is up (R3), and is answered once configuration space is ready
(R512). -/
def ifConfig (s t : State) : State := if s.hostUp && s.hl.ready then t else s

/-- CLKREQ#, held asserted while the module is powered (R511). -/
def clkreq (s : State) : Bool := s.rot.input

/-- The link has completed training or retraining (R509); what waited for it is sent. -/
def linkTrained (s : State) (speed width : Nat) : State :=
  let b := bFn 4
  let before := s.hlStatus
  let up := s.getF b Fld.HL_STATUS_SPEED != 0
  let s := (s.setF b Fld.HL_STATUS_SPEED speed).setF b Fld.HL_STATUS_WIDTH width
  let s := if up then s.count b .HL_RETRAIN else s
  let bad := decide (speed < 4) || decide (width < 8)
  let s := s.irq 3202
  let s := if bad || s.hl.degraded then
      ({ s with hl.degraded := bad }).event 0x0015 udHub
        (s.hlStatus + before * 2 ^ 32 + s.getF b Fld.HL_RETRAIN_VALUE * 2 ^ 64)
    else s
  s.hostFlush

/-- BASE in force for a written image: aligned down to the BAR2 size; how many fields that clamps (R520, R518). -/
def bar2Write (s : State) (v : Nat) : Nat × State :=
  let g := 2 ^ (s.hl.bar2 - 30)
  let base := bitsOf v 30 22
  (if base / g * g = base then 0 else 1, s.setF (bFn 4) Fld.HL_BAR2_BASE (base / g * g))

/-- The device address of a BAR2 offset (R515). -/
def bar2Addr (s : State) (off : Nat) : Nat := s.getF (bFn 4) Fld.HL_BAR2_BASE * gib + off

/-- A vector is unmasked: a pending message is sent (R516). -/
def msixUnmask (s : State) (v : Nat) : State :=
  let e := Tbl.get (fun _ => MsixEntry.mk 0 0 true) s.ev.msix v
  let s := { s with ev.msix := Tbl.put (fun _ => MsixEntry.mk 0 0 true) s.ev.msix v { e with masked := false } }
  if (Tbl.get (fun _ => false) s.ev.pba v : Bool) then
    ({ s with ev.pba := Tbl.put (fun _ => false) s.ev.pba v false }).msixRaise v
  else s

/-- A PTM result (R517): the offset of the master, in 1/16 ns. HL_PTM takes it where it fits (log entry 6). -/
def ptmResult (s : State) (off : Int) : State :=
  let b := bFn 4
  let (img, s) := if off < 2 ^ 31 ∧ -(2 ^ 31) ≤ off then (ofSigned 32 off, s) else (s.freshWord.1.toNat % 2 ^ 32, s.freshWord.2)
  let s := (s.setF b Fld.HL_PTM_OFFSET img).setFlag b Fld.HL_PTM_VALID true
  let first := !s.hl.stepped
  let s := { s with hl.asked := false, hl.stepped := true }
  if s.locked then s
  else if first then ({ s with lw.slew := 0 }).stepTime (off / 16)
  else { s with lw.slew := off / 16 }

end State

/-- The PME message, among the messages sent (the model's own number). -/
def pmeMessage : Nat := 2 ^ 16

/-! ### What configuration space holds (R513, R517) -/

/-- Vendor, device, class code, subsystem vendor and subsystem identifiers; the revision is the stepping's. -/
def cfgVendor : Nat := 0x1F3D
def cfgDevice : Nat := 0xB1A0
def cfgClass : Nat := 0x120000
def cfgRevision : Nat := Config.revision
def cfgSubsystem : Nat × Nat := (0x1F3D, 0x0001)
/-- Capabilities: MSI-X vectors, the largest payload and read request in bytes, the bits of a tag, the Completion Timeout ranges A to D, PTM
Local Clock Granularity in ns. -/
def cfgVectors : Nat := 2048
def cfgMaxPayload : Nat := 512
def cfgMaxReadRequest : Nat := 4096
def cfgTagBits : Nat := 10
def cfgTimeoutRanges : Nat := 0xF
def cfgPtmGranularity : Nat := 1

/-! ### The rows -/

/-- HOST_LINK_TRAINED (R509, R520): rate code 1 to 4, 1, 2, 4 or 8 lanes. -/
def execHostLinkTrained (rate lanes : Fin 4) (s : State) : Host.Outcome State Fault Refusal :=
  .next (if s.flag (bFn 4) Fld.HL_STATUS_PERST then s else s.linkTrained (rate + 1) (2 ^ lanes.val))

/-- HOST_LINK_DOWN (R520). -/
def execHostLinkDown (s : State) : Host.Outcome State Fault Refusal :=
  .next (if s.getF (bFn 4) Fld.HL_STATUS_SPEED = 0 then s else (s.setF (bFn 4) Fld.HL_STATUS_SPEED 0).irq 3202)

/-- D3HOT_ENTRY (R510, R511): the function's power state and PME_En; nothing else of the module changes. -/
def execD3hotEntry (pmeEn : Bool) (s : State) : Host.Outcome State Fault Refusal :=
  .next (s.ifConfig { s with hl.d3hot := true, hl.pmeEn := pmeEn, hl.wake := s.hl.wake && pmeEn })

/-- D0_RETURN (R511). -/
def execD0Return (s : State) : Host.Outcome State Fault Refusal := 
  .next (s.ifConfig { s with hl.d3hot := false, hl.wake := false })

/-- WAKE_PME (R3, R511): a wake that an enabled entry covers is pending. -/
def execWakePme (entry : Fin 32) (s : State) : Host.Outcome State Fault Refusal :=
  .next (if s.hostUp && s.hl.d3hot && s.hl.pmeEn && !s.hl.wake && s.wakeCovers entry then
      { s with hl.wake := true, ev.sent := pmeMessage :: s.ev.sent }
    else s)

/-- BAR2_ACCESS (R513, R515, R557, R578): memory is read or written; a target outside the tiers is refused, a poisoned write discarded and
logged; before the tiers have been cleared a read completes with Completer Abort. -/
def execBar2Access (off : BitVec 36) (write poisoned : Bool) (len : BitVec 13) (data : List Byte) (s : State) :
    Host.Outcome State Fault Refusal :=
  let a := s.bar2Addr off.toNat
  let n := if write then data.length else len.toNat
  .next (if !s.barsDecode || n == 0 || decide (2 ^ s.hl.bar2 < off.toNat + n) then s
    else if !s.memRuns a n then s
    else if write && poisoned then ({ s with hl.aerPoisoned := true }).count (bFn 4) .HL_POISON_RX
    else if !s.inTiers a n then
      let s := s.count (bFn 4) .HL_BAR2_BAD
      if write then s else { s with hl.data := none }
    else if write then s.setDevBytes a data
    else if !s.rot.cleared then { s with hl.data := none }
    else
      let bad := s.badIn a n
      if bad.isEmpty then { s with hl.data := some (s.devBytes a n) }
      else { s.readBad bad 0xFFFFFFFF 0 0 with hl.data := none })

/-- HL_BAR2_WRITE (R510, R519, R520): by the host while BAR0 decodes, or by the control complex. -/
def execHlBar2Write (w : Writer) (value : BitVec 64) (s : State) : Host.Outcome State Fault Refusal :=
  .next (if (w == .host && s.barsDecode) || s.controls w then (s.bar2Write value.toNat).2 else s)

/-- BAR2_RESIZE (R515, R518): 2^log GiB; BASE is clamped to the new alignment. -/
def execBar2Resize (log : Fin 7) (s : State) : Host.Outcome State Fault Refusal :=
  .next (s.ifConfig (({ s with hl.bar2 := 30 + log.val }).bar2Write (s.reg (bFn 4) .HL_BAR2).toNat).2)

/-- MSIX_UNMASK (R510, R516): the write reaches the module while BAR0 decodes. -/
def execMsixUnmask (vector : Fin 2048) (s : State) : Host.Outcome State Fault Refusal :=
  .next (if s.barsDecode then s.msixUnmask vector else s)

/-- PTM_REQUEST (R3, R517): with PTM enabled, over the link. -/
def execPtmRequest (s : State) : Host.Outcome State Fault Refusal :=
  .next (if s.hostUp && s.hl.ptmOn then { s with hl.asked := true } else s)

/-- PTM_RESULT (R517): master minus device, signed, in 1/16 ns. -/
def execPtmResult (offset : BitVec 72) (s : State) : Host.Outcome State Fault Refusal :=
  .next (if s.hostUp && s.hl.asked then s.ptmResult offset.toInt else s)

def State.hlClear (s : State) : State :=
  s.clearRegs (bFn 4) 0 [.HL_BAR2_BAD, .HL_CPL_TIMEOUT, .HL_RETRAIN, .HL_POISON_RX]

/-- HL_CNT_CLEAR (R520). -/
def execHlCntClear (w : Writer) (s : State) : Host.Outcome State Fault Refusal :=
  .next (ifControl w s s.hlClear)

end Sys2Proof.Machine
end

