-- ==== Sys2Proof/Machine/Kci.lean ====
section
/-! DEFINITION. The commands of the command interface (R471 to R479): jobs, rings, queues, counters, tables. REG_READ and REG_WRITE
stand in RegWrite.lean. -/

namespace Sys2Proof.Machine

/-! ### Ring-order tables (R457, R472, R476) -/

/-- A module's ring at a level is the one of `ref`: it agrees with it at every other level. -/
def sharesRing (m : LwMap) (ref l id : Nat) : Bool :=
  State.isMember m id && (upFrom 0 3).all fun j => j == l || State.position m id j == State.position m ref j

/-- The seat a table entry takes in the ring of `ref` at a level: its own, or that of the member it backs. -/
def seatOf (m : LwMap) (ref l : Nat) (backs : List (Nat × Option Nat)) (id : Nat) : Option Nat :=
  if sharesRing m ref l id then some (State.position m id l)
  else (backs.find? fun b => b.2 == some id && sharesRing m ref l b.1).map fun b => State.position m b.1 l

/-- Numbers strictly rising. -/
def rising : List Nat → Bool
  | a :: b :: r => decide (a < b) && rising (b :: r)
  | _ => true

namespace State

/-- A ring-order table's entries, level by level: member with its backup, which is read at level 0 only (R472). -/
def ringTable (s : State) (a : Nat) (sizes : List Nat) : List (List (Nat × Option Nat)) :=
  (upFrom 0 sizes.length).map fun l =>
    let lo := (sizes.take l).foldl (· + ·) 0
    (upFrom lo (sizes.getD l 0)).map fun k =>
      let e := s.devNat (a + 8 * k) 8
      (bitsOf e 0 16, if l = 0 ∧ e.testBit 32 then some (bitsOf e 16 16) else none)

/-- The module of the map whose rings this module takes part in: itself, or the member it backs. -/
def ringRef (s : State) (m : LwMap) (rings : List (List (Nat × Option Nat))) : Option Nat :=
  if isMember m s.selfModule then some s.selfModule
  else ((rings.getD 0 []).find? fun e => e.2 == some s.selfModule && isMember m e.1).map Prod.fst

/-- Check 3 of R472: the map's rings have formed, the table lists them in order, every die is present. -/
def ringsOk (s : State) (levels : Nat) (rings : List (List (Nat × Option Nat))) : Bool :=
  match s.lw.map with
  | none => false
  | some m =>
    decide (levels ≤ m.levels) && (upFrom 0 4).all s.diePresent
      && match s.ringRef m rings with
        | none => false
        | some ref =>
          (ref != s.selfModule || (upFrom 0 levels).all fun l => (s.lwLevel l).valid)
            && (upFrom 0 levels).all fun l =>
              (rings.getD l []).map (fun e => seatOf m ref l [] e.1) == (upFrom 0 (m.n.getD l 1)).map some

/-- The same check against the members that remain up (R476): every entry is a member of the formed ring, or the backup in its member's
seat, in the order of the seats; this module is among them or a backup. -/
def reformOk (s : State) (rings : List (List (Nat × Option Nat))) : Bool :=
  match s.lw.map with
  | none => false
  | some m =>
    let backs := s.job.rings.getD 0 []
    let ref := if isMember m s.selfModule then some s.selfModule
      else ((backs ++ rings.getD 0 []).find? fun e => e.2 == some s.selfModule && isMember m e.1).map Prod.fst
    (upFrom 0 4).all s.diePresent && match ref with
      | none => false
      | some ref => (upFrom 0 s.levels).all fun l =>
        let es := (rings.getD l []).map Prod.fst
        let seats := es.map (seatOf m ref l backs)
        (isMember m s.selfModule → (s.lwLevel l).valid) && seats.all Option.isSome && rising (seats.filterMap id)
          && !es.isEmpty && (es.contains s.selfModule || (rings.getD 0 []).any fun e => e.2 == some s.selfModule)

/-- The ring registers of a level (R427): this module's position, the ring's size, its neighbours; zero where it has none. -/
def setRing (s : State) (l : Nat) (members : List Nat) : State :=
  let n := members.length
  let p := members.idxOf s.selfModule
  s.setReg (bRing l) .RL_POS 0 (BitVec.ofNat 64 (if p < n then
    p + (n - 1) * 2 ^ 16 + members.getD ((p + 1) % n) 0 * 2 ^ 32 + members.getD ((p + n - 1) % n) 0 * 2 ^ 48 else 0))

/-- RL_POS of every level and RL_BACKUP of level 0 (R412, R427); a backup has no position. -/
def setRings (s : State) (rings : List (List (Nat × Option Nat))) : State :=
  let s := s.foldS (upFrom 0 3) fun s l => s.setRing l ((rings.getD l []).map Prod.fst)
  let zero := rings.getD 0 []
  let mine := (zero.find? fun e => e.1 == s.selfModule).bind Prod.snd
  let backs := if zero.any fun e => e.1 == s.selfModule then none
    else (zero.find? fun e => e.2 == some s.selfModule).map Prod.fst
  s.setReg (bRing 0) .RL_BACKUP 0 (BitVec.ofNat 64
    ((match mine with | some b => b + 2 ^ 16 | none => 0) + match backs with | some b => 2 ^ 17 + b * 2 ^ 18 | none => 0))

/-- Every engine's timer toward its predecessors starts now (R420). -/
def hearAll (s : State) : State :=
  { s with ex.heard := Tbl.mapEntries (fun _ => 0) ((upFrom 0 16).map fun k => (k, s.time)) fun _ t => t }

/-! ### JOB_OPEN (R471, R472) -/

/-- A valid bucket passes R401. -/
def bucketOk (s : State) (b : BucketD) : Bool :=
  let parts := (upFrom 0 12).filter b.mask.testBit
  let pis := [0, b.parity]
  decide (b.len ≠ 0) && decide (b.mask ≠ 0) && parts.all s.regionPresent
    && [b.partBase, b.contrib, b.result, b.carryBase, b.staging].all (· % 64 == 0)
    && pis.all (fun p => parts.all (fun r => s.inTiers (b.partBase + p + r * b.partStride) (4 * b.len))
      && s.inTiers (b.contrib + p) (4 * b.len) && s.inTiers (b.result + p) (4 * b.len) && s.inTiers (b.countAt + p) 4)
    && s.inFast b.carryBase (64 + 4 * b.len) && s.inFast b.staging (16 * (4 * b.q))
    && b.countAt % 4 == 0 && counterFieldOk b.reduced

/-- The payload of JOB_OPEN with its fields in force, and how many were clamped. -/
def openPayload (s : State) (m : Nat) : List Byte × Nat :=
  let levels := clampTo 1 3 (bitsOf (s.req m 0x0C 4) 0 3)
  let brk := clampTo 1 8191 (s.req m 0x44 2)
  let dl := max 1 (s.req m 0x46 2)
  let upd := (upFrom 0 18).map fun k => s.req m (0x58 + 4 * k) 4
  let used := ((upFrom 0 18).filter fun k => upd.getD k 0 != 0xFFFFFFFF).foldl (fun n k => n + 2 ^ k) 0
  let mask := s.req m 0xA0 4 &&& used
  let claims := min 65536 (s.req m 0x38 4)
  let d (a b : Nat) : Nat := if a = b then 0 else 1
  (leBytes 8 (s.req m 0 8) ++ leBytes 4 (s.req m 8 4) ++ leBytes 4 (levels + bitsOf (s.req m 0x0C 4) 3 1 * 8)
    ++ leBytes 8 (s.req m 0x10 8 / 4096 * 4096)
    ++ (upFrom 0 4).flatMap (fun k => leBytes 8 (s.req m (0x18 + 8 * k) 8))
    ++ leBytes 4 claims ++ leBytes 4 (s.req m 0x3C 4 % 2 ^ 22) ++ leBytes 4 (s.req m 0x40 4) ++ leBytes 2 brk ++ leBytes 2 dl
    ++ (upFrom 0 4).flatMap (fun k => leBytes 4 (s.req m (0x48 + 4 * k) 4))
    ++ upd.flatMap (leBytes 4) ++ leBytes 4 mask,
   d levels (bitsOf (s.req m 0x0C 4) 0 3) + d (s.req m 0x10 8 % 4096) 0 + d claims (s.req m 0x38 4) + d brk (s.req m 0x44 2)
    + d dl (s.req m 0x46 2) + d mask (s.req m 0xA0 4))

/-- The queues a job names: dispatcher, transmit engines, update engines. -/
def openQueues (p : List Byte) : Nat × List Nat × List (Nat × Nat) :=
  let n (lo w : Nat) : Nat := leNat (cut p lo w)
  (n 0x40 4, (upFrom 0 4).map fun d => n (0x48 + 4 * d) 4,
   ((upFrom 0 18).map fun k => (k, n (0x58 + 4 * k) 4)).filter fun e => e.2 != 0xFFFFFFFF)

/-- A queue is free, with its ring set and empty (R472, R481). -/
def openQueueOk (s : State) (q : Nat) : Bool :=
  decide (q < 262144) && decide (10752 ≤ q % 65536) && (s.queue q).log2 != 0 && s.queueEmpty q

/-- The refusal of JOB_OPEN, by the checks 2 to 5 of R472 in order. -/
def openRefusal (s : State) (p : List Byte) (rings : List (List (Nat × Option Nat))) (claims : List Nat) : Option Nat :=
  let n (lo w : Nat) : Nat := leNat (cut p lo w)
  let levels := n 0x0C 4 % 8
  let entries := ((upFrom 0 levels).map fun l => ((s.lw.map.map LwMap.n).getD []).getD l 1).foldl (· + ·) 0
  let (exq, lwq, updq) := openQueues p
  let all := exq :: lwq ++ updq.map Prod.snd
  if !([n 0x18 8, n 0x20 8, n 0x28 8, n 0x30 8].all (· % 64 == 0) && s.inTiers (n 0x18 8) (8 * entries)
      && s.inFast (n 0x20 8) 32768 && s.inFast (n 0x28 8) 131072 && s.inFast (n 0x30 8) (8 * n 0x38 4)
      && claims.all (fun c => counterOk (c % 2 ^ 22)) && (!(n 0x0C 4).testBit 3 || counterOk (n 0x3C 4))) then some 4
  else if !s.ringsOk levels rings then some 5
  else if !(upFrom 0 256).all (fun k =>
      let b := bucketOf (s.devBytes (n 0x20 8 + 128 * k) 128)
      !b.valid || s.bucketOk b) then some 6
  else if !(all.all s.openQueueOk && (lwq.zip (upFrom 0 4)).all (fun e => e.1 / 65536 == e.2) && decide all.Nodup) then some 7
  else none

/-- A queue bound to a consumer for the job: it is in phase AUX until its first marker (R485). -/
def bindJob (s : State) (q kind unit : Nat) : State :=
  s.modQueue q fun c => { c with kind := kind, unit := unit, job := true, segs := [(0, 7, c.running.length)], marked := false }

/-- Every effect of job open (R61, R144, R148, R210, R309, R356, R389, R398, R403, R412, R417, R418, R425 to R427, R448, R471). -/
def openJob (s : State) (p : List Byte) (rings : List (List (Nat × Option Nat))) (claims : List Nat) : State :=
  let n (lo w : Nat) : Nat := leNat (cut p lo w)
  let levels := n 0x0C 4 % 8
  let first := n 8 4
  let (exq, lwq, updq) := openQueues p
  let s := s.fixStacks.setSeed (BitVec.ofNat 64 (n 0 8))
  let last := (BitVec.ofNat 32 first - 1).toNat
  let s := s.setReg bHub .FR_SEAL 0 (BitVec.ofNat 64 (last + last * 2 ^ 32))
  let s := (s.setF bHub Fld.FR_CTRL_BREAK_MS (n 0x44 2)).setF bHub Fld.FR_CTRL_DEADLINE_US (n 0x46 2)
  let s := (s.setF bHub Fld.FR_STATUS_LEVELS levels).setRings rings
  let s := s.setF bHub Fld.FR_STATUS_BACKUP (s.getF (bRing 0) Fld.RL_BACKUP_IS_BACKUP)
  let s := s.setF bPackage Fld.HW_MAP_BASE (n 0x10 8 / 4096)
  let s := s.foldS claims fun s c => s.claim (c % 2 ^ 22) (bitsOf c 22 28)
  let s := s.foldS ((s.tile.tiles.filter fun e => !e.2.icache.isEmpty || e.2.reelOn).map Prod.fst) fun s t =>
    (s.icInvalidate t).setReel t false
  let s := { s with smp := Tbl.mapEntries (fun _ => Sampler.reset) s.smp fun _ v => { v with cache := [] } }
  let s := s.bindJob exq 6 0
  let s := s.foldS ((upFrom 0 4).zip lwq) fun s e => s.bindJob e.2 7 e.1
  let s := s.foldS updq fun s e => s.bindJob e.2 5 e.1
  let buckets := (upFrom 0 256).filterMap fun k =>
    let b := s.devBytes (n 0x20 8 + 128 * k) 128
    if (bucketOf b).valid then some (k, b) else none
  ({ s with
    job := { s.job with
      phase := 1, firstStep := first, sealCtr := if (n 0x0C 4).testBit 3 then some (n 0x3C 4) else none
      digest := n 0x28 8, exq := some exq, lwq := lwq, updq := updq.map Prod.snd
      named := (upFrom 0 18).filter (n 0xA0 4).testBit, rings := rings, buckets := buckets }
    ex := Exch.reset }).hearAll

/-! ### Suspension (R473) -/

/-- The hold fields of every engine and tile, with their blocks. -/
def holdFields : List (Blk × Fld) :=
  (upFrom 0 672).flatMap (fun n => [(bCluster n, Fld.SMP_CTRL_HOLD), (bCluster n, Fld.GS_CTRL_HOLD)])
    ++ (upFrom 0 12).map (fun r => (bRegion r, Fld.EMB_CTRL_HOLD)) ++ (upFrom 0 48).map (fun e => (bDma e, Fld.DMA_CTRL_HOLD))
    ++ (upFrom 0 18).map (fun u => (bUpd u, Fld.UPD_CTRL_HOLD)) ++ (upFrom 0 10752).map fun t => (bTile t, Fld.SEQ_CTRL_HALT_ISSUE)

/-- The holds of R473 set; `job.holds` keeps those that stood before, the dispatcher's as key 0. -/
def holdAll (s : State) : State :=
  let was := ((holdFields.filter fun e => s.flag e.1 e.2).map fun e => rkey e.1 e.2.reg 0)
    ++ if s.flag bHub Fld.FR_CTRL_HOLD then [0] else []
  (({ s with job.holds := was }).foldS holdFields fun s (e : Blk × Fld) => s.setFlag e.1 e.2 true).frHold true

/-- The holds that suspension set are cleared. -/
def releaseHolds (s : State) : State :=
  let was := s.job.holds
  let s := ({ s with job.holds := [] }).foldS (holdFields.filter fun (e : Blk × Fld) => !was.contains (rkey e.1 e.2.reg 0)) fun s (e : Blk × Fld) =>
    s.setFlag e.1 e.2 false
  if was.contains 0 then s else s.frHold false

/-! What is in flight in a unit (R145, R229, R259, R288, R332, R374, R425). -/

def smpFlight (s : State) (n : Nat) : Bool := !(s.sampler n).exps.isEmpty
def gsFlight (s : State) (n : Nat) : Bool := (s.gather n).window.any fun e => e.issued
def embFlight (s : State) (r : Nat) : Bool :=
  !(s.embReg r).active.isEmpty || !(s.embReg r).inbox.isEmpty || !(s.embReg r).owed.isEmpty
    || s.emb.any fun e => e.2.active.any fun k => k.todo.any fun q => q.owner == r
def dmaFlight (s : State) (e : Nat) : Bool := !(s.dmaEng e).active.isEmpty
def frFlight (s : State) : Bool :=
  s.ex.bufs.any (fun b => !b.rx.isEmpty) || s.lw.ports.any fun e => e.2.tx.any fun k => k.cls == 3
/-- Nothing is outstanding in a tile but instructions of threads that wait with cause 5. -/
def tileQuiet (s : State) (t : Nat) : Bool := (s.tileOf t).ops.all fun o => (s.thr t o.ctx).hold == 5

/-- Every unit reports held or halted (R473). -/
def allHeld (s : State) : Bool :=
  s.smp.all (fun e => !s.smpFlight e.1) && s.gs.all (fun e => !s.gsFlight e.1) && s.emb.all (fun e => !s.embFlight e.1)
    && s.ms.dma.all (fun e => !s.dmaFlight e.1) && !s.frFlight && s.tile.tiles.all fun e => s.tileQuiet e.1

/-! ### Tiers cleared (R474) -/

/-- Bytes of the fast tier, of the slow tier, read as zero again. -/
def clearTier (s : State) (slow : Bool) : State :=
  let (lo, hi) := if slow then (slowBase, slowTop) else (0, 12 * 2 ^ 35)
  { s with
    mem.dev := Memory.clearRange s.mem.dev lo hi
    mem.bad := s.mem.bad.filter fun k => decide (64 * k < lo) || decide (hi ≤ 64 * k) }

def clearTiers (s : State) (flags : Nat) : State :=
  let s := if flags.testBit 0 then s.clearTier false else s
  if flags.testBit 1 then s.clearTier true else s

/-! ### RING_REFORM (R421, R476) -/

/-- The next descriptors of an engine's queue that are of a step without a verdict stop as ABORTED and give up their slots. -/
def abortQueued (s : State) (u q : Nat) : Nat → State
  | 0 => s
  | fuel + 1 =>
    let c := s.queue q
    let n := c.cons + BitVec.ofNat 32 c.running.length
    match c.taken.head? <|> (if c.prod = n then none else some (n.toNat, s.devBytes (c.slot n.toNat) 64)) with
    | none => s
    | some (m, d) =>
      if !s.inWindow (dStep d) || !s.undecided (dStep d) then s
      else (((s.updAbort u 3 ⟨m, d, [], [], false, false, 0, 0, [], 0⟩).descStart q m d).descDone q m).abortQueued u q fuel

/-- Update descriptors of a step without a verdict stop as ABORTED and give up their slots: those of the engine's batch, then those in its
queue. -/
def reformUpd (s : State) (u : Nat) : State :=
  let g := s.updEng u
  let s := if g.batch.isEmpty || !s.undecided g.step then s
    else
      let s := s.foldS g.batch fun s k =>
        let s := s.updAbort u 3 k
        match s.updQueue u with
        | some q => s.descDone q k.seq
        | none => s
      (s.modUpd u fun g => { g with batch := [], nf := false, reported := false, applying := false }).orphanWaits (· == .engine (updAgent u % 2 ^ 28))
  match s.updQueue u with
  | some q => s.abortQueued u q ((s.queue q).prod - (s.queue q).cons).toNat
  | none => s

/-- A bucket of a step without a verdict is exchanged again from its retained contribution under its retained decision. -/
def rerun (s : State) (b : ExBuf) : State :=
  let s := s.count bHub .FR_RERUNS
  let s := s.modBuf b.step b.bucket fun b => { b with
    rx := [], sent := [], got := [], park := [], begun := [], told := [], owned := [], final := [], nf := false, total := 0, complete := false
    since := if b.decision = 0 then none else b.since }
  if b.decision = 0 ∨ s.isBackup then s else s.startQuarters b.step b.bucket

/-- A verdict or seal packet that came while the exchange was halted counts in the rounds that restart where its sender had re-formed its
rings; a final verdict always does (R421; log entry 127). -/
def keptPacket (fresh : List Nat) (k : List Byte × Nat) : Bool :=
  let p := Packet.decode k.1
  fresh.contains k.2 || (p.bits 64 8 == 4 && leNat ((p.payload.drop 12).take 1) == 1)

/-- The new rings take force: rounds restart without what the rounds before had brought, steps without a verdict are exchanged again,
verdicts go to the successors, one of which may have rejoined in its own position (log entry 106), packets that came while the exchange was
halted are acted on. -/
def reformRings (s : State) (rings : List (List (Nat × Option Nat))) (fresh : List Nat) : State :=
  let s := { s with job.rings := rings }.setRings rings
  let s := s.setF bHub Fld.FR_STATUS_BACKUP (s.getF (bRing 0) Fld.RL_BACKUP_IS_BACKUP)
  let s := ({ s with ex.halted := false }).hearAll
  let sealing := s.ex.rounds.filter fun r => r.isSeal && r.started && !r.ended
  let s := { s with
    ex.rounds := s.ex.rounds.filter fun r => r.ended && !(s.undecided r.step)
    ex.flags := s.ex.flags.filter fun f => !(s.undecided f.1) }
  let s := s.foldS (upFrom 0 18) reformUpd
  let s := s.foldS (s.ex.bufs.filter fun b => s.inWindow b.step && s.undecided b.step) rerun
  let s := s.foldS sealing fun s r => s.roundStart true r.step true
  let s := s.foldS (upFrom 0 s.levels) fun s l =>
    if s.ringSize l = 1 then s
    else s.foldS s.ex.verdicts fun s v =>
      s.sendOn 0 l 1 [s.roundPacket false v.1 l v.2 s.selfModule 0 1 (s.getF (bRing l) Fld.RL_POS_SUCC)]
  let mail := (s.ex.mail.zip (upFrom 0 s.ex.mail.length)).filter (keptPacket fresh)
  ({ s with ex.mail := [] }).foldS mail fun s k => s.roundPacketIn (Packet.decode k.1)

/-! ### Reflections (R285, R479) -/

/-- The entries of a reflect command: table address, identifier, row. -/
def reflEntries (s : State) (m : Nat) : List (Nat × Nat × Nat) :=
  (upFrom 0 (s.reqCount m 4 16 251)).map fun k =>
    let e := s.req m (4 + 16 * k) 16
    (bitsOf e 0 52, bitsOf e 64 16, bitsOf e 80 40)

/-- Entries that reflections waiting for the boundary will take. -/
def reflWaiting (s : State) (r : Nat) : Nat :=
  (s.job.due.map fun d => match d with
    | .reflect true q es _ => if q = r then es.length else 0
    | _ => 0).foldl (· + ·) 0

end State

/-! ### The rows -/

/-- MAP_LOAD (R446, R457, R561): the map is checked, takes force and is measured. -/
def execMapLoad (mailbox : MailboxId) (s : State) : Host.Outcome State Fault Refusal :=
  let m := mailbox.val
  .next (s.kciRun m ⟨0x10, [0], false, false⟩ fun s =>
    let a := s.req m 0 8
    let b := s.devBytes a mapBytes
    if a % 64 ≠ 0 ∨ !s.inTiers a mapBytes then .refused 4
    else if !mapOk b then .refused 5
    else .ok (leBytes 8 a) 0 ((s.installMap (mapOf b)).extend 4 (digest 64 b)))

/-- JOB_OPEN (R471, R472). -/
def execJobOpen (mailbox : MailboxId) (s : State) : Host.Outcome State Fault Refusal :=
  let m := mailbox.val
  .next (s.kciRun m ⟨0x20, [0], true, false⟩ fun s =>
    let (p, n) := s.openPayload m
    let levels := leNat (cut p 0x0C 4) % 8
    let rings := s.ringTable (leNat (cut p 0x18 8)) ((upFrom 0 levels).map fun l => ((s.lw.map.map LwMap.n).getD []).getD l 1)
    let claims := (upFrom 0 (leNat (cut p 0x38 4))).map fun k => s.devNat (leNat (cut p 0x30 8) + 8 * k) 8
    match s.openRefusal p rings claims with
    | some st => .refused st
    | none => .ok p n (s.openJob p rings claims))

/-- JOB_SUSPEND (R473): every engine is held and every tile halted; the command answers once all report so. -/
def execJobSuspend (mailbox : MailboxId) (s : State) : Host.Outcome State Fault Refusal :=
  let m := mailbox.val
  let done (s : State) : State :=
    if s.job.busy = some m ∧ (s.mb m).opcode = 0x21 ∧ s.allHeld then
      ({ s with job.busy := none, job.phase := 2 }).answer m 0 []
    else s
  .next (if s.job.busy = some m then done s
    else done (s.kciRun m ⟨0x21, [1], true, false⟩ fun s => .later 0 ({ s with job.busy := some m }).holdAll))

/-- JOB_RESUME (R473). -/
def execJobResume (mailbox : MailboxId) (s : State) : Host.Outcome State Fault Refusal :=
  .next (s.kciRun mailbox ⟨0x22, [2], true, false⟩ fun s => .ok [] 0 ({ s with job.phase := 1 }).releaseHolds)

/-- JOB_CLOSE (R474). -/
def execJobClose (mailbox : MailboxId) (s : State) : Host.Outcome State Fault Refusal :=
  let m := mailbox.val
  .next (s.kciRun m ⟨0x23, [1, 2], true, false⟩ fun s =>
    let flags := s.req m 0 4 % 4
    .ok (leBytes 4 flags) 0 ((s.jobClose 3).clearTiers flags))

/-- RESEED (R28, R475). -/
def execReseed (mailbox : MailboxId) (s : State) : Host.Outcome State Fault Refusal :=
  let m := mailbox.val
  .next (s.kciRun m ⟨0x24, [1], false, false⟩ fun s =>
    let seed := BitVec.ofNat 64 (s.req m 0 8)
    let step := s.req m 8 4
    let before := BitVec.ofNat 32 step - 1
    let sealed := BitVec.ofNat 32 (s.getF bHub Fld.FR_SEAL_LOCAL)
    if seqBefore before sealed then .refused 2
    else if before = sealed then .ok (leBytes 8 seed.toNat ++ leBytes 4 step) 0 (s.setSeed seed)
    else
      let s := s.compared bankHub sealed before
      .later 0 (s.addDue (.reseed seed step m)))

/-- RING_REFORM (R421, R476): `order` tells the entries of each level's ring that remain and which packets kept are of re-formed rings (log
entries 5 and 127). -/
def execRingReform (mailbox : MailboxId) (order : Reform) (s : State) : Host.Outcome State Fault Refusal :=
  let m := mailbox.val
  .next (s.kciRun m ⟨0x25, [1, 2], true, false⟩ fun s =>
    let a := s.req m 0 8
    let sizes := order.sizes.take s.levels
    let rings := s.ringTable a sizes
    if a % 64 ≠ 0 ∨ !s.inTiers a (8 * sizes.foldl (· + ·) 0) then .refused 4
    else if !s.reformOk rings then .refused 5
    else .ok (leBytes 8 a) 0 (s.reformRings rings order.fresh))

/-- QUEUE_BIND (R483). -/
def execQueueBind (mailbox : MailboxId) (s : State) : Host.Outcome State Fault Refusal :=
  let m := mailbox.val
  .next (s.kciRun m ⟨0x30, [0, 1, 2], false, true⟩ fun s =>
    let d := s.req m 0 16
    let q := bitsOf d 0 18
    let log := State.ringLog2 (bitsOf d 18 5)
    let mode := bitsOf d 23 1
    let (kind, unit) := State.bindKind q (bitsOf d 32 4) (bitsOf d 36 24)
    let base := if log = 0 then 0 else bitsOf d 64 52
    if !s.queueEmpty q || (s.queue q).job then .refused 7
    else if log ≠ 0 ∧ (base % 4096 ≠ 0 ∨ !s.mapped base (64 * 2 ^ log)) then .refused 4
    else
      let s := s.modQueue q fun c => { c with
        base := base, log2 := log, mode := mode, kind := kind, unit := unit, prod := 0, cons := 0, clamps := 0, refused := 0
        overflow := 0, segs := [(0, 7, c.running.length)], marked := false }
      .ok (leBytes 16 (q + log * 2 ^ 18 + mode * 2 ^ 23 + kind * 2 ^ 32 + unit * 2 ^ 36 + base * 2 ^ 64))
        (State.logClamps (bitsOf d 18 5) + State.kindClamps q (bitsOf d 32 4) (bitsOf d 36 24)) (s.fwQueueLevel (q / 65536)))

namespace State

/-- One entry of COUNTER_OP: its completion word (R383, R477). -/
def counterOp (s : State) (m e : Nat) : Nat × State :=
  let c := bitsOf e 0 22
  let n := bitsOf e 32 32
  let agent := agentId (.host m 0 0)
  let seq := (s.mb m).seq
  let word (s : State) : Nat × State := (completion (s.counterOf c).value (if (s.counterOf c).abandoned then 3 else 0), s)
  match bitsOf e 22 3 with
  | 0 => s.syncAdd agent seq c n false
  | 1 => s.syncAdd agent seq c n true
  | 3 => word (s.claim c (bitsOf e 64 28))
  | 4 => word (s.abandon c)
  | 5 => word (s.clearFlags c)
  | 6 => word (s.setValue agent seq c n)
  | _ => s.syncRead c

end State

/-- COUNTER_OP (R477). -/
def execCounterOp (mailbox : MailboxId) (s : State) : Host.Outcome State Fault Refusal :=
  let m := mailbox.val
  .next (s.kciRun m ⟨0x40, [0, 1, 2], false, true⟩ fun s =>
    let es := (upFrom 0 (s.reqCount m 0 16 252)).map fun k => s.req m (16 * k) 16
    if es.any fun e => !counterOk (bitsOf e 0 22) then .refused 4
    else
      let r := es.foldl (fun (a : List Byte × State) e =>
        let (w, t) := a.2.counterOp m e
        (a.1 ++ leBytes 8 w, t)) ([], s)
      .ok r.1 (es.filter fun e => bitsOf e 22 3 == 7).length r.2)

/-- COUNTER_WAIT (R478). -/
def execCounterWait (mailbox : MailboxId) (s : State) : Host.Outcome State Fault Refusal :=
  let m := mailbox.val
  .next (s.kciRun m ⟨0x41, [0, 1, 2], false, true⟩ fun s =>
    let c := s.req m 0 4
    let n := s.req m 4 4
    let (vec, k) := clampN 128 2047 (s.req m 8 4)
    let cookie := s.req m 12 8
    let hosts := (s.sync.waits ++ s.sync.retry).filter fun w => match w.who with
      | .host .. => true
      | _ => false
    if !counterOk c then .refused 4
    else if 1920 ≤ hosts.length then .refused 1
    else
      let who : Waiter := .host m vec cookie
      .ok (leBytes 4 c ++ leBytes 4 n ++ leBytes 4 vec ++ leBytes 8 cookie) k (match s.syncWait who c n with
        | (some w, s) => s.complete who w
        | (none, s) => s))

/-- RANGE_SET (R320, R337, R479). -/
def execRangeSet (mailbox : MailboxId) (s : State) : Host.Outcome State Fault Refusal :=
  let m := mailbox.val
  .next (s.kciRun m ⟨0x50, [0, 1, 2], false, true⟩ fun s =>
    let (r, k0) := clampN 0 11 (s.req m 0 4)
    let (j, k1) := clampN 0 63 (s.req m 4 4)
    let (n, k2) := clampN 0 (64 - j) (s.reqCount m 8 16 64)
    let es := (upFrom 0 n).map fun k =>
      (j + k, s.req m (8 + 16 * k) 8 &&& 0x807FFFFFFFFFF000, s.req m (16 + 16 * k) 8 &&& 0x000FFFFFFFFFF000)
    .ok (leBytes 4 r ++ leBytes 4 j ++ es.flatMap fun e => leBytes 8 e.2.1 ++ leBytes 8 e.2.2) (k0 + k1 + k2)
      (s.foldS es fun s e =>
        (s.setReg (bSc r) .SC_RANGE_LO e.1 (BitVec.ofNat 64 e.2.1)).setReg (bSc r) .SC_RANGE_HI e.1 (BitVec.ofNat 64 e.2.2)))

/-- GROUP_WRITE (R353, R354, R479). -/
def execGroupWrite (mailbox : MailboxId) (s : State) : Host.Outcome State Fault Refusal :=
  let m := mailbox.val
  .next (s.kciRun m ⟨0x51, [0, 1, 2], false, true⟩ fun s =>
    let (u, k0) := clampN 0 17 (s.req m 0 4)
    let (i, k1) := clampN 0 4095 (s.req m 4 4)
    let (n, k2) := clampN 0 (4096 - i) (s.reqCount m 8 64 62)
    let r := (upFrom 0 n).foldl (fun (a : List Byte × Nat × State) k =>
      let v := s.req m (8 + 64 * k) 64
      let (c, t) := a.2.2.groupWrite u (i + k) v
      (a.1 ++ leBytes 64 (groupClamp v).1, a.2.1 + c, t)) ([], k0 + k1 + k2, s)
    .ok (leBytes 4 u ++ leBytes 4 i ++ r.1) r.2.1 r.2.2)

/-- REFLECT_ADD (R285, R468, R469, R479): the reflections wait for the next local seal; a table address that is misaligned or outside the
tiers is refused. -/
def execReflectAdd (mailbox : MailboxId) (s : State) : Host.Outcome State Fault Refusal :=
  let m := mailbox.val
  .next (s.kciRun m ⟨0x52, [1], false, true⟩ fun s =>
    let (r, k) := clampN 0 11 (s.req m 0 4)
    let es := s.reflEntries m
    if !es.all (fun e => s.tableNamed e.1) then .refused 4
    else if es.any fun e => decide (12 ≤ s.ownerOf (s.tableAt e.1) e.2.2) then .refused 8
    else if 16384 < (s.embReg r).dir.length + s.reflWaiting r + es.length then .refused 1
    else .later k (s.addDue (.reflect true r es m)))

/-- REFLECT_REMOVE (R285, R468, R469, R479). -/
def execReflectRemove (mailbox : MailboxId) (s : State) : Host.Outcome State Fault Refusal :=
  let m := mailbox.val
  .next (s.kciRun m ⟨0x53, [1], false, true⟩ fun s =>
    let (r, k) := clampN 0 11 (s.req m 0 4)
    if !(s.reflEntries m).all (fun e => s.tableNamed e.1) then .refused 4
    else .later k (s.addDue (.reflect false r (s.reflEntries m) m)))

end Sys2Proof.Machine
end

