-- ==== Sys2Proof/Machine/Sched.lean ====
section
/-! DEFINITION. The task scheduler and the control cores (R490 to R497, R506). -/

namespace Sys2Proof.Machine

/-- Inserted in order of a key, after entries of an equal one. -/
def insertBy (f : Nat → Nat) (x : Nat) : List Nat → List Nat
  | [] => [x]
  | y :: r => if f x < f y then x :: y :: r else y :: insertBy f x r

namespace State

def sthr (s : State) (t : Nat) : SchedT := Tbl.get (fun _ => SchedT.reset) s.sched.thr t
def modSthr (s : State) (t : Nat) (f : SchedT → SchedT) : State :=
  { s with sched.thr := Tbl.put (fun _ => SchedT.reset) s.sched.thr t (f (s.sthr t)) }

def tstate (s : State) (t : Nat) : Nat := s.getF (bFn 1) Fld.TS_THR0_STATE (4 * t)
def setTstate (s : State) (t v : Nat) : State := s.setF (bFn 1) Fld.TS_THR0_STATE v (4 * t)
def tprio (s : State) (t : Nat) : Nat := s.getF (bFn 1) Fld.TS_THR0_PRIO (4 * t)
def thome (s : State) (t : Nat) : Nat := s.getF (bFn 1) Fld.TS_THR0_HOME (4 * t)

def readyList (s : State) (c : Nat) : List Nat := Tbl.get (fun _ => []) s.sched.ready c
def setReady (s : State) (c : Nat) (l : List Nat) : State :=
  { s with sched.ready := Tbl.put (fun _ => []) s.sched.ready c l }

/-- The thread a core runs. -/
def runningOn (s : State) (c : Nat) : Option Nat :=
  (upFrom 0 256).find? fun t => s.tstate t == 2 && s.thome t == c

/-- The wait registered for a thread is withdrawn (R497). -/
def withdraw (s : State) (t : Nat) : State :=
  let mine (w : Waiter) : Bool := match w with
    | .control k _ => k == t
    | _ => false
  s.withdrawWaits mine

/-- A thread leaves READY: what it waited is added up (R506). -/
def endWait (s : State) (t : Nat) : State :=
  let n := s.time - (s.sthr t).since
  s.modSthr t fun v => { v with waited := v.waited + n, longest := max v.longest n }

/-- A thread leaves RUNNING: the interval is kept for the core's load, and counts as its running time (R492); a core left without a thread
to run enters idle. -/
def endRun (s : State) (t : Nat) : State :=
  let c := s.thome t
  let l := (Tbl.get (fun _ => []) s.sched.busy c ++ [((s.sthr t).since, s.time)]).filter fun e => decide (s.time ≤ e.2 + 100000000)
  let s := { s with sched.busy := Tbl.put (fun _ => []) s.sched.busy c l }
  let s := s.modSthr t fun v => { v with ran := v.ran + (s.time - v.since) }
  if (s.readyList c).isEmpty then { s with sched.alive := Tbl.put (fun _ => 0) s.sched.alive c s.time } else s

/-- A thread leaves the state it is in: its ready list, or its core. -/
def leaveState (s : State) (t : Nat) : State :=
  match s.tstate t with
  | 1 => (s.setReady (s.thome t) ((s.readyList (s.thome t)).erase t)).endWait t
  | 2 => s.endRun t
  | _ => s

/-- A thread placed in its core's ready list: at the tail of its priority, or at its head. -/
def placeReady (s : State) (t : Nat) (head : Bool) : State :=
  let l := s.readyList (s.thome t)
  let before := l.takeWhile fun u => if head then decide (s.tprio t < s.tprio u) else decide (s.tprio t ≤ s.tprio u)
  s.setReady (s.thome t) (before ++ t :: l.drop before.length)

/-- A thread enters its ready list, with the priority and home that SET gave it (R494, R496), or that of the core that serves its home
(R490): at the tail of its priority, or at its head. -/
def enterReady (s : State) (t : Nat) (head : Bool) : State :=
  let s := match (s.sthr t).next with
    | none => s
    | some (p, h) => (s.setF (bFn 1) Fld.TS_THR0_PRIO p (4 * t)).setF (bFn 1) Fld.TS_THR0_HOME h (4 * t)
  let s := s.setF (bFn 1) Fld.TS_THR0_HOME (s.servedBy (s.thome t)) (4 * t)
  let s := s.modSthr t fun v => { v with next := none, since := s.time }
  (s.setTstate t 1).placeReady t head

/-- A waiting thread becomes READY with a result (R495 to R497). -/
def ready (s : State) (t result : Nat) : State :=
  let s := (s.modSthr t fun v => { v with wake := none }).setF (bFn 1) Fld.TS_THR0_RESULT result (4 * t)
  s.enterReady t false

/-- The tick in force in ns. -/
def tickNs (s : State) : Nat := s.sched.tick * 1000

/-- A thread of the extension, while one is loaded (R491). -/
def extThread (s : State) (t : Nat) : Bool := s.rot.ext.isSome && decide (224 ≤ t)

/-- Where a command of a core is admitted (R496): 0 OK, 2 DENIED, 1 STATE. -/
def tsStatus (s : State) (core t : Nat) (from_ : List Nat) : Nat :=
  if s.rot.ext.isSome && ((core == 15) != decide (224 ≤ t)) then 2
  else if from_.contains (s.tstate t) then 0 else 1

/-- A scheduler command: its status in TS_RSP, its effect where it is admitted. -/
def tsCmd (s : State) (core t : Nat) (from_ : List Nat) (eff : State → State) : State :=
  let st := s.tsStatus core t from_
  let s := s.setF (bFn 1) Fld.TS_RSP_STATUS st core
  if st = 0 then eff s else s

/-- A priority as an extension's thread may have it (R491). -/
def extPrio (s : State) (t p : Nat) : Nat := if s.extThread t then min 15 p else p

def tsCreate (s : State) (core t p h : Nat) : State :=
  s.tsCmd core t [0] fun s =>
    let s := s.setF (bFn 1) Fld.TS_THR0_RESULT 0 (4 * t)
    let s := s.modSthr t fun _ => { SchedT.reset with next := some (s.extPrio t p, h) }
    s.enterReady t false

/-- A thread becomes FREE. -/
def tsFree (s : State) (t : Nat) : State :=
  (((s.leaveState t).withdraw t).setTstate t 0).modSthr t fun v => { v with wake := none, next := none, left := 0, ran := 0 }

def tsExit (s : State) (core t : Nat) : State := s.tsCmd core t [1, 2, 3, 4, 5] fun s => s.tsFree t

def tsDelay (s : State) (core t arg : Nat) : State :=
  (s.setReg (bFn 1) .TS_ARG core (BitVec.ofNat 64 arg)).tsCmd core t [1, 2] fun s =>
    ((s.leaveState t).setTstate t 3).modSthr t fun v => { v with wake := some arg, ran := 0 }

/-- BLOCK: a wait of agent kind 2, or on WAKE only; an invalid counter is DENIED (R612). -/
def tsBlock (s : State) (core t arg timeout : Nat) : State :=
  let s := s.setReg (bFn 1) .TS_ARG core (BitVec.ofNat 64 arg)
  if arg ≠ 2 ^ 64 - 1 ∧ !counterOk (bitsOf arg 0 22) then s.setF (bFn 1) Fld.TS_RSP_STATUS 2 core
  else s.tsCmd core t [2] fun s =>
    let wake := if timeout = 0 then none else some ((s.time / s.tickNs + timeout) * s.tickNs)
    let s := ((s.leaveState t).setTstate t 4).modSthr t fun v => { v with wake := wake, ran := 0 }
    if arg = 2 ^ 64 - 1 then s
    else
      let who : Waiter := .control t (s.getF (bFn 0) Fld.CC_CORE_PHYS (s.thome t))
      match s.syncWait who (bitsOf arg 0 22) (bitsOf arg 22 32) with
      | (some w, s) => s.complete who w
      | (none, s) => s

def tsWake (s : State) (core t : Nat) : State :=
  s.tsCmd core t [3, 4] fun s => (s.withdraw t).ready t 1

def tsSuspend (s : State) (core t : Nat) : State :=
  s.tsCmd core t [1, 2, 3, 4, 5] fun s =>
    if s.tstate t = 5 then s
    else ((s.modSthr t fun v => { v with left := s.tstate t }).leaveState t).setTstate t 5

/-- A core runs a thread. -/
def runThread (s : State) (c t : Nat) : State :=
  let s := (s.setTstate t 2).modSthr t fun v => { v with since := s.time }
  { s with sched.alive := Tbl.put (fun _ => 0) s.sched.alive c s.time }

/-- A core may run a thread of its lists now. -/
def coreFree (s : State) (c : Nat) : Bool :=
  s.pwr.cc == 0 && !s.coreGone c && (s.stackOf c).isEmpty && !s.wakePending

/-- RESUME: the state it left. A thread that was READY enters its ready list; one that was RUNNING runs again where its core runs none, and
else goes to the head of its priority, as one preempted (log entry 128). -/
def tsResume (s : State) (core t : Nat) : State :=
  s.tsCmd core t [5] fun s =>
    let l := (s.sthr t).left
    let s := s.modSthr t fun v => { v with left := 0 }
    if l = 1 then s.enterReady t false
    else if l = 2 then
      (if (s.runningOn (s.thome t)).isNone && s.coreFree (s.thome t) then s.runThread (s.thome t) t else s.enterReady t true)
    else s.setTstate t l

def tsSet (s : State) (core t p h : Nat) : State :=
  s.tsCmd core t [1, 2, 3, 4, 5] fun s => s.modSthr t fun v => { v with next := some (s.extPrio t p, h) }

def tsYield (s : State) (core t : Nat) : State := 
  s.tsCmd core t [2] fun s => ((s.endRun t).modSthr t fun v => { v with ran := 0 }).enterReady t false

/-- A written TS_CMD (R496): OP 0 and 10 to 15 do nothing. -/
def tsCommand (s : State) (core v : Nat) : State :=
  let t := bitsOf v 4 8
  let p := bitsOf v 12 5
  let h := bitsOf v 17 4
  let arg := (s.reg (bFn 1) .TS_ARG core).toNat
  match v % 16 with
  | 1 => s.tsCreate core t p h
  | 2 => s.tsExit core t
  | 3 => s.tsDelay core t arg
  | 4 => s.tsBlock core t arg (bitsOf v 21 11)
  | 5 => s.tsWake core t
  | 6 => s.tsSuspend core t
  | 7 => s.tsResume core t
  | 8 => s.tsSet core t p h
  | 9 => s.tsYield core t
  | _ => s

/-- The release of a blocked thread's wait (R497): READY with SYNC and the completion word. A suspended thread's is kept until it is
resumed; one that comes after the thread has left BLOCKED is discarded. -/
def schedRelease (s : State) (t : Nat) : State :=
  match s.sync.released.find? fun r => match r.1 with
    | .control k _ => k == t
    | _ => false with
  | none => s
  | some (_, w) =>
    if s.tstate t = 5 ∧ (s.sthr t).left = 4 then s
    else if s.tstate t = 4 then ((s.withdraw t).setReg (bFn 1) .TS_THR (4 * t + 1) (BitVec.ofNat 64 w)).ready t 3
    else s.withdraw t

/-- A wake time is due at a tick (R495, R497): a release that has come takes the timeout's place. -/
def wakeDue (s : State) (t : Nat) : State :=
  if s.tstate t = 4 then
    let u := s.schedRelease t
    if u.tstate t = 4 then (s.withdraw t).ready t 2 else u
  else s.ready t (s.getF (bFn 1) Fld.TS_THR0_RESULT (4 * t))

/-- Time slicing (R494): a running RR thread moves behind a READY one of its priority. -/
def slice (s : State) (c : Nat) : State :=
  match s.runningOn c with
  | none => s
  | some t =>
    if s.flag (bFn 1) Fld.TS_THR0_RR (4 * t) && (s.readyList c).any fun u => s.tprio u == s.tprio t then
      (s.endRun t).enterReady t false
    else s

/-- The tick (R494, R495). -/
def schedTick (s : State) : State :=
  let due := (upFrom 0 256).filter fun t => (s.tstate t == 3 || s.tstate t == 4) && ((s.sthr t).wake.map fun w => decide (w ≤ s.time)).getD false
  let due := due.foldl (fun l t => insertBy (fun u => (s.sthr u).wake.getD 0) t l) []
  let s := s.foldS due wakeDue
  let s := if s.flag (bFn 1) Fld.TS_CTRL_SLICE_EN then s.foldS (upFrom 0 16) slice else s
  { s with sched.tick := s.getF (bFn 1) Fld.TS_CTRL_TICK_US, sched.last := some s.time }

/-- The thread a core would run next: the first of its list; with an extension loaded core 15 runs only its threads (R491). -/
def nextThread (s : State) (c : Nat) : Option Nat :=
  (s.readyList c).find? fun t => !(c == 15 && s.rot.ext.isSome) || decide (224 ≤ t)

/-- A switch (R494): a preempted thread goes to the head of its priority. After a wake the source that woke the complex is delivered before
any thread resumes (R504). -/
def threadSwitch (s : State) (c : Nat) : State :=
  match s.nextThread c with
  | none => s
  | some t =>
    if !s.coreFree c then s
    else match s.runningOn c with
      | none => (s.leaveState t).runThread c t
      | some u => if s.tprio u < s.tprio t then (((s.endRun u).enterReady u true).leaveState t).runThread c t else s

/-- A thread starts over at its entry point (R490), with the priority and home that SET gave it. -/
def restartThread (s : State) (t h : Nat) : State :=
  let s := (s.leaveState t).withdraw t
  let s := s.modSthr t fun v => { v with wake := none, left := 0, next := some (v.next.getD (s.tprio t, h)) }
  (s.setF (bFn 1) Fld.TS_THR0_RESULT 0 (4 * t)).enterReady t false

/-- A core is hung (R490): the complex is ON, it has ready threads, and for 100 ms it has neither switched nor gone idle. -/
def hung (s : State) (c : Nat) : Bool :=
  s.pwr.cc == 0 && !s.coreGone c && decide (Tbl.get (fun _ => 0) s.sched.alive c + 100000000 ≤ s.time)
    && !(s.readyList c).isEmpty

/-- A hung core is retired: the spare takes its number under a repair record (R571), or the lowest-numbered core left serves it (R490, R503). -/
def retireCore (s : State) (c : Nat) (mailboxes : List Nat) : State :=
  let b := bFn 0
  let old := s.getF b Fld.CC_CORE_PHYS c
  let spare := !((upFrom 0 16).any fun k => s.getF b Fld.CC_CORE_PHYS k == 16)
  let s := if spare then (s.setF b Fld.CC_CORE_PHYS 16 c).repairRecord udHub 0 0 0 else s.setF b Fld.CC_CORE_STATE 3 c
  let h := s.servedBy c
  let mine := (upFrom 0 256).filter fun t => s.tstate t != 0 && s.thome t == c
  let s := s.foldS mine fun s t => s.restartThread t h
  let s := s.foldS (mailboxes.filter fun m => (s.mb m).state == 1) fun s m =>
    ({ s with job.busy := if s.job.busy = some m then none else s.job.busy }).answer m 9 []
  s.event 0x0013 udHub (c + old * 2 ^ 64 + s.getF b Fld.CC_CORE_PHYS h * 2 ^ 128)

/-- The extension is unloaded (R492): its commands end with ABORTED, its threads are freed, its sources disabled. -/
def unloadExt (s : State) : State :=
  let s := s.foldS ((upFrom 0 64).filter fun m => (s.mb m).state == 1 && decide (0x8000 ≤ (s.mb m).opcode)) fun s m => s.answer m 9 []
  let s := s.foldS ((upFrom 224 32).filter fun t => s.tstate t != 0) tsFree
  let s := s.foldS (upFrom 3456 64) fun s n => s.setFlag (bFn 2) Fld.IC_SRC_EN false n
  let s := (s.setFlag (bFn 0) Fld.CC_CORE_EXT false 15).setFlag (bFn 6) Fld.BOOT_STATUS_EXT_LOADED false
  { s with rot.ext := none }

end State

/-! ### The rows -/

/-- TS_CREATE (R496). -/
def execTsCreate (core : CoreId) (thread : SchedThr) (prio : Fin 32) (home : CoreId) (s : State) :
    Host.Outcome State Fault Refusal := .next (s.tsCreate core thread prio home)

/-- TS_EXIT (R496). -/
def execTsExit (core : CoreId) (thread : SchedThr) (s : State) : Host.Outcome State Fault Refusal := .next (s.tsExit core thread)

/-- TS_DELAY (R495, R496). -/
def execTsDelay (core : CoreId) (thread : SchedThr) (arg : BitVec 64) (s : State) : Host.Outcome State Fault Refusal :=
  .next (s.tsDelay core thread arg.toNat)

/-- TS_BLOCK (R496, R612). -/
def execTsBlock (core : CoreId) (thread : SchedThr) (arg : BitVec 64) (timeout : BitVec 11) (s : State) :
    Host.Outcome State Fault Refusal := .next (s.tsBlock core thread arg.toNat timeout.toNat)

/-- TS_WAKE (R496, R497). -/
def execTsWake (core : CoreId) (thread : SchedThr) (s : State) : Host.Outcome State Fault Refusal := .next (s.tsWake core thread)

/-- TS_SUSPEND (R496). -/
def execTsSuspend (core : CoreId) (thread : SchedThr) (s : State) : Host.Outcome State Fault Refusal :=
  .next (s.tsSuspend core thread)

/-- TS_RESUME (R496). -/
def execTsResume (core : CoreId) (thread : SchedThr) (s : State) : Host.Outcome State Fault Refusal :=
  .next (s.tsResume core thread)

/-- TS_SET (R496). -/
def execTsSet (core : CoreId) (thread : SchedThr) (prio : Fin 32) (home : CoreId) (s : State) :
    Host.Outcome State Fault Refusal := .next (s.tsSet core thread prio home)

/-- TS_YIELD (R496). -/
def execTsYield (core : CoreId) (thread : SchedThr) (s : State) : Host.Outcome State Fault Refusal := .next (s.tsYield core thread)

/-- SCHED_TICK (R494, R495): one tick at each device time that is a multiple of the tick in force. -/
def execSchedTick (s : State) : Host.Outcome State Fault Refusal :=
  .next (if s.time % s.tickNs = 0 ∧ s.sched.last ≠ some s.time then s.schedTick else s)

/-- THREAD_SWITCH (R494). -/
def execThreadSwitch (core : CoreId) (s : State) : Host.Outcome State Fault Refusal := .next (s.threadSwitch core)

/-- SCHED_SYNC_RELEASE (R497). -/
def execSchedSyncRelease (thread : SchedThr) (s : State) : Host.Outcome State Fault Refusal := .next (s.schedRelease thread)

/-- CORE_HUNG (R490): `mailboxes` are those whose commands the core's threads were running (log entry 5). -/
def execCoreHung (core : CoreId) (mailboxes : List MailboxId) (s : State) : Host.Outcome State Fault Refusal :=
  .next (if s.hung core then s.retireCore core (mailboxes.map fun m => m.val) else s)

/-- EXTENSION_FAULT (R492): cause 1 access, 2 exception, 3 run time, which is judged by the time that a thread has run since it last
blocked, delayed, yielded or exited. -/
def execExtensionFault (cause : Fin 3) (s : State) : Host.Outcome State Fault Refusal :=
  let ran := (upFrom 224 32).any fun t => s.tstate t == 2 && decide ((s.sthr t).since + 10000000 ≤ s.time + (s.sthr t).ran)
  .next (if s.rot.ext.isNone || (cause.val == 2 && !ran) then s
    else s.unloadExt.event 0x0014 udHub (cause.val + 1))

/-- TS_TICK_WRITE (R495, R506): in force at the next tick. -/
def execTsTickWrite (w : Writer) (us : BitVec 10) (s : State) : Host.Outcome State Fault Refusal :=
  .next (ifControl w s (s.setF (bFn 1) Fld.TS_CTRL_TICK_US (clampTo 1 1000 us.toNat)))

end Sys2Proof.Machine
end

