-- ==== Sys2Proof/Machine/Levels.lean ====
section
/-! DEFINITION. The effects of the reset levels (R567, R568), of a lost supply (R540, R557, R600) and of an island's loss of its
contents (R521, R523, R572). The rows stand in Power.lean and Boot.lean. -/

namespace Sys2Proof.Machine

/-- Counters that only cold reset and their own CNT_CLEAR clear (R505, R519, R542, R580), and what warm reset leaves besides (R507,
R543, R568, R580). -/
def warmKeeps (k : Nat) : Bool :=
  let r := keyReg k
  kept r || [Reg.IC_SRC, .PL_WAKE, .TS_CTRL, .PM_TRIP, .ERR_STATUS, .ERR_LOG, .BOOT_STATUS, .LW_CTRL, .LW_STATUS, .LW_PEER, .LW_ID,
    .LW_DISC, .LW_TIME, .LW_TOKEN_RETRY, .LW_ATTEST_FAIL, .LW_MAP_MISMATCH, .HL_STATUS, .HL_PTM, .PL_STATUS].contains r
where
  /-- a counter of the interrupt controller, the host link, power, errors or a Lightway port -/
  kept (r : Reg) : Bool := State.keptCounter r || r.row.en == some .LW_CTRL

/-- Registers that the fuses or the always-on supply keep through a loss of the rails (R102, R543, R560, R577). -/
def coldKeeps (k : Nat) : Bool :=
  [Reg.ARR_FUSE, .CL_SPARE_FUSE, .PM_TRIP, .SC_REPAIR].contains (keyReg k) || (keyBlk k).k == 10

namespace State

/-- A region's stack cache is written back and emptied (R323, R568); with it goes the reflection directory, and SC_PIN.EN is at its reset
value, 1 (R322). Words of dirty lines that failed their check fail in the stack (R578). -/
def emptyCache (s : State) (r : Nat) : State :=
  let s := s.linesLeave r (s.ctl r).lines
  (s.modCtl r fun c => { StackCtl.reset with off := c.off, clock := c.clock }).modEmb r fun g => { g with dir := [] }

/-- Every scheduler thread FREE, every priority stack empty (R507). -/
def freeThreads (s : State) : State :=
  let lo := rkey (bFn 1) .TS_THR 0
  let s := s.withdrawWaits (· matches .control ..)
  { s with
    sched := { Sched.reset with tick := s.sched.tick, last := s.sched.last }
    ev.intr.stk := []
    regs := s.regs.filter fun e => decide (e.1 < lo) || decide (lo + 1024 ≤ e.1) }

/-- Commands in progress end with ABORTED (R468, R511). -/
def abortCommands (s : State) (except_ : Option Nat) : State :=
  s.foldS ((upFrom 0 64).filter fun m => (s.mb m).state == 1 && some m != except_) fun s m => s.respond m 9 []

def lastReset (s : State) (level : Nat) : State := s.setF (bFn 6) Fld.BOOT_STATUS_LAST_RESET level
def setStage (s : State) (n : Nat) : State := s.setF (bFn 6) Fld.BOOT_STATUS_STAGE n

/-- The changes of presence and of pinned ways that waited for a step boundary (R20, R322, R574): they are in force once there are no steps
(R37). -/
def presenceDue (s : State) : List Due := s.job.due.filter fun d => match d with
  | .tile .. | .absent .. | .pin _ => true
  | _ => false

/-- The job, its engines and its queues are gone: what the wider resets share (R470, R568). -/
def dropJob (s : State) : State :=
  { s with
    queues := [], job := JobState.reset, smp := [], ex := Exch.reset
    gs := Tbl.mapEntries (fun _ => Gather.reset) s.gs fun _ g => { Gather.reset with thresh := g.thresh, log := g.log }
    emb := Tbl.mapEntries (fun _ => EmbRegion.reset) s.emb fun _ g => { EmbRegion.reset with dir := g.dir }
    ms.upd := [], ms.dma := []
    ev.ring := EventRing.reset }

/-- Every island at its reset state but those of a shut rail, which stay OFF (R521, R568); what the meter's shares count goes on (R553). -/
def resetIslands (s : State) : State :=
  let s := { s with
    pwr.islands := Tbl.mapEntries (fun _ => Island.reset) s.pwr.islands fun _ v => { Island.reset with energy := v.energy }
    pwr.pairs := [], pwr.cc := 0, pwr.hist := [], pwr.roseAt := 0, pwr.waking := none, pwr.parked := false }
  s.foldS s.pwr.dark fun s i =>
    ((s.setF (islBlk i) Fld.ISL_STATUS_STATE 2).setF (islBlk i) Fld.ISL_STATUS_VCORE_MV 0).modIsl i fun v => { v with cmd := 2 }

/-- Warm reset (R468, R507, R561, R568): `by_` is the mailbox of a RESET, which reads IDLE afterwards. Registers take
their reset values before the stopped descriptors are recorded with ABORTED and the waits that it released counted (R390, R391; log entry
100). -/
def warmReset (s : State) (by_ : Option Nat) : State :=
  let s := s.abortCommands by_
  let s := match by_ with
    | some m => s.modMb m fun b => { b with state := 0 }
    | none => s
  let due := s.presenceDue
  let s := s.foldS (upFrom 0 12) emptyCache
  let s := (s.resetRegs Scope.all warmKeeps).stopEngines Scope.all 1
  let s := ((s.clearSync.orphanThreads Scope.all).renewTiles Scope.all).freeThreads.dropJob
  let s := { s with
    gs := [], rot.ext := none, rot.tested := false, hl.posted := [], snap.state := if s.snap.area.isEmpty then 0 else 1 }
  let s := ((s.setFlag (bFn 6) Fld.BOOT_STATUS_EXT_LOADED false).setFlag (bFn 6) Fld.BOOT_STATUS_SLOT_FALLBACK false).lastReset 1
  let s := (s.resetIslands.foldS due applyDue).fixStacks
  if s.rot.input && !s.pwr.tripped && s.stage != 0 then s.setStage 2 else s

/-- Function-level reset (R465, R507, R512, R568): firmware keeps running; the host's mailboxes, vectors and rings are gone. -/
def functionReset (s : State) : State :=
  let due := s.presenceDue ++ if s.jobOpen then s.err.dueLater.map Due.tile else []
  let s := if s.jobOpen then { s with err.dueLater := [] } else s
  let s := s.stopEngines Scope.all 2
  let s := ((s.clearSync.orphanThreads Scope.all).clearTiles Scope.all).freeThreads.dropJob
  let s := { s with
    kci := Tbl.mapEntries (fun _ => Mailbox.reset) s.kci fun _ b => { Mailbox.reset with clamps := b.clamps }
    ev.msix := [], ev.pba := []
    hl := { s.hl with bar2 := 36, d3hot := false, pmeEn := false, wake := false, posted := [] } }
  ((((s.bar2Write (s.reg (bFn 4) .HL_BAR2).toNat).2.lastReset 2).foldS due applyDue).fixStacks).retargetClusters Scope.all

/-- Job reset (R475, R479, R568): changes that waited for a step boundary are given up, then job close. -/
def jobReset (s : State) (flags : Nat) : State :=
  let give (s : State) (d : Due) : State := match d with
    | .reseed _ _ m => s.answer m 9 []
    | .reflect _ _ _ m => s.answer m 9 []
    | _ => s
  let s := s.foldS s.job.due give
  let s := { s with job.due := s.presenceDue }
  ((s.jobClose 3).clearTiers flags).lastReset 3

/-- Tiles of a scope that wait for a quiescent point get their spares (R571, R574). -/
def swapLater (s : State) (c : Scope) : State :=
  s.foldS ((s.err.dueLater.map (· % 2 ^ 20)).dedup.filter c.tile) swapQuiet

/-- The islands of a unit. -/
def scopeIslands (c : Scope) : List Nat :=
  (upFrom 0 672).filter c.cluster ++ ((upFrom 0 12).filter c.region).map (672 + ·) ++ ((upFrom 0 4).filter c.die).map (684 + ·)

/-- The islands of a unit under its reset: what is recorded of them is at reset, each stays in its state at its voltage, and takes the
operating point of its phases (R32, R568). `was` is the state before their registers were reset. -/
def renewIslands (s was : State) (c : Scope) : State :=
  let s := s.foldS (scopeIslands c) fun s i =>
    ((s.setF (islBlk i) Fld.ISL_STATUS_STATE (was.islState i)).setF (islBlk i) Fld.ISL_STATUS_VCORE_MV
      (was.getF (islBlk i) Fld.ISL_STATUS_VCORE_MV)).modIsl i fun v =>
        { v with stepTo := none, holdTo := none, capShare := 64, aged := false, runs := [], rising := false }
  (s.foldS ((scopeIslands c).filter (672 ≤ ·)) fun s i => s.setEntry (islBlk i) (s.phaseEntry 0)).retargetClusters c

/-- Unit reset (R390, R431, R568) of the unit named by the low 28 bits of its descriptor: a die's ports go down and retrain. -/
def unitReset (s : State) (u : Nat) : State :=
  let c := Scope.ofUnit u
  let was := s
  let s := s.foldS ((upFrom 0 12).filter c.region) emptyCache
  let s := s.foldS ((upFrom 0 32).filter fun p => c.die (p / 8)) fun s p =>
    s.portDown p (if s.lwReady p then 1 else 0) 0 false
  let s := (s.resetRegs c fun k => keyReg k == .LW_STATUS).stopEngines c 4
  let s := (((s.abandonOwned c).orphanThreads c).renewTiles c).mapQueues c fun _ v => emptied v
  ((s.swapLater c).renewIslands was c).lastReset 4

/-- The islands' estimates over the open metering interval (R553): those already taken into it, and those since. -/
def sharesNow (s : State) : Tbl Nat :=
  s.pwr.islands.foldl (fun t e => if e.2.energy = 0 then t else Tbl.upd (fun _ => 0) t e.1 (· + e.2.energy)) s.mtr.cur.shares

/-- Cold reset (R568): everything at its reset value but what fuses, non-volatile memories, the always-on supply and the meter keep. -/
def coldReset (s : State) : State :=
  let b := bFn 6
  let boot (t : State) (f : Fld) : State := t.setF b f (s.getF b f)
  let t : State := { State.reset with
    pending := s.pending, fresh := s.fresh
    regs := s.regs.filter fun e => coldKeeps e.1
    mem.host := s.mem.host
    ms.ctl := Tbl.mapEntries (fun _ => StackCtl.reset) s.ms.ctl fun _ c => { StackCtl.reset with off := c.off }
    lw.ticks := s.lw.ticks
    err := { ErrState.reset with lanes := s.err.lanes, rows := s.err.rows, syncUsed := s.err.syncUsed, syncDead := s.err.syncDead,
                                 slowRows := s.err.slowRows }
    ev.sent := s.ev.sent
    pwr.unreported := s.pwr.unreported
    mtr := { s.mtr with cur := { s.mtr.cur with shares := s.sharesNow } }
    rot := { Rot.reset with
      slots := s.rot.slots, active := s.rot.active, keys := s.rot.keys, request := s.rot.request, input := s.rot.input
      began := s.lw.ticks, frames := s.rot.frames } }
  let t := boot (boot (boot (boot t Fld.BOOT_STATUS_SLOT) Fld.BOOT_STATUS_FW_RB) Fld.BOOT_STATUS_EXT_RB) Fld.BOOT_STATUS_KEYS
  let t := t.loadFuses Scope.all
  let t := if s.getF bMeter Fld.MTR_STATUS_STATE = 2 then t.irqLevel 3205 true else t
  let t := t.foldS (upFrom 0 12) fun t r => if (t.ctl r).off.isEmpty then t else t.setF (bSc r) Fld.SC_STATUS_WAYS (16 - (t.ctl r).off.length)
  t.keepDead

/-- The regulators drop (R538 to R540): every supply but the always-on one is lost; the sync memories keep their counters. -/
def trip (s : State) : State :=
  { s.coldReset with sync := s.sync, pwr.tripped := true, pwr.unreported := true }

/-! ### Islands -/

/-- The unit of an island. -/
def islUnit (i : Nat) : Nat :=
  if i < 672 then udCluster i else if i < 684 then udRegion (i - 672) else if i < 688 then udDie (i - 684) else udHub

/-- What an island alone covers: a cluster its tiles, a region controller and a die fabric their own engines. -/
def islScope (i : Nat) : Scope :=
  if i < 672 then Scope.ofUnit (udCluster i)
  else { Scope.none with region := fun r => i < 684 && r == i - 672, die := fun d => decide (684 ≤ i) && d == i - 684 }

/-- An island's contents are lost (R521, R523): a stack controller's after its write-back (R323). The sync memories keep what they hold,
waits of the island's threads among it (R377, log entry 100). -/
def loseContents (s : State) (i : Nat) : State :=
  let c := islScope i
  let s := if 672 ≤ i ∧ i < 684 then s.emptyCache (i - 672) else s
  let s := (s.renewTiles c).resetRegs c fun k => (keyReg k).alwaysOn
  if i < 672 then ((s.finishAdds i).modSmp i fun _ => Sampler.reset).modGs i fun g => { Gather.reset with thresh := g.thresh, log := g.log }
  else if i < 684 then
    let r := i - 672
    let s := s.modEmb r fun g => { EmbRegion.reset with nextId := g.nextId }
    let s := s.foldS (upFrom (4 * r) 4) fun s e => s.modDma e fun _ => DmaEng.reset
    s.modUpd r fun _ => UpdEng.reset
  else s

/-- An island goes OFF. -/
def islandOff (s : State) (i : Nat) : State :=
  let b := islBlk i
  let s := s.loseContents i
  let s := ((s.setF b Fld.ISL_STATUS_STATE 2).setF b Fld.ISL_STATUS_VCORE_MV 0).setFlag b Fld.ISL_STATUS_RAMPING false
  (s.setFlag b Fld.ISL_STATUS_DROOP_HOLD false).modIsl i fun v => { v with goal := none, stepTo := none, holdTo := none, rising := false }

/-- A region fails: its stack's contents cannot be read (R309), its bit in its die clears (R18, R20). -/
def failRegion (s : State) (r : Nat) : State :=
  ({ s with mem.dead := r :: s.mem.dead }).childAbsent (bDie (r / 3)) (r % 3)

end State

end Sys2Proof.Machine
end

