-- ==== Sys2Proof/Machine/Power.lean ====
section
/-! DEFINITION. Power (R521 to R543, R571, R572): island and device states, operating points, droop, estimates and shares, ageing,
regulators. Trips stand in Boot.lean. -/

namespace Sys2Proof.Machine
namespace State

/-! ### Commands that answer later -/

/-- A command that has begun and is not answered (R467). -/
def kciBegun (s : State) (m op : Nat) : Bool :=
  (s.mb m).state == 1 && (s.mb m).opcode == op && !s.job.accepted.contains m && s.pwr.cc == 0
    && (Tbl.get (fun _ => none) s.job.answers m : Option (Nat × List Byte)).isNone

/-- A command that begins, and is answered once it is done. -/
def kciLong (s : State) (m : Nat) (c : KciCmd) (begin_ : State → KciOut) (done : State → Option (List Byte × State)) : State :=
  if s.kciBegun m c.opcode then
    match done s with
    | some (p, t) => t.answer m 0 p
    | none => s
  else s.kciRun m c begin_

/-! ### Island states (R521 to R525) -/

/-- The state an island is in or is on its way to. -/
def islGoal (s : State) (i : Nat) : Nat := (s.isl i).goal.getD (s.islState i)

/-- Islands that a shut rail feeds (R572). -/
def railFeeds (rail : Nat) (feeds : List Nat) : List Nat :=
  if rail < 4 then upFrom (168 * rail) 168 ++ upFrom (672 + 3 * rail) 3 ++ [684 + rail] else feeds
/-- The island's rail has been shut. -/
def railShut (s : State) (i : Nat) : Bool :=
  s.pwr.dark.contains i

/-- The islands an island depends on (R524). -/
def dependsOn (i : Nat) : List Nat :=
  if i < 672 then [672 + i / 56, 684 + i / 168] else if i < 684 then [684 + (i - 672) / 3] else []

/-- An entry of ISLAND_SET with its fields in force (R541): island, state; how many were clamped; whether its index is out of range. -/
def islEntry (e : Nat) : Nat × Nat × Nat × Bool :=
  let kind := if 5 ≤ bitsOf e 0 3 then 0 else bitsOf e 0 3
  let idx := bitsOf e 3 10
  let st := if bitsOf e 13 2 = 3 ∨ (3 ≤ kind ∧ bitsOf e 13 2 = 2) then 1 else bitsOf e 13 2
  let base := [0, 672, 684, 689, 690].getD kind 0
  let most := [672, 12, 4, 1, 24].getD kind 0
  (base + idx, st, (if kind = bitsOf e 0 3 then 0 else 1) + (if st = bitsOf e 13 2 then 0 else 1), decide (most ≤ idx))

/-- The image of an entry in force. -/
def islImage (i st : Nat) : Nat :=
  let (k, n) := if i < 672 then (0, i) else if i < 684 then (1, i - 672) else if i < 688 then (2, i - 684) else if i < 690 then (3, 0) else (4, i - 690)
  k + n * 2 ^ 3 + st * 2 ^ 13

/-- The entries a request carries. -/
def islEntries (s : State) (m : Nat) : List Nat := (upFrom 0 (s.reqCount m 0 8 250)).map fun k => s.req m (8 * k) 8

/-- The goals after a list of entries, those of an island's last entry. -/
def goalAfter (s : State) (l : List (Nat × Nat)) (i : Nat) : Nat :=
  ((l.reverse.find? fun e => e.1 == i).map Prod.snd).getD (s.islGoal i)

/-- R524 and R521 refuse the command; an island whose rail is shut stays OFF, and is not taken to HOLD either (log entry 123). -/
def islRefused (s : State) (l : List (Nat × Nat)) : Bool :=
  (upFrom 0 684).any (fun i => s.goalAfter l i == 0 && (dependsOn i).any fun j => s.goalAfter l j != 0)
    || l.any (fun e => decide (e.1 < 689) && ((e.2 == 2 && s.jobOpen) || (e.2 != 2 && s.railShut e.1)))

/-- The present state of an island, the control complex or a channel pair. -/
def domainState (s : State) (i : Nat) : Nat :=
  if i < 689 then s.islState i else if i = 689 then s.pwr.cc else Tbl.get (fun _ => 0) s.pwr.pairs (i - 690)

/-- A change of state begins; a stack controller's island that goes from HOLD to OFF is raised to its operating point for the write-back
(R323). -/
def setGoal (s : State) (i st : Nat) : State :=
  let s := if 672 ≤ i ∧ i < 684 ∧ st = 2 ∧ s.islState i = 1 then
      s.setF (islBlk i) Fld.ISL_STATUS_VCORE_MV (s.entryMv (s.getF (islBlk i) Fld.ISL_STATUS_OPP))
    else s
  s.modIsl i fun v => { v with goal := if s.domainState i = st ∧ ¬ (v.rising ∧ st = 0) then none else some st }

/-- The domain has no change of state in progress. -/
def settled (s : State) (i : Nat) : Bool := (s.isl i).goal.isNone

/-- A ring engine has begun a quarter that is not complete here. -/
def dieFlight (s : State) (d : Nat) : Bool :=
  s.ex.bufs.any fun b => !b.complete && (b.begun.any fun k => k / 4 == d) && !s.quarterDone b (s.bucketD b.bucket) d

/-- Nothing is in flight in an island (R523): in a region, neither its owner logic, nor its DMA engines, nor its update engine. -/
def islandQuiet (s : State) (i : Nat) : Bool :=
  if i < 672 then !s.smpFlight i && !s.gsFlight i && (upFrom (16 * i) 16).all s.tileQuiet
  else if i < 684 then
    !s.embFlight (i - 672) && (upFrom (4 * (i - 672)) 4).all (fun e => !s.dmaFlight e) && (s.updEng (i - 672)).batch.isEmpty
  else if i < 688 then !s.dieFlight (i - 684)
  else true

/-- The island's supply is at its operating point, or at the retention level (R521, R523); a cluster that was OFF begins its zero-fill
(R182). -/
def islandUp (s : State) (i st : Nat) : State :=
  let b := islBlk i
  let wasOff := s.islState i == 2
  let s := (s.setF b Fld.ISL_STATUS_STATE st).setF b Fld.ISL_STATUS_VCORE_MV
    (if st = 1 then 450 else s.entryMv (s.getF b Fld.ISL_STATUS_OPP))
  let s := (s.setFlag b Fld.ISL_STATUS_RAMPING false).modIsl i fun v => { v with stepTo := none }
  if wasOff && decide (i < 672) then
    (s.foldS (upFrom (16 * i) 16) fun s t => s.setFlag (bTile t) Fld.BANK_STATUS_CLEARING true).modIsl i fun v => { v with rising := true }
  else s

/-- A cluster's zero-fill runs. -/
def filling (s : State) (i : Nat) : Bool :=
  decide (i < 672) && (upFrom (16 * i) 16).any fun t => s.flag (bTile t) Fld.BANK_STATUS_CLEARING

/-- An island is ON for good: after its zero-fill a cluster that was OFF loads its remap registers (R102, R523), and a die's ring engine goes
on. -/
def islandReady (s : State) (i : Nat) : State :=
  let s := if (s.isl i).rising then s.loadFuses (islScope i) else s
  let s := s.modIsl i fun v => { v with goal := none, rising := false }
  if 684 ≤ i ∧ i < 688 then s.resumeDie (i - 684) else s

/-- An island's change of state goes on (R523): to HOLD or OFF once its work in flight is done; to ON first its supply, then, once its
zero-fill is over, the rest. -/
def changeIsland (s : State) (i g : Nat) : State :=
  let was := s.islState i
  if g = 2 then if was = 0 ∧ ¬ s.islandQuiet i then s else s.islandOff i
  else if g = 1 then
    if was = 0 ∧ ¬ s.islandQuiet i then s
    else (if was = 1 then s else s.islandUp i 1).modIsl i fun v => { v with goal := none }
  else
    let s := if was = 0 then s else s.islandUp i 0
    if (s.isl i).rising ∧ s.filling i then s else s.islandReady i

/-- A change of state of the control complex or a channel pair completes (R522, R504). -/
def changeDomain (s : State) (i g : Nat) : State :=
  let s := s.modIsl i fun v => { v with goal := none }
  if i = 689 then ({ s with pwr.cc := g }).setFlag (bFn 3) Fld.PL_STATUS_ASLEEP (g == 1)
  else { s with pwr.pairs := Tbl.put (fun _ => 0) s.pwr.pairs (i - 690) g }

/-- The self-timed islands a device state moves, with their states: what R525 gives, for islands whose rail is up. -/
def deviceGoals (s : State) (d : Nat) : List (Nat × Nat) :=
  ((upFrom 0 688).filter fun i => !s.railShut i).map fun i => (i, if d = 0 then (s.isl i).cmd else d)

/-- DEVICE_STATE begins (R525): PARK takes channel pairs to HOLD and ports OFF; leaving PARK takes the pairs back. -/
def deviceSet (s : State) (d : Nat) : State :=
  let s := s.foldS (s.deviceGoals d) fun s (e : Nat × Nat) => s.setGoal e.1 e.2
  if d = 2 then
    let s := s.foldS (upFrom 690 24) fun s i => s.setGoal i 1
    ({ s with pwr.parked := true }).foldS (upFrom 0 32) fun s p => s.portDown p 0 0 false
  else if s.pwr.parked then s.foldS (upFrom 690 24) fun s i => s.setGoal i (s.isl i).cmd
  else s

/-- Ports that nothing holds OFF any more search (R431, R432). -/
def portsSearch (s : State) : State :=
  s.foldS (upFrom 0 32) fun s p => if s.lwReady p && s.lwState p == 0 then s.setLw p Fld.LW_STATUS_STATE 1 else s

/-- DEVICE_STATE ends: the ports of a module that leaves PARK train again (R525). -/
def deviceNow (s : State) (d : Nat) : State := ({ s.setF (bFn 5) Fld.PM_STATUS_DEVICE d with pwr.parked := d == 2 }).portsSearch

/-! ### Operating points (R526, R527) -/

/-- Every island takes the entry that its phases and the phase map give now. -/
def retargetAll (s : State) : State :=
  let s := s.foldS (upFrom 0 672) retarget
  s.foldS (upFrom 672 17) fun s i => s.setEntry (islBlk i) (s.phaseEntry 0)

/-- A table entry with its fields in force, and how many were clamped. -/
def oppClamp (v : Nat) : Nat × Nat :=
  let (mv, a) := clampN 550 900 (bitsOf v 0 10)
  let (lim, b) := clampN 8 64 (bitsOf v 16 7)
  let (dr, c) := clampN 20 100 (bitsOf v 48 7)
  (mv + lim * 2 ^ 16 + bitsOf v 32 16 * 2 ^ 32 + dr * 2 ^ 48, a + b + c)

def oppSet (s : State) (e v : Nat) : State := s.setReg (bFn 5) .PM_OPP e (BitVec.ofNat 64 (oppClamp v).1)

/-- The phase map's register image. -/
def phaseMapSet (s : State) (v : Nat) : State := (s.setReg (bFn 5) .PM_PHASEMAP 0 (BitVec.ofNat 64 (v % 2 ^ 32))).retargetAll

/-! ### Droop and ramps (R528, R529) -/

/-- The voltage an island moves toward. -/
def targetMv (s : State) (i : Nat) : Nat := s.entryMv (s.getF (islBlk i) Fld.ISL_STATUS_OPP)
def vcore (s : State) (i : Nat) : Nat := s.getF (islBlk i) Fld.ISL_STATUS_VCORE_MV

/-- A step of at most 10 mV begins; the voltage in force, and with it the droop threshold, moves. -/
def beginStep (s : State) (i : Nat) : State :=
  let v := s.vcore i
  let t := s.targetMv i
  let n := if v < t then min (v + 10) t else max (v - 10) t
  ((s.setF (islBlk i) Fld.ISL_STATUS_VCORE_MV n).setFlag (islBlk i) Fld.ISL_STATUS_RAMPING true).modIsl i fun w => { w with stepTo := some n }

/-- A step completes: the ramp ends at its target, else the next step begins unless a droop hold is in force. -/
def rampNext (s : State) (i : Nat) : State :=
  let b := islBlk i
  let s := s.modIsl i fun w => { w with stepTo := none }
  if s.vcore i = s.targetMv i then (s.setFlag b Fld.ISL_STATUS_RAMPING false).count b .ISL_RAMPS
  else if s.flag b Fld.ISL_STATUS_DROOP_HOLD then s
  else s.beginStep i

/-! ### Estimates and shares (R530 to R537) -/

/-- An island's estimate in 0.1 W (R530). -/
def estimate (s : State) (i : Nat) (counts : List Nat) : Nat :=
  let v := s.vcore i
  let sum := (upFrom 0 24).foldl (fun n k => n + Config.weight i k * counts.getD k 0) 0
  (Config.leakage i v (s.getF (islBlk i) Fld.ISL_STATUS_TEMP) + s.getF (bFn 5) Fld.PM_STATUS_GAIN * v * v * sum / (512 * 1000000)) / 100000

/-- ISL_STATUS as it reads. -/
def islStatus (s : State) (i : Nat) : Nat := setBits (s.reg (islBlk i) .ISL_STATUS).toNat 16 7 (s.shareF i)
def pmStatus (s : State) : Nat := (s.reg (bFn 5) .PM_STATUS).toNat

/-- The summed estimate of the islands in 0.1 W. -/
def estSum (s : State) : Nat := (upFrom 0 689).foldl (fun n i => n + s.getF (islBlk i) Fld.ISL_STATUS_EST) 0

/-- T moves (R533): a change from 64 and a return to 64 are reported. -/
def setT (s : State) (t : Nat) : State :=
  let b := bFn 5
  let old := s.getF b Fld.PM_STATUS_T
  let s := s.setF b Fld.PM_STATUS_T t
  let s := if t < old then s.count b .PM_THROTTLE_INT else s
  let s := if old < t then { s with pwr.roseAt := s.time } else s
  if old ≠ t ∧ (old = 64 ∨ t = 64) then (s.irq 3206).event 0x0016 udHub s.pmStatus else s

/-- The power manager's interval (R533). -/
def shareUpdate (s : State) : State :=
  let b := bFn 5
  let p := s.estSum / 10 + s.pwr.other
  let h := (p :: s.pwr.hist).take 5000
  let a := h.foldl (· + ·) 0 / h.length
  let s := (({ s with pwr.hist := h }).setF b Fld.PM_EST_P p).setF b Fld.PM_EST_A a
  let t := s.getF b Fld.PM_STATUS_T
  let w := s.getF b Fld.PM_LIMIT_WATTS
  if 5500 < p then s.setT (max 8 (t * 5500 / p))
  else if w < a then s.setT (max 8 (t - 1))
  else if 100 * a < 98 * w ∧ t < 64 ∧ (s.pwr.roseAt = 0 ∨ s.pwr.roseAt + 20000 ≤ s.time) then s.setT (t + 1)
  else s

/-- An island's own share against its cap (R534). -/
def capUpdate (s : State) (i : Nat) : State :=
  let cap := s.getF (bFn 5) Fld.PM_OPP_ISLAND_CAP (s.getF (islBlk i) Fld.ISL_STATUS_OPP)
  let l := (s.isl i).ests
  let mean := l.foldl (· + ·) 0 / l.length
  let c := (s.isl i).capShare
  let c := if cap = 0 then 64 else if cap < mean then max 8 (c - 1) else if 100 * mean < 98 * cap then min 64 (c + 1) else c
  s.modIsl i fun v => { v with capShare := c }

/-- The ratio of the core rails' telemetry, in W, to their summed estimate over the millisecond, in 0.1 W by 500 intervals, in 1/512; the gain
in force where nothing was estimated (R531, log entry 124). -/
def trimRatio (s : State) (core : Nat) : Nat :=
  if s.pwr.est = 0 then s.getF (bFn 5) Fld.PM_STATUS_GAIN else core * 512 * 5000 / s.pwr.est

/-- The trim gain moves toward a ratio in 1/512 by at most 2 % (R531). -/
def trimGain (s : State) (ratio : Nat) : State :=
  let b := bFn 5
  let g := s.getF b Fld.PM_STATUS_GAIN
  let n := if g < ratio then min ratio (g + g / 50) else max ratio (g - g / 50)
  let s := s.setF b Fld.PM_STATUS_GAIN (clampTo 384 640 n)
  if clampTo 384 640 n = n then s else s.setFlag b Fld.PM_STATUS_TRIM_LIMIT true

/-- The die of an island; the hub network has none. -/
def islDie (i : Nat) : Option Nat :=
  if i < 672 then some (i / 168) else if i < 684 then some ((i - 672) / 3) else if i < 688 then some (i - 684) else none

/-- A die's droop and thermal source is asserted while a share of its islands is below 64 or its fabric's ageing warning stands. -/
def dieSource (s : State) (d : Nat) : State :=
  let low := (railFeeds d []).any fun i => decide (s.getF (islBlk i) Fld.ISL_STATUS_THERMAL < 64)
  s.irqLevel (srcDie d 10) (low || s.flag (bDie d) Fld.ISL_AGE_WARN)

/-- The thermal share of an island (R535), in 0.25 °C: above 105 °C down, below 103 °C up. -/
def thermalStep (s : State) (i : Nat) : State :=
  let b := islBlk i
  let t := s.getF b Fld.ISL_STATUS_TEMP
  let h := s.getF b Fld.ISL_STATUS_THERMAL
  let source (s : State) : State := match islDie i with
    | some d => s.dieSource d
    | none => s
  if 420 < t then
    let s := source (s.setF b Fld.ISL_STATUS_THERMAL (max 8 (h - 1)))
    if h = 64 then
      (if (islDie i).isNone then s.irq 3206 else s).event 0x0017 (islUnit i) (s.islStatus i)
    else s
  else if t < 412 then source (s.setF b Fld.ISL_STATUS_THERMAL (min 64 (h + 1)))
  else s

/-- The replica path's slowing (R537): the first time it exceeds the warning is reported. -/
def ageing (s : State) (i ppm : Nat) : State :=
  let b := islBlk i
  let s := s.setF b Fld.ISL_AGE_PPM ppm
  if ppm ≤ s.getF (bFn 5) Fld.PM_CTRL_AGE_WARN_PPM ∨ (s.isl i).aged then s
  else
    let s := (s.setFlag b Fld.ISL_AGE_WARN true).modIsl i fun v => { v with aged := true }
    let s := if i < 672 then s.irq (srcRegion (regionOfCluster i) 7) else if i < 684 then s.irq (srcRegion (i - 672) 7)
      else if i < 688 then s.dieSource (i - 684) else s.irq 3206
    s.event 0x0018 (islUnit i) (s.reg b .ISL_AGE).toNat

/-! ### Regulators (R571, R572) -/

def lostPhases (s : State) (rail : Nat) : Nat := Tbl.get (fun _ => 0) s.pwr.lost rail

/-- A rail is shut: its islands go OFF, their counters are abandoned, their units fail. The ports of a compute die whose core rail is shut go
down, so that its ring neighbours see the break (R420). -/
def shutRail (s : State) (rail : Nat) (feeds : List Nat) : State :=
  let l := railFeeds rail feeds
  let s := if rail < 4 then s.foldS (upFrom (8 * rail) 8) fun s p => s.portDown p 0 0 false else s
  let s := s.foldS l islandOff
  let s := s.foldS l fun s i =>
    (s.modIsl i fun v => { v with cmd := 2 }).abandonOwned (if i < 672 then islScope i else Scope.ofUnit (islUnit i))
  let s := { s with pwr.shut := rail :: s.pwr.shut, pwr.dark := l ++ s.pwr.dark }
  if rail < 4 then ({ s with mem.dead := upFrom (3 * rail) 3 ++ s.mem.dead }).childAbsent bPackage rail
  else s.foldS l fun s i =>
    if i < 672 then s.childAbsent (bRegion (i / 56)) (i % 56)
    else if i < 684 then s.failRegion (i - 672)
    else if i < 688 then s.childAbsent bPackage (i - 684)
    else s

end State

/-! ### The rows -/

/-- PHASE_MARKER (R31, R32): firmware applies the operating point of the marked descriptor that has reached its consumer. -/
def execPhaseMarker (queue : QueueId) (s : State) : Host.Outcome State Fault Refusal :=
  .next (match (s.queue queue).taken with
    | [] => s
    | (_, d) :: _ =>
      if dMark d && !(s.queue queue).marked && s.pwr.cc == 0 then
        let s := s.modQueue queue fun c => { c with marked := true }
        match State.queueCluster queue with
        | some n => s.retarget n
        | none => s
      else s)

/-- ISLAND_SET (R521, R523, R524, R541). -/
def execIslandSet (mailbox : MailboxId) (s : State) : Host.Outcome State Fault Refusal :=
  let m := mailbox.val
  let es := (s.islEntries m).map State.islEntry
  let named := es.map fun e => (e.1, e.2.1)
  .next (s.kciLong m ⟨0x72, [0, 1, 2], false, false⟩
    (fun s =>
      if es.any fun e => e.2.2.2 then .refused 4
      else if s.islRefused named then .refused 2
      else .later ((es.map fun e => e.2.2.1).foldl (· + ·) 0) (s.foldS named fun s e =>
        (s.setGoal e.1 e.2).modIsl e.1 fun v => { v with cmd := e.2 }))
    fun s => if named.all fun e => s.settled e.1 then some (named.flatMap fun e => leBytes 8 (State.islImage e.1 e.2), s) else none)

/-- ISLAND_STATE_CHANGE (R522, R523). -/
def execIslandStateChange (island : Fin 714) (s : State) : Host.Outcome State Fault Refusal :=
  .next (match (s.isl island).goal with
    | none => s
    | some g => if island.val < 689 then s.changeIsland island g else s.changeDomain island g)

/-- DEVICE_STATE (R525, R541). -/
def execDeviceState (mailbox : MailboxId) (s : State) : Host.Outcome State Fault Refusal :=
  let m := mailbox.val
  let (d, k) := clampN 0 2 (s.req m 0 4)
  .next (s.kciLong m ⟨0x73, [0, 1, 2], false, false⟩
    (fun s =>
      if (d = 1 ∧ s.job.phase = 1) ∨ (d = 2 ∧ s.job.phase ≠ 0) then .refused 2
      else .later k (s.deviceSet d))
    fun s => if (upFrom 0 714).all s.settled then some (leBytes 4 d, s.deviceNow d) else none)

/-- OPP_WRITE (R526, R527, R541). -/
def execOppWrite (mailbox : MailboxId) (s : State) : Host.Outcome State Fault Refusal :=
  let m := mailbox.val
  .next (s.kciRun m ⟨0x70, [0, 1, 2], false, false⟩ fun s =>
    let first := s.req m 0 4
    let (n, k) := clampN 1 16 (s.req m 4 4)
    let es := ((upFrom 0 n).map fun j => (first + j, s.req m (8 + 8 * j) 8)).filter fun e => decide (e.1 < 16)
    let k := es.foldl (fun k e => k + (State.oppClamp e.2).2) k
    .ok (leBytes 4 first ++ leBytes 4 n ++ es.flatMap fun e => leBytes 8 (State.oppClamp e.2).1) k
      ((s.foldS es fun s e => s.oppSet e.1 e.2).retargetAll))

/-- PHASE_MAP (R527, R541). -/
def execPhaseMap (mailbox : MailboxId) (s : State) : Host.Outcome State Fault Refusal :=
  let m := mailbox.val
  .next (s.kciRun m ⟨0x71, [0, 1, 2], false, false⟩ fun s =>
    let bs := (upFrom 0 8).map fun p => s.req m p 1
    let v := ((upFrom 0 8).zip bs).foldl (fun n e => n + e.2 % 16 * 16 ^ e.1) 0
    .ok (bs.map fun b => BitVec.ofNat 8 (b % 16)) ((bs.filter fun b => decide (16 ≤ b)).length) (s.phaseMapSet v))

/-- POWER_LIMIT (R533, R541). -/
def execPowerLimit (mailbox : MailboxId) (s : State) : Host.Outcome State Fault Refusal :=
  let m := mailbox.val
  .next (s.kciRun m ⟨0x74, [0, 1, 2], false, false⟩ fun s =>
    let (w, k) := clampN 1800 4400 (s.req m 0 4)
    .ok (leBytes 4 w) k (s.setF (bFn 5) Fld.PM_LIMIT_WATTS w))

/-- POWER_READ (R541). -/
def execPowerRead (mailbox : MailboxId) (s : State) : Host.Outcome State Fault Refusal :=
  .next (s.kciRun mailbox ⟨0x75, [0, 1, 2], false, false⟩ fun s =>
    .ok (leBytes 8 s.pmStatus ++ leBytes 8 (s.reg (bFn 5) .PM_EST).toNat ++ leBytes 4 (s.reg (bFn 5) .PM_TRIP).toNat) 0 s)

/-- DROOP_DETECT (R528). -/
def execDroopDetect (island : Fin 689) (s : State) : Host.Outcome State Fault Refusal :=
  let b := State.islBlk island
  .next (((s.setFlag b Fld.ISL_STATUS_DROOP_HOLD true).modIsl island fun v => { v with holdTo := some (s.time + 50) }).count b .ISL_DROOPS)

/-- DROOP_HOLD_END (R528, R529): a ramp that waited starts, or its step that was due. -/
def execDroopHoldEnd (island : Fin 689) (s : State) : Host.Outcome State Fault Refusal :=
  let b := State.islBlk island
  .next (match (s.isl island).holdTo with
    | none => s
    | some t =>
      if s.time < t then s
      else
        let s := (s.setFlag b Fld.ISL_STATUS_DROOP_HOLD false).modIsl island fun v => { v with holdTo := none }
        if s.islState island = 0 ∧ (s.isl island).stepTo.isNone ∧ s.vcore island ≠ s.targetMv island then s.beginStep island else s)

/-- RAMP_STEP (R529). -/
def execRampStep (island : Fin 689) (s : State) : Host.Outcome State Fault Refusal :=
  let b := State.islBlk island
  .next (if !s.flag b Fld.ISL_STATUS_RAMPING then s
    else if (s.isl island).stepTo.isSome || s.vcore island == s.targetMv island then s.rampNext island
    else if s.flag b Fld.ISL_STATUS_DROOP_HOLD then s
    else s.beginStep island)

/-- POWER_ESTIMATE (R530): the island's 24 activity counts over the interval; the core rails feed every island but the hub network. -/
def execPowerEstimate (island : Fin 689) (counts : List Nat) (s : State) : Host.Outcome State Fault Refusal :=
  let e := min 65535 (s.estimate island counts)
  let s := (s.setF (State.islBlk island) Fld.ISL_STATUS_EST e).modIsl island fun v =>
    { v with ests := (e :: v.ests).take 50, energy := v.energy + e }
  .next (if island.val < 688 then { s with pwr.est := s.pwr.est + e } else s)

/-- MODULE_SHARE_UPDATE (R533). -/
def execModuleShareUpdate (s : State) : Host.Outcome State Fault Refusal := .next s.shareUpdate

/-- ISLAND_CAP_UPDATE (R534). -/
def execIslandCapUpdate (island : Fin 689) (s : State) : Host.Outcome State Fault Refusal := .next (s.capUpdate island)

/-- GAIN_TRIM (R530, R531): the telemetry of the core rails and of the other rails in W. -/
def execGainTrim (core other : BitVec 16) (s : State) : Host.Outcome State Fault Refusal :=
  .next (({ s with pwr.other := other.toNat, pwr.est := 0 }).trimGain (s.trimRatio core.toNat))

/-- THERMAL_READ (R535). -/
def execThermalRead (island : Fin 689) (temp : BitVec 10) (s : State) : Host.Outcome State Fault Refusal :=
  let s := s.setF (State.islBlk island) Fld.ISL_STATUS_TEMP temp.toNat
  .next (s.setF (bFn 5) Fld.PM_STATUS_TMAX ((upFrom 0 689).foldl (fun n i => max n (s.getF (State.islBlk i) Fld.ISL_STATUS_TEMP)) 0))

/-- THERMAL_SHARE_STEP (R535). -/
def execThermalShareStep (island : Fin 689) (s : State) : Host.Outcome State Fault Refusal := .next (s.thermalStep island)

/-- AGEING_MEASURE (R537). -/
def execAgeingMeasure (island : Fin 689) (ppm : BitVec 20) (s : State) : Host.Outcome State Fault Refusal :=
  .next (s.ageing island ppm.toNat)

/-- INTERLOCK_WARNING (R538). -/
def execInterlockWarning (s : State) : Host.Outcome State Fault Refusal :=
  .next (if s.levelHigh 3207 then s else (s.irqLevel 3207 true).event 0x0019 udHub s.pmStatus)

/-- INTERLOCK_LIGHT_RESTORED (R538). -/
def execInterlockLightRestored (s : State) : Host.Outcome State Fault Refusal := .next (s.irqLevel 3207 false)

/-- REGULATOR_PHASE_SPARE (R571): rails 0 to 3 are the dies' core rails; a third faulty phase finds no spare. -/
def execRegulatorPhaseSpare (rail : Nat) (s : State) : Host.Outcome State Fault Refusal :=
  let n := s.lostPhases rail
  .next (if 3 ≤ n then s
    else
      let s := { s with pwr.lost := Tbl.put (fun _ => 0) s.pwr.lost rail (n + 1) }
      if n < 2 then s.repairRecord (if rail < 4 then udDie rail else udPackage) 12 0 (1 - n) else s)

/-- RAIL_SHUTDOWN (R572): `feeds` are the islands of a rail that is no core rail. -/
def execRailShutdown (rail : Nat) (feeds : List (Fin 689)) (s : State) : Host.Outcome State Fault Refusal :=
  .next (if s.lostPhases rail < 3 ∨ s.pwr.shut.contains rail then s else s.shutRail rail (feeds.map fun i => i.val))

def State.pmClear (s : State) : State :=
  (s.clearRegs (bFn 5) 0 [.PM_THROTTLE_INT]).foldS (upFrom 0 689) fun s i =>
    s.clearRegs (islBlk i) 0 [.ISL_DROOPS, .ISL_RAMPS]

/-- PM_CNT_CLEAR (R543). -/
def execPmCntClear (w : Writer) (s : State) : Host.Outcome State Fault Refusal :=
  .next (ifControl w s s.pmClear)

end Sys2Proof.Machine
end

