-- ==== Sys2Proof/Machine/Meter.lean ====
section
/-! DEFINITION. The Drudo meter (R544 to R553): intervals, records, audit log, faults and the commands that read it. -/

namespace Sys2Proof.Machine

/-- Record flags (R547). -/
def flagOutage : Nat := 0
def flagOverload : Nat := 1
def flagMerged : Nat := 2
def flagMaxlen : Nat := 3
def flagParam : Nat := 4

/-- A flag set in a flag word. -/
def withFlag (flags k : Nat) : Nat := setBits flags k 1 1

/-- The meter's public key, its certificate, METER_ID (R547, R551). -/
def meterPub : List Byte := fit 1952 (Config.deviceKey 4)
def meterCert : List Byte := fit 3309 (Config.deviceKey 5)
def meterId : List Byte := (digest 32 meterPub).take 16

/-- Two intervals as one (R548): flags joined, energies added, the tag of the later. -/
def MeterInt.merge (a b : MeterInt) : MeterInt :=
  { b with
    flags := withFlag (a.flags ||| b.flags) flagMerged
    tStart := a.tStart, dStart := a.dStart, energy := a.energy + b.energy
    vMin := min a.vMin b.vMin, vMax := max a.vMax b.vMax, peak := max a.peak b.peak
    shares := (upFrom 0 689).foldl (fun t i =>
      Tbl.put (fun _ => 0) t i (Tbl.get (fun _ => 0) a.shares i + Tbl.get (fun _ => 0) b.shares i)) [] }

namespace State

/-- Registers of the meter's window. -/
def mtr_ (s : State) (f : Fld) : Nat := s.getF bMeter f
def setMtr (s : State) (f : Fld) (v : Nat) : State := s.setF bMeter f v
/-- The meter is in FAULT. -/
def meterFault (s : State) : Bool := s.mtr_ Fld.MTR_STATUS_STATE == 2
/-- 4,096 records are unacknowledged (R548). -/
def meterFull (s : State) : Bool := decide (4096 ≤ s.mtr.recs.length)

/-- Device time for a record; 0 while the rails are off (R547). -/
def meterDevice (s : State) : Nat := if s.pwr.tripped || !s.rot.input then 0 else s.time

/-- A record's body (R547). -/
def recordBody (s : State) (n : Nat) (i : MeterInt) : List Byte :=
  fit 128 (leBytes 2 1 ++ leBytes 2 i.flags ++ leBytes 4 n ++ leBytes 8 i.tag ++ leBytes 8 i.tStart ++ leBytes 8 i.tEnd
    ++ leBytes 8 i.dStart ++ leBytes 8 i.dEnd ++ leBytes 8 i.energy ++ leBytes 8 i.total ++ leBytes 4 i.events
    ++ leBytes 4 (s.mtr_ Fld.MTR_VERSION_FW_CRC) ++ leBytes 2 (s.mtr_ Fld.MTR_VERSION_FW_VERSION)
    ++ leBytes 2 i.vMin ++ leBytes 2 i.vMax ++ leBytes 2 i.peak ++ fit 16 meterId)

/-- A record with its signature (R547). -/
def signRecord (s : State) (n : Nat) (i : MeterInt) : MeterRec := ⟨n, s.recordBody n i ++ signature 1 (s.recordBody n i), i⟩

/-- A record is formed, signed and stored (R547, R548); its flags gain those that wait for it. -/
def formRecord (s : State) (i : MeterInt) : State :=
  let n := s.mtr_ Fld.MTR_RECORDS_LAST + 1
  let i := { i with flags := i.flags ||| s.mtr.next }
  let s := { s with mtr.recs := s.mtr.recs ++ [s.signRecord n i], mtr.next := 0 }
  (s.setMtr Fld.MTR_RECORDS_LAST n).setMtr Fld.MTR_STATUS_FULL (if s.meterFull then 1 else 0)

/-- The intervals closed while no record could be formed make one record as soon as one can (R548). -/
def formHeld (s : State) : State :=
  match s.mtr.held with
  | none => s
  | some i => if s.meterFull || s.meterFault then s else ({ s with mtr.held := none }).formRecord i

/-- What the instruments have integrated since the reading before (R544). -/
def meterRead (s : State) (r : MeterReading) : State :=
  let c := s.mtr.cur
  let c := { c with
    energy := c.energy + r.energy.toNat, vMin := min c.vMin r.vMin.toNat, vMax := max c.vMax r.vMax.toNat, peak := max c.peak r.peak.toNat
    flags := if r.overload then withFlag c.flags flagOverload else c.flags }
  let s := { s with mtr.cur := c }
  let s := (s.setMtr Fld.MTR_ENERGY_TOTAL ((s.mtr_ Fld.MTR_ENERGY_TOTAL + r.energy.toNat) % 2 ^ 64)).setMtr Fld.MTR_POWER_P r.power.toNat
  (s.setMtr Fld.MTR_TIME_TIME r.now.toNat).setMtr Fld.MTR_STATUS_OVERLOAD (bitsOf c.flags flagOverload 1)

/-- The meter's present 1 µs tick. -/
def meterTick (s : State) : Nat := s.mtr_ Fld.MTR_TIME_TIME / 1000

/-- The record of the interval closed last, where it is kept and may be signed anew. -/
def lastRecord (s : State) : Option MeterRec :=
  match s.mtr.recs.getLast? with
  | some r => if r.number = s.mtr_ Fld.MTR_RECORDS_LAST ∧ ¬ s.meterFault then some r else none
  | none => none

/-- The next interval opens under a tag (R546): its shares begin anew (R553), and it has seen no overload. -/
def openInterval (s : State) (tag : Nat) : State :=
  let s := { s with
    mtr.cur := MeterInt.start tag (s.mtr_ Fld.MTR_TIME_TIME) s.meterDevice
    pwr.islands := Tbl.mapEntries (fun _ => Island.reset) s.pwr.islands fun _ v => { v with energy := 0 } }
  (s.setMtr Fld.MTR_TAG_TAG tag).setMtr Fld.MTR_STATUS_OVERLOAD 0

/-- An interval that has closed, longer by what the open one has seen of the same tick: every flag is set (R546). -/
def lengthened (s : State) (i : MeterInt) (flags : Nat) : MeterInt :=
  let c := s.mtr.cur
  { i with
    flags := i.flags ||| c.flags ||| flags, energy := i.energy + c.energy
    vMin := min i.vMin c.vMin, vMax := max i.vMax c.vMax, peak := max i.peak c.peak, total := s.mtr_ Fld.MTR_ENERGY_TOTAL
    tEnd := s.mtr_ Fld.MTR_TIME_TIME, dEnd := s.meterDevice, events := s.mtr_ Fld.MTR_EVENTS_EVENTS
    shares := s.sharesNow.foldl (fun t e => Tbl.upd (fun _ => 0) t e.1 (· + e.2)) i.shares }

/-- A further cause of a tick that has closed an interval joins it: what is held, else its record; where the record is no longer the
meter's to sign, the flags wait for the next (R546; log entry 130). The tag of a METER_TAG is the next interval's. -/
def joinTick (s : State) (flags tag : Nat) : Nat × State :=
  match s.mtr.held, s.lastRecord with
  | some h, _ => (0, { s with mtr.held := some (s.lengthened h flags) }.openInterval tag)
  | none, some r =>
    (r.number, { s with mtr.recs := s.mtr.recs.dropLast ++ [s.signRecord r.number (s.lengthened r.span flags)] }.openInterval tag)
  | none, none =>
    (0, { s with mtr.cur := { s.mtr.cur with tag := tag, flags := s.mtr.cur.flags ||| flags } }.setMtr Fld.MTR_TAG_TAG tag)

/-- The open interval closes with flags, and the next opens under a tag (R546): the record's number, 0 where none is formed now. -/
def closeInterval (s : State) (flags tag : Nat) : Nat × State :=
  if s.mtr.closed = some s.meterTick then s.joinTick flags tag
  else
  let i := { s.mtr.cur with
    flags := s.mtr.cur.flags ||| flags, tEnd := s.mtr_ Fld.MTR_TIME_TIME, dEnd := s.meterDevice, total := s.mtr_ Fld.MTR_ENERGY_TOTAL
    events := s.mtr_ Fld.MTR_EVENTS_EVENTS, shares := s.sharesNow }
  let s := { s with mtr.closed := some s.meterTick }.openInterval tag
  if s.meterFull || s.meterFault then
    (0, { s with mtr.held := some (match s.mtr.held with
      | some h => h.merge i
      | none => if s.meterFull then { i with flags := withFlag i.flags flagMerged } else i) })
  else
    let s := s.formRecord i
    (s.mtr_ Fld.MTR_RECORDS_LAST, s)

/-- An audit event (R549): kinds 1 parameter change, 2 firmware load, 3 fault, 4 restart after an outage. -/
def meterAudit (s : State) (kind old new : Nat) : State :=
  let n := min (2 ^ 32 - 1) (s.mtr_ Fld.MTR_EVENTS_EVENTS + 1)
  let e := fit 64 (leBytes 4 kind ++ leBytes 4 n ++ leBytes 8 (s.mtr_ Fld.MTR_TIME_TIME) ++ leBytes 8 old ++ leBytes 8 new)
  let l := s.mtr.audit ++ [e]
  ({ s with mtr.audit := l.drop (l.length - 1024) }).setMtr Fld.MTR_EVENTS_EVENTS n

/-- METER_TAG (R546): a new tag closes the open interval; one that repeats the tag in force closes nothing. -/
def meterTag (s : State) (tag : Nat) : Nat × State :=
  if tag = s.mtr_ Fld.MTR_TAG_TAG then (0, s) else s.closeInterval 0 tag

/-- Records up to a number are acknowledged (R548); the number in force, and whether it was clamped. -/
def meterAck (s : State) (n : Nat) : Nat × Nat × State :=
  let k := min n (s.mtr_ Fld.MTR_RECORDS_LAST)
  let s := { s with mtr.recs := s.mtr.recs.filter fun r => decide (k < r.number) }
  let s := s.setMtr Fld.MTR_RECORDS_ACKED (max k (s.mtr_ Fld.MTR_RECORDS_ACKED))
  (k, if k = n then 0 else 1, (s.setMtr Fld.MTR_STATUS_FULL (if s.meterFull then 1 else 0)).formHeld)

def record? (s : State) (n : Nat) : Option MeterRec := s.mtr.recs.find? fun r => r.number == n

/-- Entries of the audit log, oldest first. -/
def auditEntries (s : State) (first n : Nat) : List Byte := ((s.mtr.audit.drop first).take n).flatten

/-- The maximum interval length in ns (R546). -/
def maxInterval (s : State) : Nat := ((Tbl.find? s.mtr.params 0).getD 3600000000000)

/-- A failed self-check (R550). -/
def meterFail (s : State) (cause : Nat) : State :=
  if s.meterFault then ({ s with mtr.restarted := false }).irqLevel 3205 true
  else
    let s := ({ s with mtr.restarted := false }).setMtr Fld.MTR_STATUS_STATE 2 |>.setMtr Fld.MTR_STATUS_CAUSE cause
    let s := (s.meterAudit 3 0 cause).irqLevel 3205 true
    s.event 0x001B udHub (s.reg bMeter .MTR_STATUS).toNat

/-- A self-check passes (R550): FAULT ends only after a restart; the next record carries PARAM. -/
def meterPass (s : State) : State :=
  if s.meterFault then
    if s.mtr.restarted then
      let s := (s.setMtr Fld.MTR_STATUS_STATE 1).setMtr Fld.MTR_STATUS_CAUSE 0
      ({ s with mtr.next := withFlag s.mtr.next flagParam }.irqLevel 3205 false).formHeld
    else s
  else s.setMtr Fld.MTR_STATUS_STATE 1

end State

/-- What a service command's signature covers (R545). -/
def serviceBytes (c : MeterService) : List Byte := leBytes 4 c.kind.val ++ leBytes 4 c.param.toNat ++ leBytes 8 c.value.toNat

namespace State

/-- A service command that Affemar's service key has signed (R545, R549, R550). -/
def meterService (s : State) (c : MeterService) : State :=
  match c.kind with
  | 0 =>
    let old := (Tbl.find? s.mtr.params c.param.toNat).getD (if c.param = 0 then 3600000000000 else 0)
    let s := (s.closeInterval (withFlag 0 flagParam) (s.mtr_ Fld.MTR_TAG_TAG)).2
    let s := { s with mtr.params := Tbl.insert s.mtr.params c.param.toNat c.value.toNat }
    s.meterAudit 1 old c.value.toNat
  | 1 =>
    let old := s.mtr_ Fld.MTR_VERSION_FW_CRC
    let s := (s.setMtr Fld.MTR_VERSION_FW_CRC (c.value.toNat % 2 ^ 32)).setMtr Fld.MTR_VERSION_FW_VERSION (c.param.toNat % 2 ^ 16)
    s.meterAudit 2 old (c.value.toNat % 2 ^ 32)
  | _ => { s with mtr.restarted := true }

/-- The figures of R553 for a record in J: cumulative shares scaled to the record's energy, so that the figures sum to it; `theta` is how
a fraction of a joule is rounded (log entry 6). -/
def apportion (r : MeterRec) (theta : Nat) : List Nat :=
  let cum := (upFrom 0 690).map fun n => (r.span.shares.filter fun e => decide (e.1 < n)).foldl (fun t e => t + e.2) 0
  let total := cum.getD 689 0
  let d := total * 1000
  let at_ (n : Nat) : Nat := if total = 0 then 0 else (cum.getD n 0 * r.span.energy + theta % d) / d
  (upFrom 0 689).map fun i => at_ (i + 1) - at_ i

/-- A meter command (R551) answered over either path: its payload as 4- and 8-byte fields by offset. -/
def meterCommand (s : State) (op : Nat) (arg : Nat → Nat → Nat) : KciOut :=
  match op with
  | 0x80 =>
    let (n, s) := s.meterTag (arg 0 8)
    .ok (leBytes 4 n) 0 s
  | 0x81 =>
    match s.record? (arg 0 4) with
    | some r => .ok r.bytes 0 s
    | none => .refused 4
  | 0x82 =>
    let (k, c, s) := s.meterAck (arg 0 4)
    .ok (leBytes 4 k) c s
  | 0x83 => .ok (if arg 0 4 = 0 then meterPub else meterCert) (if arg 0 4 ≤ 1 then 0 else 1) s
  | 0x84 =>
    let (n, k) := clampN 1 62 (arg 4 4)
    .ok (s.auditEntries (arg 0 4) n) k s
  | 0x85 =>
    match s.record? (arg 0 4) with
    | some r =>
      let (w, s) := s.freshWord
      .ok ((apportion r w.toNat).flatMap fun n => leBytes 4 n) 0 s
    | none => .refused 4
  | _ => .refused 3

/-- A meter command of a mailbox. -/
def meterKci (s : State) (m op : Nat) : State :=
  s.kciRun m ⟨op, [0, 1, 2], false, false⟩ fun s => s.meterCommand op (s.req m)

end State

/-! ### The rows -/

/-- METER_TAG (R546, R551): the meter takes the reading as it closes the interval. -/
def execMeterTag (mailbox : MailboxId) (reading : MeterReading) (s : State) : Host.Outcome State Fault Refusal :=
  .next (if s.kciTakes mailbox 0x80 then (s.meterRead reading).meterKci mailbox 0x80 else s)

/-- METER_READ (R551). -/
def execMeterRead (mailbox : MailboxId) (s : State) : Host.Outcome State Fault Refusal := .next (s.meterKci mailbox 0x81)

/-- METER_ACK (R548, R551). -/
def execMeterAck (mailbox : MailboxId) (s : State) : Host.Outcome State Fault Refusal := .next (s.meterKci mailbox 0x82)

/-- METER_IDENT (R551). -/
def execMeterIdent (mailbox : MailboxId) (s : State) : Host.Outcome State Fault Refusal := .next (s.meterKci mailbox 0x83)

/-- METER_AUDIT (R549, R551). -/
def execMeterAudit (mailbox : MailboxId) (s : State) : Host.Outcome State Fault Refusal := .next (s.meterKci mailbox 0x84)

/-- APPORTION_READ (R551, R553). -/
def execApportionRead (mailbox : MailboxId) (s : State) : Host.Outcome State Fault Refusal := .next (s.meterKci mailbox 0x85)

/-- METER_MAX_LENGTH (R546). -/
def execMeterMaxLength (reading : MeterReading) (s : State) : Host.Outcome State Fault Refusal :=
  let t := s.meterRead reading
  .next (if s.mtr.outage || decide (reading.now.toNat < s.mtr.cur.tStart + s.maxInterval) then s
    else (t.closeInterval (withFlag 0 flagMaxlen) (t.mtr_ Fld.MTR_TAG_TAG)).2)

/-- METER_OUTAGE (R546, R549): 48 V input is lost, or returns; `beyond` tells that it was away longer than the holdup. -/
def execMeterOutage (back beyond : Bool) (reading : MeterReading) (s : State) : Host.Outcome State Fault Refusal :=
  .next (if back = s.mtr.outage then
      if back then
        let s := { s with mtr.outage := false, mtr.restarted := true, mtr.closed := none }
        let s := s.setMtr Fld.MTR_TIME_TIME reading.now.toNat
        let tag := s.mtr_ Fld.MTR_TAG_TAG
        let s := { s with mtr.cur := { MeterInt.start tag reading.now.toNat s.meterDevice with flags := withFlag 0 flagOutage } }
        if beyond then s.meterAudit 4 0 0 else s
      else
        let s := s.meterRead reading
        { (s.closeInterval 0 (s.mtr_ Fld.MTR_TAG_TAG)).2 with mtr.outage := true }
    else s)

/-- METER_SERVICE_COMMAND (R545, R549): a command without Affemar's signature changes nothing. -/
def execMeterServiceCommand (cmd : MeterService) (signature : List Byte) (reading : MeterReading) (s : State) :
    Host.Outcome State Fault Refusal :=
  .next (if Config.mlDsaVerify (Config.deviceKey 6) (serviceBytes cmd) signature then (s.meterRead reading).meterService cmd else s)

/-- METER_SELF_CHECK (R550, R554, R570): cause 0 passes. The first one since power came is stage 2: BOOT_STATUS.METER_FAULT tells whether the
meter was in FAULT then. -/
def execMeterSelfCheck (cause : Fin 5) (reading : MeterReading) (s : State) : Host.Outcome State Fault Refusal :=
  let s := s.meterRead reading
  let s := if cause = 0 then s.meterPass else s.meterFail cause
  .next (if s.rot.metered then s else { s with rot.metered := true }.setFlag (bFn 6) Fld.BOOT_STATUS_METER_FAULT s.meterFault)

end Sys2Proof.Machine
end

