-- ==== Sys2Proof/Machine/Spares.lean ====
section
/-! DEFINITION. Errors, spares and repair (R571 to R581) and fuse programming of tile spares (R103, R577). -/

namespace Sys2Proof.Machine

/-! ### Corrected errors by location (R573) -/

/-- A location's key: kind of location, unit, place. -/
def locKey : ErrLoc → Option Nat
  | .tileWord t st w => some ((t.val * 4 + st.val) * 2 ^ 18 + w.toNat)
  | .dramRow r b row _ => some (2 ^ 72 + (r.val * 2 ^ 32 + b.toNat) * 2 ^ 32 + row.toNat)
  | .lane r g l => some (2 * 2 ^ 72 + (r.val * 1024 + g.toNat) * 64 + l.val)
  | .way r w => some (3 * 2 ^ 72 + r.val * 16 + w.val)
  | .slowRow a => some (4 * 2 ^ 72 + slowRowOf a.toNat)
  | .other _ st a => if st.val = 9 then some (5 * 2 ^ 72 + a.toNat) else none
where
  /-- an LPDDR6 row: chiplet, channel, bank and row of R311 -/
  slowRowOf (a : Nat) : Nat :=
    let g := (a - slowBase) / 4096
    let c := g / 48 * 4096 + a % 4096
    ((g % 6 * 8 + g / 6 % 8) * 16 + bitsOf c 12 4) * 2 ^ 19 + bitsOf c 16 19

/-- The granule within a row, told apart in the counts of rows. -/
def locSub : ErrLoc → Nat
  | .dramRow _ _ _ g => g.val
  | .slowRow a => a.toNat / 64 % 64
  | _ => 0

def day : Nat := 86400000000000

namespace State

/-- Errors counted at a location: entries hold the time × 64 and the granule. -/
def errsAt (s : State) (k : Nat) : List Nat :=
  ((Tbl.get (fun _ => []) s.err.counts k : List Nat)).filter fun e => decide (s.time ≤ e / 64 + day)

/-- Errors counted at a location; a location keeps at most 1,024 of one report, well above every threshold but a lane's, which the reports of
1 s make up (DESIGN CHOICE, log entry 121). -/
def addErrs (s : State) (k sub n : Nat) : State :=
  { s with err.counts := Tbl.put (fun _ => []) s.err.counts k (s.errsAt k ++ List.replicate (min n 1024) (s.time * 64 + sub)) }

def dropErrs (s : State) (p : Nat → Bool) : State := { s with err.counts := s.err.counts.filter fun e => !p e.1 }

/-- Granules of a row with a corrected error. -/
def granulesAt (s : State) (k : Nat) : Nat := ((s.errsAt k).map (· % 64)).dedup.length

/-- The tile has a word due (R573). -/
def tileIsDue (s : State) (t : Nat) : Bool :=
  s.err.counts.any fun e => decide (e.1 < 2 ^ 72) && e.1 / 2 ^ 20 == t && decide (2 ≤ (s.errsAt e.1).length)

/-- The key of a lane's counts. -/
def laneKey (stack group lane : Nat) : Nat := 2 * 2 ^ 72 + (stack * 1024 + group) * 64 + lane

/-- The first lane of a group that has passed 1,000 corrected symbols within 1 s. -/
def laneDue? (s : State) (stack group : Nat) : Option Nat :=
  (upFrom 0 64).find? fun l =>
    decide (1000 < ((s.errsAt (laneKey stack group l)).filter fun e => decide (s.time ≤ e / 64 + 1000000000)).length)

/-- The key of a cache way's counts, and its two kinds of errors: corrected ones, and uncorrectable ones. -/
def wayKey (stack way : Nat) : Nat := 3 * 2 ^ 72 + stack * 16 + way
def wayErrs (s : State) (stack way sub : Nat) : Nat := (s.errsAt (wayKey stack way)).countP fun e => e % 64 == sub

/-- A cache way is due (R573): 16 corrected errors, or 2 uncorrectable. -/
def wayDue (s : State) (stack way : Nat) : Bool := decide (16 ≤ s.wayErrs stack way 0) || decide (2 ≤ s.wayErrs stack way 1)

/-- A corrected error (R573): counted package-wide and at its location; an LPDDR6 row that becomes due is logged for the next stage 6. -/
def corrected (s : State) (l : ErrLoc) (n : Nat) : State :=
  let s := s.count (bFn 7) .ERR_CE n
  match locKey l with
  | none => s
  | some k =>
    let s := s.addErrs k (locSub l) n
    match l with
    | .slowRow a =>
      let r := locKey.slowRowOf a.toNat
      if 3 ≤ s.granulesAt k ∧ ¬ s.err.slowRows.contains r then { s with err.slowRows := s.err.slowRows ++ [r] } else s
    | _ => s

/-! ### Uncorrectable errors (R578) -/

/-- A failed granule of the tiers. -/
def failGranule (s : State) (a : Nat) : State :=
  match tierKey (s.target a) with
  | some k => if s.mem.bad.contains (k / 64) then s else { s with mem.bad := (k / 64) :: s.mem.bad }
  | none => s

/-- One uncorrectable granule makes its DRAM row, or LPDDR6 row, due (R573). -/
def rowDue (s : State) (a : Nat) : State :=
  match s.target a with
  | .fast k o =>
    let key := 2 ^ 72 + (k * 2 ^ 32 + bitsOf o 8 7 * 32 + bitsOf o 15 5) * 2 ^ 32 + bitsOf o 23 12
    ((s.addErrs key 0 1).addErrs key 1 1).addErrs key 2 1
  | .slow _ =>
    let r := locKey.slowRowOf a
    if s.err.slowRows.contains r then s else { s with err.slowRows := s.err.slowRows ++ [r] }
  | _ => s

/-- The tile of a unit descriptor's low bits. -/
def unitTile (u : Nat) : Nat := ((bitsOf u 3 2 * 3 + bitsOf u 5 2) * 56 + bitsOf u 7 6) * 16 + bitsOf u 13 5

/-- A word of a store that fails its check. -/
def failWord (s : State) (store place : Nat) : State :=
  if s.mem.badWords.contains (store, place) then s else { s with mem.badWords := (store, place) :: s.mem.badWords }

/-- The descriptor of an agent that an engine buffer or queue context has spoilt ends with the error status of its chapter (R578, item 5).
The record names no word of a buffer, so no datum of the descriptor is changed (DESIGN CHOICE, log entry 121). -/
def spoilDescriptor (s : State) (agent seq : Nat) : State :=
  let e := agent / 2 ^ 24 % 16
  let k := agent / 2 ^ 20 % 16
  let i := agent % 2 ^ 20
  if agent / 2 ^ 28 ≠ 1 then s
  else if k = 3 ∧ e = 0 then
    s.modSmp i fun x => { x with active := x.active.map fun d => if d.seq = seq then { d with err := true } else d }
  else if k = 3 then
    s.modGs i fun x => { x with active := x.active.map fun d => if d.seq = seq ∧ d.status = 0 then { d with status := 2 } else d }
  else if k = 2 then
    s.modEmb i fun x => { x with active := x.active.map fun d => if d.seq = seq ∧ d.status = 0 then { d with status := 2 } else d }
  else if k = 7 ∨ (k = 6 ∧ i % 8 = 1) then
    s.modUpd (if k = 7 then 12 + i else i / 8) fun x => { x with
      batch := x.batch.map fun d => if d.seq = seq ∧ d.status = 0 then { d with status := 2 } else d }
  else if k = 6 then
    s.modDma (4 * (i / 8) + (i % 8 - 2)) fun x => { x with
      active := x.active.map fun d => if d.seq = seq ∧ d.status = 0 then { d with status := 2 } else d }
  else s

/-- What an uncorrectable error does to the location it is found in: later reads deliver zeros until one write covers the word or
granule; a dirty line's word makes its granule fail in DRAM once the line is written back. -/
def failAt (s : State) (unit store addr agent seq : Nat) : State :=
  let t := unitTile unit
  let tileDue (s : State) (st : Nat) : State := s.addErrs ((t * 4 + st) * 2 ^ 18 + addr / 8 % 2 ^ 18) 0 2
  match store with
  | 0 => tileDue { s with mem.badScratch := scratchKey t addr / 8 :: s.mem.badScratch } 0
  | 1 => tileDue (s.failWord 1 (t * 24576 + addr / 8 % 24576)) 1
  | 2 => tileDue (s.failWord 2 (t * 512 + addr / 8 % 512)) 2
  | 3 =>
    let s := tileDue (s.modTile t fun tl => { tl with icache := [] }) 3
    if agent / 2 ^ 28 = 0 ∧ agent / 128 = t ∧ (s.thr t (agent % 128)).run = .running then s.threadFault t (agent % 128) 9 else s
  | 4 =>
    match s.target addr with
    | .fast k o =>
      let s := s.failWord 4 ((k * 2 ^ 35 + o) / 8)
      match findWay (s.ctl k) o with
      | some w => s.addErrs (wayKey k w) 1 1
      | none => s
    | _ => s
  | 5 | 6 => (s.failGranule addr).rowDue addr
  | 10 => { s with rot.resets := if s.rot.resets.any fun r => decide (r.level ≤ 1) then s.rot.resets else [⟨1, 0, 0, none⟩] }
  | 11 => s.spoilDescriptor agent seq
  | _ => s

/-! ### Tiles due for a spare (R574) -/

/-- A tile becomes due while a job is open: its contexts are FREE without completion signals, its launches stop; its spare serves from
the next step boundary. With no job open it waits for a quiescent point. -/
def tileDue (s : State) (t : Nat) : State :=
  if s.jobOpen then
    let lo := t * 128
    let free (k : Nat) (h : Thread) : Thread := if lo ≤ k ∧ k < lo + 128 then { h.freed with pin := h.pin } else h
    let s := { s with tile.threads := Tbl.mapEntries (fun _ => Thread.reset) s.tile.threads free }
    let s := s.modTile t fun tl => { tl with ops := [], lease := none, releasing := false, leaseWait := [], clearMarks := [] }
    (s.orphanThreads (Scope.ofUnit (udTile t))).addDue (.tile t)
  else { s with err.dueLater := s.err.dueLater ++ [t] }

/-- The tile already waits for its spare. -/
def tileWaits (s : State) (t : Nat) : Bool := s.err.dueLater.contains t || s.job.due.contains (.tile t)

/-- A path test of a tile in Reel mode, after an ageing warning of its island, finds the slowest path below 90 % of the island's median beat
rate: the tile is due from ageing alone and waits for job close (R573, R574). -/
def tileAged (s : State) (t : Nat) (path : Nat × Nat) : State :=
  if (s.isl (clusterOfTile t)).aged ∧ (s.tileOf t).reelOn ∧ path.1 * 100 < path.2 * 90
      ∧ ¬ s.tileWaits t ∧ ¬ s.err.dueLater.contains (agedTile t) then
    { s with err.dueLater := s.err.dueLater ++ [agedTile t] }
  else s

/-! ### Repairs in operation (R575, R576) -/

/-- A lane of a group moves onto a spare; a third one in the group makes the region fail. -/
def laneRepair (s : State) (stack group : Nat) : State :=
  let key := stack * 1024 + group
  let n := Tbl.get (fun _ => 0) s.err.lanes key
  let s := match s.laneDue? stack group with
    | some l => s.dropErrs (· == laneKey stack group l)
    | none => s
  if n < 2 then
    let s := { s with err.lanes := Tbl.put (fun _ => 0) s.err.lanes key (n + 1) }
    let used := ((upFrom 0 1024).map fun g => Tbl.get (fun _ => 0) s.err.lanes (stack * 1024 + g)).foldl (· + ·) 0
    (s.setF (bSc stack) Fld.SC_REPAIR_LANES_USED (min 255 (s.getF (bSc stack) Fld.SC_REPAIR_LANES_USED + 1))).repairRecord
      (udRegion stack) 5 0 (Config.spareLanes - used)
  else s.failRegion stack

/-- The spare rows of a stack (R307, R571): two for each of its 128 × 32 banks, each of which lies in one DRAM die. -/
def spareRows : Nat := 8192

/-- A DRAM row's granules move to a spare row; failing ones keep failing. A bank without a spare row keeps its row. -/
def rowRepair (s : State) (stack bank row : Nat) : State :=
  let key := stack * 2 ^ 32 + bank
  let n := Tbl.get (fun _ => 0) s.err.rows key
  if n < 2 then
    let s := { s with err.rows := Tbl.put (fun _ => 0) s.err.rows key (n + 1) }
    let s := s.dropErrs (· == 2 ^ 72 + key * 2 ^ 32 + row)
    let used := (s.err.rows.filter fun e => e.1 / 2 ^ 32 == stack).foldl (fun k e => k + e.2) 0
    (s.setF (bSc stack) Fld.SC_REPAIR_ROWS_USED (min 65535 (s.getF (bSc stack) Fld.SC_REPAIR_ROWS_USED + 1))).repairRecord
      (udRegion stack) 5 0 (spareRows - used)
  else s

/-- A cache way stops filling; its dirty lines are written back and all its lines invalidated, and so are those of the way to which the
reflection store moves (R322). A ninth way makes the region fail. -/
def wayDisable (s : State) (stack w : Nat) : State :=
  let c := s.ctl stack
  let n := c.off.length
  let s := s.dropErrs (· == wayKey stack w)
  if c.off.contains w then s
  else if 8 ≤ n then s.failRegion stack
  else
    let now := { c with off := w :: c.off }
    let leaves (k : Nat) : Bool := k % 16 == w || (c.pin && k % 16 == pinWay now)
    let lines := c.lines.filter fun e => leaves e.1
    let s := (s.linesLeave stack lines).modCtl stack fun _ => { now with lines := Tbl.dropIf c.lines leaves }
    let s := (s.setF (bSc stack) Fld.SC_REPAIR_WAYS_OFF (n + 1)).setF (bSc stack) Fld.SC_STATUS_WAYS (15 - n)
    s.repairRecord (udRegion stack) 4 0 (7 - n)

/-- A row of a sync memory is remapped and its 64 counters abandoned (R576). -/
def syncRemap (s : State) (c : Nat) : State :=
  let m := syncMemOf c
  let n := Tbl.get (fun _ => 0) s.err.syncUsed m
  let row := c / 64
  let s := s.foldS (upFrom (64 * row) 64) abandon
  if n < (if m = 672 then 8 else 2) then
    let s := { s with err.syncUsed := Tbl.put (fun _ => 0) s.err.syncUsed m (n + 1) }
    s.repairRecord (if m = 672 then udHub else udCluster m) 9 (64 * row) ((if m = 672 then 8 else 2) - (n + 1))
  else if s.err.syncDead.contains row then s
  else { s with err.syncDead := row :: s.err.syncDead }

/-! ### Tile spares and their fuses (R7, R102, R103, R577) -/

/-- A field a blown fuse backs stays (R103): the enabled spare keeps its tile. -/
def spareMerge (s : State) (n v : Nat) : Nat :=
  if s.flag (bCluster n) Fld.CL_SPARE_FUSE_EN then (s.reg (bCluster n) .CL_SPARE).toNat else v % 32

/-- A write of CL_SPARE (R103, R577): rejected while a job is open; a field that a fuse row backs whose parity failed stays as it is. -/
def spareWrite (s : State) (n v : Nat) : State :=
  let b := bCluster n
  if s.jobOpen then s.setFlag b Fld.CL_SPARE_STATUS_REJECT true
  else if s.flag b Fld.CL_SPARE_STATUS_PARITY_BAD then s
  else
    let was := (s.reg b .CL_SPARE).toNat
    let v := s.spareMerge n v
    let s := s.setReg b .CL_SPARE 0 (BitVec.ofNat 64 v)
    if v.testBit 4 ∧ was ≠ v then s.useSpare (16 * n + v % 16) else s

/-- A write of CL_SPARE_PROG (R103, R577). -/
def spareProg (s : State) (n v : Nat) : State :=
  let b := bCluster n
  let blown := s.flag b Fld.CL_SPARE_FUSE_EN || s.flag b Fld.CL_SPARE_STATUS_PARITY_BAD
  if s.jobOpen || s.flag b Fld.CL_SPARE_STATUS_PROG_BUSY || (v.testBit 4 && blown) then
    s.setFlag b Fld.CL_SPARE_STATUS_REJECT true
  else ({ s with err.fuse := Tbl.put (fun _ => 0) s.err.fuse n (v % 32 + 32) }).setFlag b Fld.CL_SPARE_STATUS_PROG_BUSY true

/-- The requested fuses of a cluster are blown (R103). -/
def spareFused (s : State) (n : Nat) : State :=
  let b := bCluster n
  let v := Tbl.get (fun _ => 0) s.err.fuse n
  if v = 0 then s
  else
    let s := { s with err.fuse := Tbl.put (fun _ => 0) s.err.fuse n 0 }
    let s := if v.testBit 4 then s.setReg b .CL_SPARE_FUSE 0 (BitVec.ofNat 64 (v % 32)) else s
    s.setFlag b Fld.CL_SPARE_STATUS_PROG_BUSY false

/-- Programming in progress completes before any reset starts (R577). -/
def finishFuses (s : State) : State :=
  let busy := s.regs.filter fun e => keyReg e.1 == .ARR_STATUS && (e.2.toNat.testBit Fld.ARR_STATUS_PROG_BUSY.lo)
  let s := s.foldS busy fun s e => s.fuseDone (keyBlk e.1).i
  s.foldS (s.err.fuse.map Prod.fst) spareFused

end State

/-! ### The rows -/

/-- FUSE_PROG_DONE (R103, R577). -/
def execFuseProgDone (unit : FuseUnit) (s : State) : Host.Outcome State Fault Refusal :=
  .next (match unit with
    | .array a => s.fuseDone a
    | .cluster n => s.spareFused n)

/-- CORRECTED_ERROR (R573). -/
def execCorrectedError (loc : ErrLoc) (n : Nat) (s : State) : Host.Outcome State Fault Refusal :=
  .next (if n = 0 then s else s.corrected loc n)

/-- ERROR_COUNT_EXPIRY (R573): counts older than 24 h. -/
def execErrorCountExpiry (s : State) : Host.Outcome State Fault Refusal :=
  .next { s with err.counts := Tbl.mapEntries (fun _ => []) s.err.counts fun k _ => s.errsAt k }

/-- UNCORRECTABLE_ERROR (R578): a clean stack-cache line is refetched and counts as corrected. -/
def execUncorrectableError (unit : BitVec 28) (store : Fin 13) (addr : BitVec 52) (access : Fin 6) (agent seq step : BitVec 32)
    (dirty : Bool) (s : State) : Host.Outcome State Fault Refusal :=
  .next (if store = 4 && !dirty then
      let s := s.count (bFn 7) .ERR_CE
      match s.target addr.toNat with
      | .fast k o => match State.findWay (s.ctl k) o with
        | some w => s.addErrs (State.wayKey k w) 0 1
        | none => s
      | _ => s
    else (s.uncorrectable ⟨unit.toNat, store, addr.toNat, access, seq.toNat, step.toNat, agent.toNat⟩).failAt
      unit.toNat store addr.toNat agent.toNat seq.toNat)

/-- TILE_DUE (R573, R574): by its error counts, or by a path test. -/
def execTileDue (check : TileCheck) (s : State) : Host.Outcome State Fault Refusal :=
  .next (match check.path with
    | some p => s.tileAged check.tile p
    | none => if s.tileIsDue check.tile && !s.tileWaits check.tile then s.tileDue check.tile else s)

/-- LANE_REPAIR (R571, R575): in operation for a lane that is due, or as the lane test at training finds it. -/
def execLaneRepair (stack : RegionId) (group : BitVec 10) (s : State) : Host.Outcome State Fault Refusal :=
  .next (if (s.laneDue? stack group.toNat).isSome || s.stage == 4 then s.laneRepair stack group.toNat else s)

/-- DRAM_ROW_REPAIR (R573, R575): `bank` is pseudo-channel × 32 + bank of the DRAM die. -/
def execDramRowRepair (stack : RegionId) (bank row : BitVec 32) (s : State) : Host.Outcome State Fault Refusal :=
  .next (if 3 ≤ s.granulesAt (2 ^ 72 + (stack.val * 2 ^ 32 + bank.toNat) * 2 ^ 32 + row.toNat) then
      s.rowRepair stack bank.toNat row.toNat
    else s)

/-- CACHE_WAY_DISABLE (R573, R575). -/
def execCacheWayDisable (stack : RegionId) (way : Fin 16) (s : State) : Host.Outcome State Fault Refusal :=
  .next (if s.wayDue stack way then s.wayDisable stack way else s)

/-- SYNC_ROW_REMAP (R576). -/
def execSyncRowRemap (counter : CounterId) (s : State) : Host.Outcome State Fault Refusal := .next (s.syncRemap counter)

/-- PATROL_SCRUB (R578, R580): the corrected errors that a pass of a stack finds; SCRUB_H 0 stops scrubbing. -/
def execPatrolScrub (stack : RegionId) (corrected : List ErrLoc) (s : State) : Host.Outcome State Fault Refusal :=
  let here (l : ErrLoc) : Bool := match l with
    | .dramRow r .. | .way r _ | .lane r .. => r == stack
    | _ => false
  .next (if s.getF (bFn 7) Fld.ERR_CTRL_SCRUB_H = 0 then s
    else s.foldS (corrected.filter here) fun s l => s.corrected l 1)

/-- CL_SPARE_WRITE (R577). -/
def execClSpareWrite (cluster : ClusterId) (w : Writer) (value : BitVec 32) (s : State) : Host.Outcome State Fault Refusal :=
  .next (ifControl w s (s.ifReached (bCluster cluster) (s.spareWrite cluster value.toNat)))

/-- CL_SPARE_PROG (R577). -/
def execClSpareProg (cluster : ClusterId) (w : Writer) (value : BitVec 32) (s : State) : Host.Outcome State Fault Refusal :=
  .next (ifControl w s (s.ifReached (bCluster cluster) (s.spareProg cluster value.toNat)))

def State.errClear (s : State) : State :=
  s.clearRegs (bFn 7) 0 [.ERR_CE, .ERR_UE, .ERR_MERGED]

/-- ERR_CNT_CLEAR (R581). -/
def execErrCntClear (w : Writer) (s : State) : Host.Outcome State Fault Refusal :=
  .next (ifControl w s s.errClear)

end Sys2Proof.Machine
end

