-- ==== Sys2Proof/Machine/Boot.lean ====
section
/-! DEFINITION. Start-up, input, trips, resets and the root of trust (R538 to R540, R554 to R570, R600). -/

namespace Sys2Proof.Machine

/-- Junction temperatures in 0.25 °C: 85 °C and 115 °C. -/
def temp85 : Nat := 340
def temp115 : Nat := 460

namespace State

/-! ### Start-up (R554 to R557) -/

/-- 48 V is present and no trip holds the rails off. -/
def powered (s : State) : Bool := s.rot.input && !s.pwr.tripped

/-- The image a firmware slot holds (R559). -/
def slotImage (s : State) (k : Nat) : List Byte :=
  match s.rot.slots.getD k [] with
  | [] => Config.factoryImage k
  | l => l

/-- The enrolled key set as measured. -/
def keySet (s : State) : List Byte := (upFrom 0 4).flatMap fun k => fit 1952 ((Tbl.find? s.rot.keys k).getD [])

/-- Rollback counters and spare-fuse images as measured (R561). -/
def fuseSet (s : State) : List Byte :=
  leBytes 1 (s.getF (bFn 6) Fld.BOOT_STATUS_FW_RB) ++ leBytes 1 (s.getF (bFn 6) Fld.BOOT_STATUS_EXT_RB)
    ++ (upFrom 0 43008).flatMap (fun a => leBytes 4 (s.reg (bArray a) .ARR_FUSE).toNat)
    ++ (upFrom 0 672).flatMap fun n => leBytes 4 (s.reg (bCluster n) .CL_SPARE_FUSE).toNat

/-- What stage 3 measures whatever firmware starts (R561): fuses and keys. -/
def measured (s : State) : State :=
  let s := s.foldS (upFrom 0 8) fun s i => s.setMeasure i []
  (s.extend 0 s.fuseSet).extend 2 s.keySet

/-- Verified firmware of a slot starts (R555, R561). -/
def startSlot (s : State) (k : Nat) (fallback : Bool) : State :=
  let b := bFn 6
  let img := s.slotImage k
  let s := s.measured.extend 1 (imgDigest img)
  let s := (s.setF b Fld.BOOT_STATUS_SLOT k)
  let s := if fallback then s.setFlag b Fld.BOOT_STATUS_SLOT_FALLBACK true else s
  { s with rot.running := img.take 256 }.setStage 3

/-- Standalone ready (R554, R570): READY_MS is of the first time since stage 1 began. -/
def standalone (s : State) : State :=
  if s.rot.tested && s.hl.ready && s.stage == 5 then
    let s := s.setStage 6
    if s.rot.up then s
    else { s with rot.up := true }.setF (bFn 6) Fld.BOOT_STATUS_READY_MS ((s.lw.ticks - s.rot.began) / 1000000)
  else s

/-- A control core fails its self-test (R490): the spare serves its number, or it stays out. -/
def coreFails (s : State) (c : Nat) : State :=
  let b := bFn 0
  if (upFrom 0 16).any fun k => s.getF b Fld.CC_CORE_PHYS k == 16 then s.setF b Fld.CC_CORE_STATE 3 c
  else (s.setF b Fld.CC_CORE_PHYS 16 c).repairRecord udHub 0 0 0

/-- LPDDR6 rows logged before are repaired (R571). -/
def repairSlow (s : State) : State :=
  let rows := s.err.slowRows
  ({ s with err.slowRows := [] }).foldS rows fun s r => s.repairRecord (udSlow (r / 2 ^ 23 / 8)) 6 0 0

/-- A spare fuse row whose parity fails is out of use, its spare counted as used (R577). -/
def parityFails (s : State) (u : FuseUnit) : State :=
  match u with
  | .array a => ((s.spareCounts (bArray a) 0 2).setReg (bArray a) .ARR_REMAP 0 0).repairRecord (udArray a) 0 0 0
  | .cluster n =>
    ((s.setFlag (bCluster n) Fld.CL_SPARE_STATUS_PARITY_BAD true).setReg (bCluster n) .CL_SPARE 0 0).repairRecord (udCluster n) 0 0 0

/-- The remap image that covers failing cells of an array, from the one in force (R101): the spare row first, the spare column only for what
the row does not cover; none where they do not lie in one row and one column, or the spares are in use. Of several rows that would do the
lowest is taken (log entry 129). -/
def coverCells (v : Nat) (cells : List (Fin 32 × Fin 32)) : Option Nat :=
  let left := cells.filter fun c =>
    !(v.testBit 5 && c.1.val == bitsOf v 0 5) && !(v.testBit 11 && c.2.val == bitsOf v 6 5)
  let column (v : Nat) (rest : List (Fin 32 × Fin 32)) : Option Nat := match rest with
    | [] => some v
    | c :: r => if !v.testBit 11 && r.all (fun d => d.2 == c.2) then some (setBits v 6 6 (c.2.val + 32)) else none
  if v.testBit 5 || left.isEmpty then column v left
  else
    let without (r : Nat) : List (Fin 32 × Fin 32) := left.filter fun c => c.1.val != r
    let row := ((upFrom 0 32).find? fun r => (without r).isEmpty) <|> (upFrom 0 32).find? fun r => (column v (without r)).isSome
    row.bind fun r => column (setBits v 0 6 (r + 32)) (without r)

/-- Spares of an array in use under a remap image. -/
def sparesUsed (v : Nat) : Nat := bitsOf v 5 1 + bitsOf v 11 1

/-- An array's self-test finds failing cells (R101): its spares cover them, each under a repair record (R571), or its tile has failed. None
of the spares of an array whose fuse row failed its parity is used (R577). Whether the array serves, and the state. -/
def repairArray (s : State) (a : Nat) (cells : List (Fin 32 × Fin 32)) : Bool × State :=
  let old := (s.reg (bArray a) .ARR_REMAP).toNat
  if s.fuseRowBad a then (cells.isEmpty, s)
  else match coverCells old cells with
    | none => (false, s)
    | some v =>
      (true, (s.setReg (bArray a) .ARR_REMAP 0 (BitVec.ofNat 64 v)).foldS (upFrom (sparesUsed old) (sparesUsed v - sparesUsed old)) fun s n =>
        s.repairRecord (udArray a) 0 0 (1 - n))

/-! ### Resets that meet (R569) -/

/-- A command's reset has been stopped or absorbed (R568, R569). -/
def resetAborted (s : State) (r : ResetReq) : State :=
  match r.mailbox with
  | some m => s.answer m 9 []
  | none => s

/-- A reset arrives: it is absorbed, waits behind an earlier unit reset, or stops those below it. -/
def requestReset (s : State) (r : ResetReq) : State :=
  match s.rot.resets with
  | [] => { s with rot.resets := [r] }
  | h :: _ =>
    if r.level < h.level then
      let old := s.rot.resets
      { s.foldS old resetAborted with rot.resets := [r] }
    else if r.level = 4 ∧ h.level = 4 then { s with rot.resets := s.rot.resets ++ [r] }
    else s.resetAborted r

/-- The complex wakes from HOLD by a fixed cause (R504). -/
def fixedWake (s : State) : State := if s.pwr.cc = 1 then s.ccWake 32 else s

/-! ### Trips (R538 to R540) -/

/-- The always-on rail is up: with the input, and for 5 ms after its loss (R600). -/
def alwaysOn (s : State) : Bool := s.rot.input || decide (s.lw.ticks ≤ s.rot.began + 5000000)

/-- A trip of a cause drops the rails, once fuses that are being programmed are done (R577); while they are off a further cause is only
recorded. In the time that the always-on rail is held after a loss of the input a cause is a trip too (R600). -/
def tripBy (s : State) (rec_ : State → State) : State :=
  if !s.alwaysOn then s
  else if !s.rot.input then { rec_ s with pwr.tripped := true, pwr.unreported := true }
  else if s.pwr.tripped then rec_ s
  else if s.stage = 0 then s
  else rec_ s.finishFuses.trip

/-! ### Images and keys (R558 to R566) -/

/-- A thread of the extension's range with a priority above 15 has 15 (R491). -/
def lowerPrio (s : State) (t : Nat) : State :=
  let s := s.modSthr t fun v => { v with next := v.next.map fun p => (min 15 p.1, p.2) }
  if s.tstate t = 0 ∨ s.tprio t ≤ 15 then s
  else if s.tstate t = 1 then
    ((s.setReady (s.thome t) ((s.readyList (s.thome t)).erase t)).setF (bFn 1) Fld.TS_THR0_PRIO 15 (4 * t)).placeReady t false
  else s.setF (bFn 1) Fld.TS_THR0_PRIO 15 (4 * t)

/-- An extension is loaded in place of any other (R491, R559, R561): core 15 stops running another thread. -/
def loadExt (s : State) (img : List Byte) : State :=
  let s := if s.rot.ext.isSome then s.unloadExt else s
  let s := (s.setFlag (bFn 0) Fld.CC_CORE_EXT true 15).setFlag (bFn 6) Fld.BOOT_STATUS_EXT_LOADED true
  let s := match s.runningOn 15 with
    | some t => (s.endRun t).enterReady t true
    | none => s
  (s.foldS (upFrom 224 32) lowerPrio).extend 3 (imgDigest img) |> fun s => { s with rot.ext := some img }

/-- A verified image goes to the slot not running, or is loaded; an image that fails its checks is none. -/
def fwLoad (s : State) (img : List Byte) : Option State :=
  if s.imageOk img 0 then
    let k := 1 - s.getF (bFn 6) Fld.BOOT_STATUS_SLOT
    some { s with rot.slots := s.rot.slots.set k img, rot.active := k }
  else if s.stage != 7 && s.imageOk img 1 then some (s.loadExt img)
  else none

/-- A key request passes R565 for a kind. -/
def keyOk (s : State) (b : List Byte) (kind : Nat) : Bool :=
  let n (lo w : Nat) : Nat := leNat (cut b lo w)
  let slot := n 4 4
  let signer := n 16 4
  let enrolled (k : Nat) : Bool := (Tbl.find? s.rot.keys k).isSome
  let signed := if signer = 0xFFFFFFFF then s.keyBits == 0
    else decide (signer < 4) && enrolled signer
      && Config.mlDsaVerify ((Tbl.find? s.rot.keys signer).getD []) (b.take 2016 ++ deviceId) (cut b 2016 3309)
  n 0 4 == kind && decide (slot ≤ 3) && decide (s.rot.request < n 8 8) && signed && (enrolled slot == (kind == 1))

/-- A key request takes effect (R564, R565). -/
def keyApply (s : State) (b : List Byte) (kind : Nat) : State :=
  let slot := leNat (cut b 4 4)
  let s := if kind = 1 ∧ (s.rot.ext.map imgSlot) = some slot then s.unloadExt else s
  let s := { s with
    rot.request := leNat (cut b 8 8)
    rot.keys := if kind = 0 then Tbl.insert s.rot.keys slot (cut b 64 1952) else Tbl.erase s.rot.keys slot }
  let s := s.setF (bFn 6) Fld.BOOT_STATUS_KEYS s.keyBits
  s.extend 2 s.keySet

/-- KEY_ENROL and KEY_REMOVE. -/
def keyCommand (s : State) (m op kind : Nat) : State :=
  s.kciRun m ⟨op, [0], false, false⟩ fun s =>
    let a := s.req m 0 8
    if a % 64 ≠ 0 ∨ ¬ s.inTiers a 5325 then .refused 4
    else
      let b := s.devBytes a 5325
      if s.keyOk b kind then .ok (leBytes 8 a) 0 (s.keyApply b kind) else .refused 8

end State

/-! ### The rows: start-up and input -/

/-- COLD_START (R554, R540): stage 1 ends once interlock light is present and every sensor reads 85 °C or less. -/
def execColdStart (light : Bool) (hottest : BitVec 10) (s : State) : Host.Outcome State Fault Refusal :=
  .next (if s.powered && s.stage == 0 && light && decide (hottest.toNat ≤ temp85) then s.setStage 2 else s)

/-- ROOT_OF_TRUST_VERIFY (R555, R559, R561): the active slot, else the other one; with neither, recovery. -/
def execRootOfTrustVerify (s : State) : Host.Outcome State Fault Refusal :=
  let a := s.rot.active
  .next (if !s.powered || s.stage != 2 then s
    else if s.imageOk (s.slotImage a) 0 then s.startSlot a false
    else if s.imageOk (s.slotImage (1 - a)) 0 then s.startSlot (1 - a) true
    else s.measured.setStage 7)

/-- CONTROL_CORE_SELF_TEST (R490, R554): at its end the ports begin to train. -/
def execControlCoreSelfTest (failed : List CoreId) (s : State) : Host.Outcome State Fault Refusal :=
  .next (if !s.powered || s.stage != 3 then s
    else ((s.foldS failed fun s c => s.coreFails c).setStage 4).portsSearch)

/-- MEMORY_TRAINING (R554, R555, R557, R571): the tiers are cleared once after power came; stacks and channel pairs that fail are absent. -/
def execMemoryTraining (regions : List RegionId) (pairs : List (Fin 24)) (s : State) : Host.Outcome State Fault Refusal :=
  .next (if !s.powered || s.stage != 4 then s
    else
      let s := if s.rot.cleared then s else { s.clearTiers 3 with rot.cleared := true }
      let s := s.repairSlow.foldS regions fun s r => s.failRegion r
      { s with mem.deadPairs := pairs.map Fin.val ++ s.mem.deadPairs }.setStage 5)

/-- TILE_SELF_TEST (R101, R102, R555, R571, R577): array spares, tile spares, and those that waited for a quiescent point. `cells` are the
failing cells of arrays, `failed` the tiles that fail otherwise. -/
def execTileSelfTest (parityBad : List FuseUnit) (cells : List BadCells) (failed : List TileId) (s : State) :
    Host.Outcome State Fault Refusal :=
  .next (if !s.powered || s.stage != 5 || s.rot.tested then s
    else
      let s := s.foldS parityBad State.parityFails
      let bad := cells.filter fun e => !(s.repairArray e.1 e.2).1
      let s := s.foldS cells fun s e => (s.repairArray e.1 e.2).2
      let s := (s.swapLater Scope.all).foldS (failed.map Fin.val ++ bad.map fun (e : BadCells) => e.1.val / 4).dedup State.swapTile
      { s with rot.tested := true }.standalone)

/-- PCIE_CONFIG_READY (R512, R554). -/
def execPcieConfigReady (s : State) : Host.Outcome State Fault Refusal :=
  .next (if !s.powered || s.flag (bFn 4) Fld.HL_STATUS_PERST then s else { s with hl.ready := true }.standalone)

/-- The input is gone, or disconnected on the module (R600): a trip is over only once it has been away for 1 s (R540). -/
def State.inputGone (s : State) : State :=
  if s.rot.input then { s.coldReset with rot.input := false, pwr.tripped := s.pwr.tripped } else s

/-- INPUT_LOSS (R557, R600). -/
def execInputLoss (s : State) : Host.Outcome State Fault Refusal := .next s.inputGone

/-- INPUT_OVERVOLTAGE (R600): the module disconnects its input. -/
def execInputOvervoltage (s : State) : Host.Outcome State Fault Refusal := .next s.inputGone

/-- INPUT_RESTORED (R540, R557, R600): time zero of a new sequence; a trip ends where the input was away for at least 1 s. -/
def execInputRestored (s : State) : Host.Outcome State Fault Refusal :=
  .next (if s.rot.input then s
    else { s.coldReset with rot.input := true, pwr.tripped := s.pwr.tripped && decide (s.lw.ticks < s.rot.began + 1000000000) })

/-! ### The rows: trips -/

/-- INTERLOCK_TRIP (R538, R540). -/
def execInterlockTrip (s : State) : Host.Outcome State Fault Refusal :=
  .next (s.tripBy fun s => s.setFlag (bFn 5) Fld.PM_TRIP_INTERLOCK true)

/-- THERMAL_TRIP (R539, R540): at 115 °C. -/
def execThermalTrip (temp : BitVec 10) (s : State) : Host.Outcome State Fault Refusal :=
  .next (if temp.toNat < temp115 then s
    else s.tripBy fun s => (s.setFlag (bFn 5) Fld.PM_TRIP_THERMAL true).setF (bFn 5) Fld.PM_TRIP_TEMP temp.toNat)

/-- TRIP_RESTART (R540, R550): the restart that was asked for takes place once its conditions hold; it is a cold start, which restarts the
meter. -/
def execTripRestart (light : Bool) (hottest : BitVec 10) (s : State) : Host.Outcome State Fault Refusal :=
  .next (if s.rot.input && s.pwr.tripped && s.pwr.restart && light && decide (hottest.toNat ≤ temp85) then
      { s.coldReset with mtr.restarted := true }.setStage 2
    else s)

/-! ### The rows: host resets -/

/-- PERST_ASSERT (R504, R511, R518): host-window reads in flight end as errors, the wake is discarded, a warm reset starts. -/
def execPerstAssert (s : State) : Host.Outcome State Fault Refusal :=
  let b := bFn 4
  .next (if s.flag b Fld.HL_STATUS_PERST then s
    else
      let reads := s.ms.hostReads
      let s := ({ s with ms.hostReads := [] }).foldS reads fun s r => s.uncorrectable ⟨udHub, 7, hostBase + r.2, 0, 0, 0, 0xFFFFFFFF⟩
      let s := (s.setFlag b Fld.HL_STATUS_PERST true).setF b Fld.HL_STATUS_SPEED 0
      let s := { s with hl := { s.hl with d3hot := false, pmeEn := false, wake := false, ready := false, asked := false, posted := [] }, ev.msix := [], ev.pba := [] }
      s.fixedWake.requestReset ⟨1, 0, 0, none⟩)

/-- PERST_DEASSERT (R504, R512). -/
def execPerstDeassert (s : State) : Host.Outcome State Fault Refusal :=
  .next (if s.flag (bFn 4) Fld.HL_STATUS_PERST then (s.setFlag (bFn 4) Fld.HL_STATUS_PERST false).fixedWake else s)

/-- FUNCTION_LEVEL_RESET (R504, R512, R567 to R569): by a Configuration Request of the host, or of a RESET of level 2. -/
def execFunctionLevelReset (s : State) : Host.Outcome State Fault Refusal :=
  let run (s : State) : State := { s.finishFuses.functionReset with rot.resets := [] }
  .next (match s.rot.resets with
    | [] => s.ifConfig (run s.fixedWake)
    | h :: _ =>
      if h.level = 2 then run s.fixedWake
      else if h.level < 2 then s.ifConfig s.fixedWake
      else s.ifConfig (run (s.foldS s.rot.resets State.resetAborted).fixedWake))

/-! ### The rows: reset levels -/

/-- RESET (R567 to R569): the level and the unit are checked, then the reset is in progress. A clear flag of R474 stands at offset 8. -/
def execReset (mailbox : MailboxId) (s : State) : Host.Outcome State Fault Refusal :=
  let m := mailbox.val
  .next (s.kciRun m ⟨0x97, [0, 1, 2], false, false⟩ fun s =>
    let (l, k) := clampN 1 4 (s.req m 0 4)
    let u := s.req m 4 4 % 2 ^ 28
    let (lv, t) := (u % 8, State.unitTile u)
    let unitOk := decide (2 ≤ lv) && decide (lv ≤ 5) && decide (bitsOf u 3 2 < 4) && (lv == 5 || decide (bitsOf u 5 2 < 3))
      && (decide (4 ≤ lv) || decide (bitsOf u 7 6 < 56)) && (decide (3 ≤ lv) || (decide (bitsOf u 13 5 < 16) && decide (t < 10752)))
    let absorbed := match s.rot.resets with
      | [] => false
      | h :: _ => decide (h.level ≤ l) && !(h.level == 4 && l == 4)
    if absorbed then .refused 9
    else if 3 ≤ l ∧ s.job.busy.isSome then .refused 1
    else if l = 4 ∧ ¬ unitOk then .refused 4
    else .later k (s.requestReset ⟨l, u, s.req m 8 4 % 4, some m⟩))

/-- WARM_RESET (R557, R567, R568, R577). -/
def execWarmReset (s : State) : Host.Outcome State Fault Refusal :=
  .next (match s.rot.resets with
    | h :: _ => if h.level = 1 then { s.finishFuses.warmReset h.mailbox with rot.resets := [] } else s
    | [] => s)

/-- JOB_RESET (R567, R568): the command is answered with its fields in force. -/
def execJobReset (s : State) : Host.Outcome State Fault Refusal :=
  .next (match s.rot.resets with
    | h :: r =>
      if h.level = 3 then
        let s := { s.finishFuses.jobReset h.flags with rot.resets := r }
        match h.mailbox with
        | some m => s.answer m 0 (leBytes 4 3 ++ leBytes 4 h.unit ++ leBytes 4 h.flags)
        | none => s
      else s
    | [] => s)

/-- UNIT_RESET (R567 to R569). -/
def execUnitReset (s : State) : Host.Outcome State Fault Refusal :=
  .next (match s.rot.resets with
    | h :: r =>
      if h.level = 4 then
        let s := { s.finishFuses.unitReset h.unit with rot.resets := r }
        match h.mailbox with
        | some m => s.answer m 0 (leBytes 4 4 ++ leBytes 4 h.unit)
        | none => s
      else s
    | [] => s)

/-! ### The rows: root of trust -/

/-- ATTEST (R563, R566). -/
def execAttest (mailbox : MailboxId) (s : State) : Host.Outcome State Fault Refusal :=
  let m := mailbox.val
  .next (s.kciRun m ⟨0x90, [0, 1, 2], false, false⟩ fun s =>
    .ok (s.attestation ((upFrom 0 32).map fun k => BitVec.ofNat 8 (s.req m k 1))) 0 s)

/-- IDENT_READ (R562, R566). -/
def execIdentRead (mailbox : MailboxId) (s : State) : Host.Outcome State Fault Refusal :=
  let m := mailbox.val
  .next (s.kciRun m ⟨0x91, [0, 1, 2], false, false⟩ fun s =>
    .ok (if s.req m 0 4 = 0 then devicePub else deviceCert) (if s.req m 0 4 ≤ 1 then 0 else 1) s)

/-- FW_LOAD (R555, R559, R566). -/
def execFwLoad (mailbox : MailboxId) (s : State) : Host.Outcome State Fault Refusal :=
  let m := mailbox.val
  .next (s.kciRun m ⟨0x92, [0], false, false⟩ fun s =>
    let a := s.req m 0 8
    let n := s.req m 8 4
    if ¬ s.inTiers a n then .refused 4
    else match s.fwLoad (s.devBytes a n) with
      | some t => .ok (leBytes 8 a ++ leBytes 4 n) 0 t
      | none => .refused 8)

/-- FW_COMMIT (R560, R566): a counter never falls. -/
def execFwCommit (mailbox : MailboxId) (s : State) : Host.Outcome State Fault Refusal :=
  let m := mailbox.val
  .next (s.kciRun m ⟨0x93, [0], false, false⟩ fun s =>
    let (k, c) := clampN 0 1 (s.req m 0 4)
    let f := if k = 0 then Fld.BOOT_STATUS_FW_RB else Fld.BOOT_STATUS_EXT_RB
    let level := if k = 0 then imgRollback s.rot.running else (s.rot.ext.map imgRollback).getD 0
    .ok (leBytes 4 k) c (s.setF (bFn 6) f (max (s.getF (bFn 6) f) (min 63 level))))

/-- KEY_ENROL (R564 to R566). -/
def execKeyEnrol (mailbox : MailboxId) (s : State) : Host.Outcome State Fault Refusal := .next (s.keyCommand mailbox 0x94 0)

/-- KEY_REMOVE (R564 to R566). -/
def execKeyRemove (mailbox : MailboxId) (s : State) : Host.Outcome State Fault Refusal := .next (s.keyCommand mailbox 0x95 1)

/-- EXT_UNLOAD (R492, R566). -/
def execExtUnload (mailbox : MailboxId) (s : State) : Host.Outcome State Fault Refusal :=
  .next (s.kciRun mailbox ⟨0x96, [0], false, false⟩ fun s => .ok [] 0 (if s.rot.ext.isSome then s.unloadExt else s))

/-- BOOT_QUERY (R566, R570). -/
def execBootQuery (mailbox : MailboxId) (s : State) : Host.Outcome State Fault Refusal :=
  .next (s.kciRun mailbox ⟨0x98, [0, 1, 2], false, false⟩ fun s => .ok (leBytes 8 (s.reg (bFn 6) .BOOT_STATUS).toNat) 0 s)

end Sys2Proof.Machine
end

