-- ==== Sys2Proof/Machine/Observe.lean ====
section
/-! DEFINITION. Counter banks and shadow capture (R582 to R597). Of the beats of R585 to R587 those that a hold of an element boundary
makes are counted (log entry 122), the rest are timing; work items are counted. -/

namespace Sys2Proof.Machine

/-- The bank of a stack controller: the only ones with a prefetch mode (R584). -/
def bankIsSc (b : Nat) : Bool := decide (12096 ≤ b) && decide (b < 12192) && (b - 12096) % 8 == 0

namespace State

/-! ### What the scheduler's registers show (R506) -/

/-- Nanoseconds of the last 100 ms that lie in an interval. -/
def overlap100 (s : State) (e : Nat × Nat) : Nat := min e.2 s.time - max e.1 (s.time - 100000000)

/-- TS_CORE of a core. -/
def tsCore (s : State) (c : Nat) : Nat :=
  let run := s.runningOn c
  let l := s.readyList c
  let now := match run with
    | some t => [((s.sthr t).since, s.time)]
    | none => []
  let load := (((Tbl.get (fun _ => []) s.sched.busy c : List (Nat × Nat)) ++ now).foldl (fun n e => n + s.overlap100 e) 0) / 100000
  (match run with | some t => t + 2 ^ 8 | none => 0) + l.length * 2 ^ 9 + ((l.head?.map s.tprio).getD 0) * 2 ^ 18 + min load 1000 * 2 ^ 23

/-- A word of TS_THR. -/
def tsThr (s : State) (t w : Nat) : Nat :=
  if w = 2 then
    let v := s.sthr t
    let now := if s.tstate t = 1 then s.time - v.since else 0
    let us (n : Nat) : Nat := min (2 ^ 32 - 1) (n / 1000)
    us (v.waited + now) + us (max v.longest now) * 2 ^ 32
  else (s.reg (bFn 1) .TS_THR (4 * t + w)).toNat

/-! ### Banks (R584, R589) -/

def clearBank (s : State) (b : Nat) : State := s.foldS (upFrom 0 16) fun s k => s.setReg (bBank b) .CB_CNT k 0

/-- A bank's mode set; a change clears its counters (R584). The mode in force. -/
def bankMode (s : State) (b mode : Nat) : Nat × State :=
  let m := if bankIsSc b then min 1 mode else 0
  if s.getF (bBank b) Fld.CB_CTRL_MODE = m then (m, s)
  else (m, (s.setF (bBank b) Fld.CB_CTRL_MODE m).clearBank b)

/-! ### Capture (R590 to R595) -/

/-- A statistics unit, by its generator, is in a set (R67): set 0 is the package, set r + 1 the tiles and the fast-tier update engine of
region r. -/
def inSet (set g : Nat) : Bool :=
  set == 0 || (if g < 10752 then regionOfTile g else g - 10752) + 1 == set

/-- The sums of the statistics units' shadow copies over a set, by counter index (R67). A sum that does not fit 48 bits saturates like the
counters (log entry 118). -/
def statSums (s : State) (set : Nat) : Tbl Nat :=
  (s.snap.stat.filter fun e => inSet set (e.1 / 512)).foldl (fun t e => Tbl.upd (fun _ => 0) t (e.1 % 512) fun n => satAdd n e.2) []

/-- A statistics set is in the scope: a region's where the scope holds the whole region, the package's for the package (R593). -/
def setIn (c : Scope) (set : Nat) : Bool := if set = 0 then c.whole else decide (set < 13) && c.region (set - 1)

/-- The statistics sets that a capture updates: 360 entries each. -/
def capSets (s : State) : List (Nat × Nat) :=
  ((upFrom 0 13).filter (setIn s.capScope)).flatMap fun set =>
    let t := s.statSums set
    (upFrom 0 360).map fun i => (wSet set + i, Tbl.get (fun _ => 0) t i)

/-- Engines and queue contexts among those captured or skipped; statistics units are neither. -/
def capEngines (l : List Nat) : Nat := (l.filter fun e => decide (e < 2 ^ 21)).length

/-- The header's words (R594). -/
def capHeader (s : State) : List (Nat × Nat) :=
  [(0, s.snap.seq), (1, 1), (2, s.snap.injected), (3, s.snap.lastAt), (4, s.snap.scope % 2 ^ 28),
   (5, capEngines s.snap.done + capEngines s.snap.skipped * 2 ^ 32)]

/-- Mailbox and scheduler entries, for the package only (R593). -/
def capPackage (s : State) : List (Nat × Nat) :=
  if !s.capScope.whole then []
  else
    (upFrom 0 64).map (fun m => (wClamps m, (s.mb m).clamps))
      ++ (upFrom 0 16).map (fun c => (wCore c, s.tsCore c))
      ++ (upFrom 0 256).flatMap fun t => (upFrom 0 3).map fun w => (wThr t + w, s.tsThr t w)

/-- A word of the snapshot area as it reads: the header shows the capture in progress (R594, R595). -/
def snapWord (s : State) (w : Nat) : Nat :=
  let v := Tbl.get (fun _ => 0) s.snap.area w
  let busy := decide (2 ≤ s.snap.state)
  match w with
  | 0 => v % 2 ^ 32 + if busy then s.snap.seq * 2 ^ 32 else 0
  | 1 => s.snap.state
  | _ => v

/-- READY (R595): the area takes the gathered buffer's contents in one handshake, and the command is answered. -/
def capReady (s : State) : State :=
  if s.snap.state ≠ 3 then s
  else
    let h := s.capHeader
    let got := s.snap.buf.map fun e => (e.1, e.2.getD 0)
    let area := (got ++ s.capSets ++ h ++ s.capPackage).foldl (fun t e => Tbl.put (fun _ => 0) t e.1 (e.2 % 2 ^ 64)) s.snap.area
    ({ s with snap.area := area, snap.buf := [], snap.state := 1, snap.done := [], snap.skipped := [] }).answer s.snap.mailbox 0
      (h.flatMap fun (e : Nat × Nat) => leBytes 8 e.2)

/-- A capture begins (R590): the hub sends its injections. A scope that holds no engine has captured (log entry 120). -/
def capBegin (s : State) (m scope seq : Nat) : State :=
  let old := (s.regs.filter fun e => keyReg e.1 == .CB_STATUS).map fun e => (keyBlk e.1)
  let s := s.foldS old fun s b => s.setFlag b Fld.CB_STATUS_CAPTURED false
  let s := { s with snap := { s.snap with
      buf := [], state := 2, seq := seq, scope := if scope = 0 then udPackage else scope, injected := s.time, lastAt := s.time
      done := [], skipped := [], mailbox := m } }
  if s.capCount = 0 then { s with snap.state := 3 } else s

end State

/-! ### The rows -/

/-- CAPTURE (R592, R596): one at a time; the answer is CAPTURE_READY's. -/
def execCapture (mailbox : MailboxId) (s : State) : Host.Outcome State Fault Refusal :=
  let m := mailbox.val
  .next (s.kciRun m ⟨0xA0, [0, 1, 2], false, false⟩ fun s =>
    if 2 ≤ s.snap.state then .refused 1 else .later 0 (s.capBegin m (s.req m 0 4 % 2 ^ 28) (s.req m 4 4)))

/-- CAPTURE_INJECTION (R590 to R592): the hub's injection, or a marker of the capture's sequence that an engine has sent, reaches an engine;
a marker of another sequence is discarded. -/
def execCaptureInjection (arrival : CapArrival) (s : State) : Host.Outcome State Fault Refusal :=
  .next (match arrival.marker with
    | none => s.capture arrival.engine
    | some q => if q.toNat = s.snap.seq ∧ s.snap.done ≠ [] then s.capture arrival.engine else s)

/-- CAPTURE_READY (R595). -/
def execCaptureReady (s : State) : Host.Outcome State Fault Refusal := .next s.capReady

/-- The banks that a command names, from its payload. -/
def State.banksNamed (s : State) (m least : Nat) : List Nat × Nat :=
  let (n, k) := clampN least (12235 - s.req m 0 4) (s.req m 4 4)
  (upFrom (s.req m 0 4) n, k)

/-- A command on banks, once firmware may carry it out (R556), waits while one of them stands on an island in HOLD (R521, R524). -/
def State.banksHeld (s : State) (m least : Nat) : Bool :=
  decide (6 ≤ s.stage) && (s.banksNamed m least).1.any fun b => s.blkHeld (bBank b)

/-- BANK_MODE (R584, R596). -/
def execBankMode (mailbox : MailboxId) (s : State) : Host.Outcome State Fault Refusal :=
  let m := mailbox.val
  .next (if s.banksHeld m 1 then s else s.kciRun m ⟨0xA1, [0, 1, 2], false, false⟩ fun s =>
    let (bs, k) := s.banksNamed m 1
    let mode := s.req m 8 4
    if 12234 < s.req m 0 4 then .refused 4
    else
      let modes := bs.map fun b => (s.bankMode b mode).1
      .ok ((modes.take 4032).map (BitVec.ofNat 8 ·)) (k + if modes.all (· == mode) then 0 else 1)
        (s.foldS bs fun s b => (s.bankMode b mode).2))

/-- BANK_CLEAR (R596). -/
def execBankClear (mailbox : MailboxId) (s : State) : Host.Outcome State Fault Refusal :=
  let m := mailbox.val
  .next (if s.banksHeld m 0 then s else s.kciRun m ⟨0xA2, [0, 1, 2], false, false⟩ fun s =>
    let (bs, k) := s.banksNamed m 0
    if 12234 < s.req m 0 4 then .refused 4 else .ok [] k (s.foldS bs State.clearBank))

/-- CB_MODE_WRITE (R584, R597). -/
def execCbModeWrite (bank : BankIdx) (w : Writer) (mode : Bool) (s : State) : Host.Outcome State Fault Refusal :=
  .next (ifControl w s (s.ifReached (bBank bank) (s.bankMode bank (if mode then 1 else 0)).2))

/-- CB_CNT_CLEAR (R589, R597). -/
def execCbCntClear (bank : BankIdx) (w : Writer) (s : State) : Host.Outcome State Fault Refusal :=
  .next (ifControl w s (s.ifReached (bBank bank) (s.clearBank bank)))

end Sys2Proof.Machine
end

