-- ==== Sys2Proof/Machine/RegView.lean ====
section
/-! DEFINITION. Register space as it is read (R313, R314): where a register stands, the fields that show the state of their unit, and
reads with their effect. -/

namespace Sys2Proof.Machine

namespace State

/-! ### The next instruction of a context (R141, R148) -/

/-- A program counter from which nothing is fetched: outside the mapped tiers (R148), or misaligned. -/
def badPc (s : State) (t c : Nat) : Bool :=
  let a := (s.thr t c).pc.toNat
  a % 8 != 0 || !s.inTiers a 8

/-- The next instruction of a context, where its line is in the instruction cache. -/
def nextWord (s : State) (t c : Nat) : Option Nat :=
  let a := (s.thr t c).pc.toNat
  (Tbl.find? (s.tileOf t).icache (a / 64)).map fun l => bitsOf l (a % 64 * 8) 64

/-- The registers the next instruction reads or writes; none where its word is reserved. -/
def nextRegs (s : State) (t c : Nat) : List Nat :=
  match s.nextWord t c with
  | none => []
  | some w =>
    if h : t < 10752 ∧ c < 128 then
      match decodeTile ⟨t, h.1⟩ ⟨c, h.2⟩ w with
      | some i => instrRegs i
      | none => []
    else []

/-- The WAIT cause of a running context, 0 where it is READY (R141, R170). A context whose program counter faults has fetched nothing: it
waits for its fetch until that faults. Where several causes hold at once the first of 7, 3, 1, 2 shows (log entry 60). -/
def waitCause (s : State) (t c : Nat) : Nat :=
  let th := s.thr t c
  if th.hold ≠ 0 then th.hold
  else if s.slotWait t c then 7
  else if s.badPc t c || (s.nextWord t c).isNone then 3
  else if s.pendingWrite t c (s.nextRegs t c) then 1
  else if 8 ≤ (s.opsOf t c).length then 2
  else 0

/-- The context is READY (R137, R141). -/
def isReady (s : State) (t c : Nat) : Bool := (s.thr t c).run == .running && s.waitCause t c == 0

/-- The state code of R137; a thread whose fault waits for its outstanding instructions is in WAIT (log entry 88). -/
def thrCode (s : State) (t c : Nat) : Nat :=
  match (s.thr t c).run with
  | .free => 0
  | .running => if s.waitCause t c = 0 then 1 else 2
  | .drain => 3
  | .faulting => 2
  | .faulted => 4

end State

def b2n (b : Bool) (i : Nat) : Nat := if b then 2 ^ i else 0

namespace State

/-! ### Status registers by unit -/

/-- THR_STATE (R170). -/
def viewThr (s : State) (t c : Nat) : Nat :=
  let th := s.thr t c
  s.thrCode t c + th.prio * 2 ^ 3 + b2n th.pin 5 + th.pred.toNat * 2 ^ 6
    + (if th.run = .running then s.waitCause t c else 0) * 2 ^ 14 + (if th.run = .faulted then th.fault else 0) * 2 ^ 18 + (s.opsOf t c).length * 2 ^ 22
    + b2n ((s.tileOf t).lease == some c) 26 + b2n th.launched 27

/-- SEQ_STATUS (R168); bits [31:28] are the instruction-set level. -/
def viewSeq (s : State) (t : Nat) : Nat :=
  let n (p : Nat → Bool) : Nat := ((upFrom 0 128).filter p).length
  let halted := s.flag (bTile t) Fld.SEQ_CTRL_HALT_ISSUE && (s.tileOf t).ops.isEmpty
  n (fun c => (s.thr t c).run != .free) + n (s.isReady t) * 2 ^ 8 + n (fun c => (s.thr t c).run == .faulted) * 2 ^ 16
    + b2n (s.tileOf t).reelOn 24 + b2n halted 25 + 2 ^ 28

/-- SEQ_VLEASE (R169). While a VRELEASE waits for the holder's vector instructions the holder still shows here and in THR_STATE.LEASE
(log entry 93). -/
def viewLease (s : State) (t : Nat) : Nat :=
  let tl := s.tileOf t
  (match tl.lease with | some c => c + 2 ^ 7 | none => 0) + tl.leaseWait.length * 2 ^ 8

/-- ARR_STATUS (R106): the fields of the array beside those stored. -/
def viewArr (s : State) (a : Nat) : Nat :=
  let loading := (s.plane a 0).loading || (s.plane a 1).loading || s.pieceMove a
  let droop := s.flag (bCluster (clusterOfTile (a / 4))) Fld.ISL_STATUS_DROOP_HOLD
  (s.reg (bArray a) .ARR_STATUS).toNat + b2n (s.arrayWork a) 0 + b2n loading 3 + b2n (s.heldSw a) 5 + b2n droop 6

/-- AM_STATUS (R133): a vector accumulation is in progress from its issue on. -/
def viewAm (s : State) (t : Nat) : Nat :=
  let busy := (s.tileOf t).ops.any fun o => (o.started || o.kind matches .vacc ..) && (opAcc o.kind).isSome
  (s.reg (bTile t) .AM_STATUS).toNat + b2n busy 0 + b2n (!(s.tileOf t).clearMarks.isEmpty) 1

/-- AM_MODE (R134): the side state of the row selected. -/
def viewRow (s : State) (t : Nat) : Nat :=
  let row := s.getF (bTile t) Fld.AM_MODE_ROW
  (upFrom 0 4).foldl (fun n a =>
    let r := s.rowSt t row a
    let h := r.code == 1
    n + r.code * 2 ^ (9 + 3 * a) + b2n (h && r.lo) (21 + a) + b2n (h && r.hi) (25 + a)) row

/-- SMP_STATUS (R234). -/
def viewSmp (s : State) (n : Nat) : Nat :=
  let g := s.sampler n
  (s.reg (bCluster n) .SMP_STATUS).toNat + b2n (!g.active.isEmpty) 0 + g.active.length * 2 ^ 1 + g.exps.length * 2 ^ 4
    + b2n (s.flag (bCluster n) Fld.SMP_CTRL_HOLD && !s.smpFlight n) 10 + g.cache.length * 2 ^ 12

/-- GS_STATUS (R263). -/
def viewGs (s : State) (n : Nat) : Nat :=
  let g := s.gather n
  (s.reg (bCluster n) .GS_STATUS).toNat + b2n (!g.active.isEmpty || !g.window.isEmpty) 0 + g.active.length * 2 ^ 1
    + (g.window.filter fun e => e.issued).length * 2 ^ 4 + g.window.length * 2 ^ 15
    + b2n (s.flag (bCluster n) Fld.GS_CTRL_HOLD && !s.gsFlight n) 28

/-- EMB_STATUS (R293): a request of another region or module that waits here is in progress too. -/
def viewEmb (s : State) (r : Nat) : Nat :=
  let g := s.embReg r
  let valid := g.dir.filter fun (e : Nat × Refl) => e.2.state == 2
  (s.reg (bRegion r) .EMB_STATUS).toNat + b2n (s.embFlight r) 0 + g.active.length * 2 ^ 1
    + b2n (s.flag (bRegion r) Fld.EMB_CTRL_HOLD && !s.embFlight r) 6 + valid.length * 2 ^ 8

/-- SC_STATUS (R336): ways in use for addresses, open streams, a write-back on the way to OFF (R323). -/
def viewSc (s : State) (r : Nat) : Nat :=
  let c := s.ctl r
  let wb := (s.isl (672 + r)).goal == some 2 && c.lines.any fun (e : Nat × Line) => e.2.state == 2
  (waysOf c).length + c.streams.length * 2 ^ 5 + b2n wb 12

/-- DMA_STATUS (R339). -/
def viewDma (s : State) (e : Nat) : Nat :=
  let g := s.dmaEng e
  (s.reg (bDma e) .DMA_STATUS).toNat + g.active.length + g.fifo.length * 2 ^ 2
    + b2n (s.flag (bDma e) Fld.DMA_CTRL_HOLD && !s.dmaFlight e) 9

/-- A pass is in progress: a check that waits or reads, or blocks yet to apply. -/
def updBusy (s : State) (u : Nat) : Bool :=
  let g := s.updEng u
  g.applying || g.batch.any fun k => !k.checked

/-- UPD_STATUS (R374). What an engine starts completes in one row (log entry 22), so that nothing is in flight while HOLD is 1. -/
def viewUpd (s : State) (u : Nat) : Nat :=
  let g := s.updEng u
  let walking := g.batch.any State.walksTable
  (s.reg (bUpd u) .UPD_STATUS).toNat + b2n (s.updBusy u) 0 + b2n (s.flag (bUpd u) Fld.UPD_CTRL_HOLD) 1
    + b2n (g.reported && (s.verdictOf u).isNone) 4 + b2n walking 5

/-- UPD_VERDICT (R356, R375): the latest report or verdict; LOCAL_NF is live while a step is being checked. -/
def viewVerdict (s : State) (u : Nat) : Nat :=
  let g := s.updEng u
  let v := (s.reg (bUpd u) .UPD_VERDICT).toNat
  if g.reported || g.batch.isEmpty then v else setBits v 34 1 (b2n g.nf 0)

/-- SYNC_STATUS (R395). -/
def viewSync (s : State) (m : Nat) : Nat :=
  (s.reg (bSync m) .SYNC_STATUS).toNat + s.waitsIn m + (if m = 672 then s.sync.held.length else 0) * 2 ^ 13

/-- A bucket is in exchange: its own part is decided, or partials of it are parked, and its result is not complete. -/
def inExchange (b : ExBuf) : Bool := (b.decision != 0 || !b.park.isEmpty) && !b.complete

/-- FR_STATUS (R425): OPEN counts the job's buckets that the oldest unsealed step has not completed. -/
def viewFr (s : State) : Nat :=
  let step := (s.getF bHub Fld.FR_SEAL_LOCAL + 1) % 2 ^ 32
  let done := (s.ex.bufs.filter fun b => b.step == step && b.complete).length
  let opened := if s.jobOpen then s.validBuckets.length - done else 0
  (s.reg bHub .FR_STATUS).toNat + b2n (s.ex.bufs.any inExchange) 0 + b2n (s.flag bHub Fld.FR_CTRL_HOLD && !s.frFlight) 1
    + opened * 2 ^ 6

/-- RE_STATUS (R427): the engine of die d exchanges quarter d. -/
def viewRe (s : State) (d : Nat) : Nat :=
  let busy := s.ex.bufs.any fun b => inExchange b && !s.quarterDone b (s.bucketD b.bucket) d
  let parked := (s.ex.bufs.filter fun b => b.park.any fun p => p.quarter == d).length
  let up (l : Nat) : Bool := !(s.linkPorts d l 1).isEmpty && !(s.linkPorts d l 2).isEmpty
  b2n busy 0 + parked * 2 ^ 1 + b2n (up 0) 10 + b2n (up 1) 11 + b2n (up 2) 12

/-- IC_CORE (R507). -/
def viewCore (s : State) (c : Nat) : Nat :=
  let st := s.stackOf c
  s.getF (bFn 2) Fld.IC_CORE_THRESH c + (st.head?.map Prod.snd).getD 0 * 2 ^ 5 + st.length * 2 ^ 9

/-- CC_CORE (R506): a core is hung under R490, retired, or held while the complex is not ON (log entry 79). -/
def viewCc (s : State) (c : Nat) : Nat :=
  let st := if s.coreGone c then 3 else if s.hung c then 2 else if s.pwr.cc ≠ 0 then 1 else 0
  setBits (s.reg (bFn 0) .CC_CORE c).toNat Fld.CC_CORE_STATE.lo Fld.CC_CORE_STATE.w st

/-- Word 0 of an array's unit descriptor (R102, R577): spares in use by its remap; none free where its fuse row failed parity. -/
def viewArrUd (s : State) (a : Nat) : Nat :=
  let w := (s.reg (bArray a) .UD).toNat
  if s.fuseRowBad a then w
  else
    let used := s.getF (bArray a) Fld.ARR_REMAP_ROW_EN + s.getF (bArray a) Fld.ARR_REMAP_COL_EN
    setBits (setBits w 48 4 (2 - used)) 52 4 used

/-- Word 0 of a cluster's unit descriptor (R14, R102, R577, R581): the spare in use by its remap; used, and not free, where its fuse row
failed parity. -/
def viewClusterUd (s : State) (n : Nat) : Nat :=
  let used := s.flag (bCluster n) Fld.CL_SPARE_EN || s.flag (bCluster n) Fld.CL_SPARE_STATUS_PARITY_BAD
  setBits (setBits (s.reg (bCluster n) .UD).toNat 48 4 (if used then 0 else 1)) 52 4 (if used then 1 else 0)

/-- A register of a unit as it stands now: the fields that show its unit's state beside those stored. -/
def regNow (s : State) (b : Blk) (r : Reg) (i : Nat) : Nat :=
  match r with
  | .UD =>
    if i ≠ 0 then (s.reg b r i).toNat
    else if b.k = 5 then s.viewArrUd b.i
    else if b.k = 3 then s.viewClusterUd b.i
    else (s.reg b r i).toNat
  | .SR_CTR => Tbl.get (fun _ => 0) s.tile.gens (if b.k = 4 then b.i else if b.k = 6 then 10752 + b.i / 8 else 10764 + b.i) / 5
  | .ARR_STATUS => s.viewArr b.i
  | .AM_STATUS => s.viewAm b.i
  | .AM_MODE => s.viewRow b.i
  | .SEQ_STATUS => s.viewSeq b.i
  | .SEQ_VLEASE => s.viewLease b.i
  | .THR_STATE => s.viewThr b.i i
  | .THR_PC => (if (s.thr b.i i).run = .free then (s.thr b.i i).halted else (s.thr b.i i).pc).toNat
  | .THR_XREG => (s.x b.i (i / 32) (i % 32)).toNat
  | .SMP_STATUS => s.viewSmp b.i
  | .GS_STATUS => s.viewGs b.i
  | .GS_HOT => setBits (s.reg b r i).toNat 21 7 (s.gather b.i).hot.length
  | .EMB_STATUS => s.viewEmb b.i
  | .SC_STATUS => s.viewSc (b.i / 8)
  | .DMA_STATUS => s.viewDma (b.i / 8 * 4 + (b.i % 8 - 2))
  | .UPD_STATUS => s.viewUpd (if b.k = 6 then b.i / 8 else 12 + b.i)
  | .UPD_VERDICT => s.viewVerdict (if b.k = 6 then b.i / 8 else 12 + b.i)
  | .UPD_GT_DATA => bitsOf (s.gtEntry (if b.k = 6 then b.i / 8 else 12 + b.i)) (64 * i) 64
  | .SYNC_CTRL => if b.k = 3 then setBits (s.reg b r i).toNat 2 8 0 else (s.reg b r i).toNat
  | .SYNC_STATUS => s.viewSync (if b.k = 3 then b.i else 672)
  | .FR_STATUS => s.viewFr
  | .RE_STATUS => s.viewRe b.i
  | .CC_CORE => s.viewCc i
  | .TS_CORE => s.tsCore i
  | .TS_THR => s.tsThr (i / 4) (i % 4)
  | .IC_CORE => s.viewCore i
  | .IC_CLAIM => s.claimWord i
  | .HL_STATUS => s.hlStatus
  | .ISL_STATUS => s.islStatus (if b.k = 3 then b.i else if b.k = 2 then 672 + b.i else if b.k = 1 then 684 + b.i else 688)
  | .MTR_ID => leNat (cut meterId 0 8)
  | _ => (s.reg b r i).toNat

end State

/-- Fields that read as zero (R9). -/
def woFields (r : Reg) : List FieldRow := r.fields.filter fun f => f.acc == .WO

namespace State

/-- A register as a read returns it: write-only fields read as zero (R9). -/
def regView (s : State) (b : Blk) (r : Reg) (i : Nat) : Nat :=
  (woFields r).foldl (fun n f => setBits n f.fld.lo f.fld.w 0) (s.regNow b r i)

end State

/-! ### Where registers stand (R313, R583) -/

/-- The register tables of a block. -/
def classesAt (k i : Nat) : List BlkClass :=
  match k with
  | 0 => if i = 0 then [.anyUnit, .package] else if i = 1 then [.anyUnit, .hub, .syncMem, .island] else [.anyUnit]
  | 1 => [.anyUnit, .die, .island]
  | 2 => [.anyUnit, .region, .island]
  | 3 => [.anyUnit, .cluster, .syncMem, .island]
  | 4 => [.anyUnit, .tile, .conv]
  | 5 => [.anyUnit, .array]
  | 6 => if i % 8 = 0 then [.stackCtl] else if i % 8 = 1 then [.updEng, .conv] else [.dma]
  | 7 => [.updEng, .conv]
  | 8 => [.anyUnit, .ringLevel]
  | 9 => ([[.cores], [.sched], [.intr], [.pilot], [.hostLink], [.power], [.boot], [.errors]] : List (List BlkClass)).getD i []
  | 10 => [.meter]
  | 11 => [.bank]
  | _ => []

/-- The counter bank at an offset of a block, with the offset in it (R583). -/
def bankAt (k i off : Nat) : Option (Nat × Nat) :=
  let o := off % 256
  let j := off / 256
  match k with
  | 0 => if i = 1 ∧ j = 0xF0 then some (12234, o) else none
  | 1 => if j = 0xF0 then some (12192 + i, o) else if 0xF1 ≤ j ∧ j < 0xF9 then some (12196 + 8 * i + (j - 0xF1), o) else none
  | 2 => if j = 0xF0 then some (12096 + 8 * i + 6, o) else none
  | 3 => if j = 0xF0 then some (10752 + 2 * i, o) else if j = 0xF1 then some (10753 + 2 * i, o) else none
  | 4 => if j = 0xF0 then some (i, o) else none
  | 6 => if j = 0xF0 then some (12096 + i, o) else none
  | 7 => if j = 0xF0 then some (12228 + i, o) else none
  | _ => none

/-- Every register. -/
def allRegs : List Reg := (upFrom 0 (Reg.CB_SHADOW.ctorIdx + 1)).map Reg.ofNat

/-- The instance of a register whose 8 bytes stand at an offset of a block that holds it. -/
def Reg.instAt (r : Reg) (off : Nat) : Option Nat :=
  let w := r.row
  if w.base ≤ off ∧ (off - w.base) % w.stride = 0 ∧ (off - w.base) / w.stride < w.count then some ((off - w.base) / w.stride) else none

/-- The register among some tables at an offset, a multiple of 8. -/
def regIn (cls : List BlkClass) (off : Nat) : Option (Reg × Nat) :=
  allRegs.findSome? fun r => if cls.contains r.row.cls then (r.instAt off).map fun i => (r, i) else none

/-- The register at an offset, a multiple of 8, of block K, I; none where the map gives no block (R313). -/
def regAt (k i off : Nat) : Option (Blk × Reg × Nat) :=
  if !blockAt k i then none
  else match bankAt k i off with
  | some (b, o) => (regIn [.bank] o).map fun e => (bBank b, e.1, e.2)
  | none => (regIn (classesAt k i) off).map fun e => (⟨k, i⟩, e.1, e.2)

namespace State

/-- The unit of a block is present (R18, R19, R314). -/
def unitPresent (s : State) (k i : Nat) : Bool :=
  match k with
  | 1 => s.diePresent i
  | 2 => s.regionPresent i
  | 3 => s.clusterPresent i
  | 4 => s.tilePresent i
  | 5 => s.tilePresent (i / 4) && (s.reg (bTile (i / 4)) .UD 4).toNat.testBit (i % 4)
  | 6 => s.regionPresent (i / 8)
  | _ => true

/-- The 8 bytes at an offset, a multiple of 8, of block K, I as a read returns them: the snapshot area (R593), a register, or zero
(R314). -/
def blockWord (s : State) (k i off : Nat) : Nat :=
  if k = 9 ∧ 8 ≤ i then s.snapWord ((i - 8) * 8192 + off / 8)
  else
    match regAt k i off with
    | none => 0
    | some (b, r, j) => if r = .UD ∨ s.unitPresent k i then s.regView b r j else 0

/-- An access to the register at an offset of register space waits: its unit's island is in HOLD (R521, R524). -/
def regHeld (s : State) (off : Nat) : Bool :=
  match regAt (off / 2 ^ 40) (off % 2 ^ 40 / 2 ^ 16) (off % 2 ^ 16 / 8 * 8) with
  | some (b, r, _) => s.blkHeld b && !r.alwaysOn
  | none => false

/-- What a read does to the register it reads: an RC field is cleared as its value is returned (R9), so that a claim is taken (R500). -/
def readEffect (s : State) (k i off : Nat) : State :=
  if k = 9 ∧ i = 2 then
    match regAt k i off with
    | some (_, .IC_CLAIM, c) => s.claimRead c
    | _ => s
  else s

/-- A read of n bytes at offset `off` of register space: the data, and the state after it. An access of another size than 4 or 8 bytes,
or not aligned to its size, is no access to a register (R314). -/
def regRead (s : State) (off n : Nat) : Nat × State :=
  let k := off / 2 ^ 40
  let i := off % 2 ^ 40 / 2 ^ 16
  let o := off % 2 ^ 16
  if (n = 8 ∨ n = 4) ∧ o % n = 0 then
    (bitsOf (s.blockWord k i (o / 8 * 8)) (o % 8 * 8) (8 * n), if o % 8 = 0 then s.readEffect k i o else s)
  else (0, s)

end State

end Sys2Proof.Machine
end

