-- ==== Sys2Proof/Machine/RegWrite.lean ====
section
/-! DEFINITION. Writes to register space (R9, R11, R314): fields by their access codes with clamping, what a write makes its unit do,
and the rows REGISTER_WRITE, REG_READ, REG_WRITE and DEVICE_ACCESS_DONE. -/

namespace Sys2Proof.Machine

/-- What a write carries (R9): the register's image after it, the bits written in place with zeros elsewhere, the first bit written and
how many. -/
structure Written where
  img : Nat
  put : Nat
  lo : Nat
  w : Nat
  deriving DecidableEq, Repr

/-- The write reaches a field. -/
def Written.hits (v : Written) (f : Fld) : Bool := f.lo < v.lo + v.w && v.lo < f.lo + f.w

/-- The bits a write carries for a field. -/
def Written.bits (v : Written) (f : Fld) : Nat := bitsOf v.put f.lo f.w

/-- A write sets a one-bit field. -/
def Written.on (v : Written) (f : Fld) : Bool := v.bits f == 1

/-- A writer of the control complex: firmware, or an extension as far as R491 grants it. -/
def ofControl (w : Writer) : Bool := w == .control || w == .ext

/-- A writer is admitted to a register (the register chapters). -/
def admits (w : Writer) : WriteRule → Bool
  | .any => true
  | .controlOnly => ofControl w
  | .hubOnly => w == .hub
  | .hostAndControl => w == .host || ofControl w
  | .nobody => false

/-- A writer is admitted to a field: ARR_CTRL.HOLD is the control complex's alone (R104). -/
def fieldAdmits (w : Writer) (f : Fld) : Bool := f != Fld.ARR_CTRL_HOLD || ofControl w

/-- A register whose writes firmware performs for nobody (R480): ARR_FUSE_PROG, UPD_VERDICT, the meter's, the root of trust's. -/
def deniedReg (r : Reg) : Bool := [Reg.ARR_FUSE_PROG, .UPD_VERDICT, .BOOT_STATUS, .RT_MEAS].contains r || r.row.cls == .meter

/-- A register that an extension may write (R491): none denied by R480; of the sources its own, of the command windows its core's. -/
def extMay (r : Reg) (i : Nat) : Bool :=
  !deniedReg r && match r with
  | .IC_SRC => extSource i
  | .TS_ARG | .TS_CMD => i == 15
  | _ => true

/-- One field of a register written by its access code (R9, R11): the register, and one more clamp where the value was illegal. -/
def writeField (v : Written) (acc : Nat × Nat) (f : FieldRow) : Nat × Nat :=
  let (old, n) := acc
  match f.acc with
  | .RW =>
    let x := bitsOf v.img f.fld.lo f.fld.w
    let c := clampTo f.least f.most x
    (setBits old f.fld.lo f.fld.w c, if c = x then n else n + 1)
  | .W1C => (setBits old f.fld.lo f.fld.w ((BitVec.ofNat 64 (bitsOf old f.fld.lo f.fld.w) &&& ~~~BitVec.ofNat 64 (v.bits f.fld)).toNat), n)
  | _ => (old, n)

/-- The fields of a word of a register that a write may reach; a cluster block ignores writes to HOLD_LIMIT (R393). -/
def fieldsHit (w : Writer) (b : Blk) (r : Reg) (i : Nat) (v : Written) : List FieldRow :=
  r.fields.filter fun f => !(f.fld == Fld.SYNC_CTRL_HOLD_LIMIT && b.k == 3) && f.word.getD (wordOf r i) == wordOf r i && v.hits f.fld && fieldAdmits w f.fld

namespace State

/-- A write stored field by field; how many fields were clamped. -/
def storeFields (s : State) (w : Writer) (b : Blk) (r : Reg) (i : Nat) (v : Written) : Nat × State :=
  let (x, n) := (fieldsHit w b r i v).foldl (writeField v) ((s.reg b r i).toNat, 0)
  (n, s.setReg b r i (BitVec.ofNat 64 x))

/-- The update engine of a block. -/
def updOfBlk (b : Blk) : Nat := if b.k = 6 then b.i / 8 else 12 + b.i
/-- The generator index of a converting unit's block (R58). -/
def genOfBlk (b : Blk) : Nat := if b.k = 4 then b.i else 10752 + updOfBlk b
def dmaOfBlk (b : Blk) : Nat := b.i / 8 * 4 + (b.i % 8 - 2)
def syncOfBlk (b : Blk) : Nat := if b.k = 3 then b.i else 672

/-- Actions of a control register, in the order of their bits: each where the write sets its field. -/
def actions (s : State) (v : Written) : List (Fld × (State → State)) → State
  | [] => s
  | (f, g) :: r => (if v.on f then g s else s).actions v r

/-- A field whose change is an operation of its unit: carried out where the write reaches it. -/
def changing (s : State) (v : Written) (f : Fld) (g : State → Bool → State) : State :=
  if v.hits f then g s (v.on f) else s

/-- Registers whose write is an operation of their unit, not a store: the fields clamped and the state. -/
def writeWhole (s : State) (wr : Writer) (b : Blk) (r : Reg) (i : Nat) (v : Written) : Option (Nat × State) :=
  let low (x : Nat × State) : Option (Nat × State) := some (if v.lo = 0 then x else (0, s))
  match r with
  | .ARR_REMAP => low (0, s.arrRemap b.i v.img)
  | .ARR_FUSE_PROG => low (0, s.arrFuseProg b.i v.put)
  | .THR_STATE => low (0, s.thrStateWrite b.i i v.img)
  | .BANK_OWN => low (if bitsOf v.img 0 3 ≤ 4 then 0 else 1, s.bankOwnWrite b.i i v.img)
  | .MEM_MAP => low (if bitsOf v.img 0 6 ≤ 32 ∨ s.jobOpen then 0 else 1, s.memMap v.img)
  | .SC_PIN => low (0, s.scPin (b.i / 8) (v.on Fld.SC_PIN_EN))
  | .UPD_GT_DATA =>
    let u := updOfBlk b
    let old := bitsOf (Tbl.get (fun _ => groupReset) (s.updEng u).pend (s.getF b Fld.UPD_GT_SEL_INDEX)) (64 * i) 64
    some (s.gtDataWrite u i (BitVec.ofNat 64 (setBits old v.lo v.w (bitsOf v.put v.lo v.w))))
  | .UPD_VERDICT => some (0, s.setReg b r i (BitVec.ofNat 64 (setBits (s.reg b r i).toNat 0 34 (v.img % 2 ^ 34))))
  | .SYNC_SEL =>
    let m := syncOfBlk b
    low (if m < 672 ∧ 4095 < bitsOf v.img 0 16 then 1 else 0, s.syncSel m (bitsOf v.img 0 16))
  | .SYNC_CMD => some (if 4 < v.bits Fld.SYNC_CMD_OP then 1 else 0, s.syncCmd (syncOfBlk b) (v.bits Fld.SYNC_CMD_OP) (v.bits Fld.SYNC_CMD_ARG))
  | .Q_SEL => low (0, s.qSel b.i (bitsOf v.img 0 16))
  | .Q_VIEW =>
    let q := b.i * 65536 + s.getF b Fld.Q_SEL_LOCAL
    let img := setBits (s.qWord q i) v.lo v.w (bitsOf v.put v.lo v.w)
    some (match i with
      | 0 => (logClamps (bitsOf img 52 5), s.qView b.i 0 img)
      | 1 => if v.lo = 0 then (kindClamps q (bitsOf img 0 4) (bitsOf img 4 24), s.qView b.i 1 img) else (0, s)
      | _ => (0, s))
  | .TS_CMD => low (0, s.tsCommand i v.put)
  | .IC_EOI => low (0, s.eoi i (v.bits Fld.IC_EOI_SOURCE))
  | .IC_SWSET => low (0, s.swSet (if wr = .ext then 15 else 0) (v.bits Fld.IC_SWSET_SOURCE))
  | .PL_WAKE => low (s.plWakeWrite i v.img)
  | .HL_BAR2 => some (s.bar2Write v.img)
  | .PM_OPP => some ((oppClamp v.img).2, (s.oppSet i v.img).retargetAll)
  | .PM_PHASEMAP => low (0, s.phaseMapSet v.img)
  | .CL_SPARE => low (0, s.spareWrite b.i v.img)
  | .CL_SPARE_PROG => low (0, s.spareProg b.i v.put)
  | _ => none

/-- The counters and sticky flags that a write clears, before anything else it does (R459 and its like: an event counted in the same
handshake is counted after the clear). -/
def writeClears (s : State) (b : Blk) (r : Reg) (i : Nat) (v : Written) : State :=
  match r with
  | .FMT_CTRL => s.actions v [(Fld.FMT_CTRL_CLEAR, fun s => s.fmtClear (genOfBlk b))]
  | .ARR_CTRL => s.actions v [(Fld.ARR_CTRL_CNT_CLEAR, fun s => s.arrClear b.i)]
  | .AM_CTRL => s.actions v [(Fld.AM_CTRL_CNT_CLEAR, fun s => s.amClear b.i)]
  | .SEQ_CTRL => s.actions v [(Fld.SEQ_CTRL_CNT_CLEAR, fun s => s.seqClear b.i)]
  | .BANK_CTRL => s.actions v [(Fld.BANK_CTRL_CNT_CLEAR, fun s => s.bankCntClear b.i)]
  | .PRU_CTRL => s.actions v [(Fld.PRU_CTRL_CNT_CLEAR, fun s => s.pruClear (updOfBlk b))]
  | .SPK_CTRL => s.actions v [(Fld.SPK_CTRL_CNT_CLEAR, fun s => s.spkClear (dmaOfBlk b))]
  | .SMP_CTRL => s.actions v [(Fld.SMP_CTRL_CNT_CLEAR, fun s => s.smpClear b.i)]
  | .GS_CTRL => s.actions v [(Fld.GS_CTRL_CNT_CLEAR, fun s => s.gsClear b.i)]
  | .EMB_CTRL => s.actions v [(Fld.EMB_CTRL_CNT_CLEAR, fun s => s.embClear b.i)]
  | .SC_CTRL => s.actions v [(Fld.SC_CTRL_CNT_CLEAR, fun s => s.scClear (b.i / 8))]
  | .DMA_CTRL => s.actions v [(Fld.DMA_CTRL_CNT_CLEAR, fun s => s.dmaClear (dmaOfBlk b))]
  | .UPD_CTRL => s.actions v [(Fld.UPD_CTRL_CNT_CLEAR, fun s => s.updClear (updOfBlk b))]
  | .SYNC_CTRL => s.actions v [(Fld.SYNC_CTRL_CNT_CLEAR, fun s => s.syncClear (syncOfBlk b))]
  | .FR_CTRL => s.actions v [(Fld.FR_CTRL_CNT_CLEAR, fun s => s.frClear)]
  | .RE_CTRL => s.actions v [(Fld.RE_CTRL_CNT_CLEAR, fun s => s.reClear b.i)]
  | .LW_CTRL => s.actions v [(Fld.LW_CTRL_CNT_CLEAR, fun s => s.lwClear (8 * b.i + i))]
  | .IC_CTRL => s.actions v [(Fld.IC_CTRL_CNT_CLEAR, fun s => s.icClear)]
  | .HL_CTRL => s.actions v [(Fld.HL_CTRL_CNT_CLEAR, fun s => s.hlClear)]
  | .PM_CTRL => s.actions v [(Fld.PM_CTRL_CNT_CLEAR, fun s => s.pmClear)]
  | .ERR_CTRL => s.actions v [(Fld.ERR_CTRL_CNT_CLEAR, fun s => s.errClear)]
  | .CB_CTRL => s.actions v [(Fld.CB_CTRL_CNT_CLEAR, fun s => s.clearBank b.i)]
  | _ => s

/-- What a write makes a unit do beside the fields it stores and the counters it clears. -/
def writeActs (s : State) (b : Blk) (r : Reg) (i : Nat) (v : Written) : State :=
  match r with
  | .AM_CTRL => s.actions v [(Fld.AM_CTRL_CLEAR_ALL, fun s => s.amClearAll b.i)]
  | .SEQ_CTRL => (s.changing v Fld.SEQ_CTRL_REEL fun s on => s.setReel b.i on).actions v
      [(Fld.SEQ_CTRL_ICINV, fun s => s.icInvalidate b.i)]
  | .SMP_CTRL => s.actions v [(Fld.SMP_CTRL_GDINV, fun s => s.gdInvalidate b.i)]
  | .GS_CTRL => (s.changing v Fld.GS_CTRL_HOT_EN fun s on => s.hotEn b.i on).actions v
      [(Fld.GS_CTRL_HOT_FLUSH, fun s => (s.flushHot b.i).2)]
  | .SC_CTRL => s.changing v Fld.SC_CTRL_PF_EN fun s on => s.pfEn (b.i / 8) on
  | .LW_CTRL => s.actions v [(Fld.LW_CTRL_RETRAIN, fun s => s.lwRetrain (8 * b.i + i))]
  | .ISL_AGE => if b.k = 1 then s.dieSource b.i else s
  | _ => s

/-- Fields whose change is an operation that reads the value before it: FR_CTRL.HOLD, LW_CTRL.EN, CB_CTRL.MODE, IC_SRC's causes. The
clamps they add, and the write with those fields taken out. -/
def writeFirst (s : State) (b : Blk) (r : Reg) (i : Nat) (v : Written) : Nat × State :=
  match r with
  | .FR_CTRL => (0, s.changing v Fld.FR_CTRL_HOLD frHold)
  | .LW_CTRL =>
    (0, if v.hits Fld.LW_CTRL_EN && v.on Fld.LW_CTRL_EN != s.flag b Fld.LW_CTRL_EN i then s.lwEnable (8 * b.i + i) (v.on Fld.LW_CTRL_EN) else s)
  | .CB_CTRL =>
    if v.hits Fld.CB_CTRL_MODE then
      let m := b2n (v.on Fld.CB_CTRL_MODE) 0
      let (got, t) := s.bankMode b.i m
      (if got = m then 0 else 1, t)
    else (0, s)
  | .IC_SRC => (0, s.unmask i (v.on Fld.IC_SRC_STORM) (v.on Fld.IC_SRC_STUCK))
  | _ => (0, s)

/-- The write as fields take it after `writeFirst`: MODE of a bank has no other value to take than the one in force. -/
def writeRest (s : State) (b : Blk) (r : Reg) (v : Written) : Written :=
  if r = .CB_CTRL then { v with img := setBits v.img Fld.CB_CTRL_MODE.lo 1 (s.getF b Fld.CB_CTRL_MODE) } else v

/-- A register written by a writer that it admits: the fields clamped and the state. What it clears comes first. -/
def regSet (s : State) (w : Writer) (b : Blk) (r : Reg) (i : Nat) (v : Written) : Nat × State :=
  match s.writeWhole w b r i v with
  | some x => x
  | none =>
    let (k, s) := (s.writeClears b r i v).writeFirst b r i v
    let (n, s) := s.storeFields w b r i (s.writeRest b r v)
    (k + n, s.writeActs b r i v)

/-- A write of n bytes (4 or 8, aligned) at offset `off` of register space by a writer: ignored where no register stands,
its unit is absent, or it does not admit the writer (R314, R491). Fields clamped, and the state. -/
def regWrite (s : State) (w : Writer) (off n val : Nat) : Nat × State :=
  let k := off / 2 ^ 40
  let i := off % 2 ^ 40 / 2 ^ 16
  let o := off % 2 ^ 16
  if (n = 8 ∨ n = 4) ∧ o % n = 0 then
    match regAt k i (o / 8 * 8) with
    | none => (0, s)
    | some (b, r, j) =>
      let lo := o % 8 * 8
      let width := min (8 * n) (r.row.width - lo)
      if !s.unitPresent k i || !admits w r.row.wr || width == 0 || (w == .ext && !(s.rot.ext.isSome && extMay r j)) then (0, s)
      else
        let bits := bitsOf val 0 width
        s.regSet w b r j ⟨setBits (s.regView b r j) lo width bits, bits * 2 ^ lo, lo, width⟩
  else (0, s)

end State

/-- REGISTER_WRITE (R9): a write by any master, of 4 or 8 bytes, aligned to its size. One to a unit whose island is in HOLD waits (R521). -/
def execRegisterWrite (w : Writer) (addr : BitVec 52) (wide : Bool) (value : BitVec 64) (s : State) : Host.Outcome State Fault Refusal :=
  let n := if wide then 8 else 4
  .next (match s.target addr.toNat with
    | .regs off => if s.regHeld off then s else (s.regWrite w off n value.toNat).2
    | _ => s)

/-- The addresses of a command's payload: entries of a size, an address at the head of each. -/
def State.addrsNamed (s : State) (m size most : Nat) : List Nat := (upFrom 0 (s.reqCount m 0 size most)).map fun j => s.req m (size * j) 8

/-- REG_READ (R480): up to 504 addresses; each register by an access of its width. A command that firmware may carry out (R556)
waits while one of them is of an island in HOLD (R521). -/
def execRegRead (mailbox : MailboxId) (s : State) : Host.Outcome State Fault Refusal :=
  let m := mailbox.val
  let as := s.addrsNamed m 8 504
  .next (if decide (6 ≤ s.stage) && as.any fun a => s.regHeld (a - regBase) then s else s.kciRun m ⟨0x60, [0, 1, 2], false, false⟩ fun s =>
    if as.all fun a => decide (regBase ≤ a ∧ a < 2 ^ 52) && blockAt ((a - regBase) / 2 ^ 40) ((a - regBase) % 2 ^ 40 / 2 ^ 16) then
      let (out, s) := as.foldl (fun (acc : List Byte × State) a =>
        let (v, t) := acc.2.regRead (a - regBase) (if a % 8 = 0 then 8 else 4)
        (acc.1 ++ leBytes 8 v, t)) ([], s)
      .ok out 0 s
    else .refused 4)

/-- A register that REG_WRITE is denied (R480). -/
def denied (off : Nat) : Bool :=
  match regAt (off / 2 ^ 40) (off % 2 ^ 40 / 2 ^ 16) (off % 2 ^ 16 / 8 * 8) with
  | some (_, r, _) => deniedReg r
  | none => false

/-- REG_WRITE (R480): up to 252 pairs of address and value, in order; the values in force are returned. A command that firmware may
carry out (R556) waits while one of them is of an island in HOLD (R521). -/
def execRegWrite (mailbox : MailboxId) (s : State) : Host.Outcome State Fault Refusal :=
  let m := mailbox.val
  .next (if decide (6 ≤ s.stage) && (s.addrsNamed m 16 252).any fun a => s.regHeld (a - regBase) then s else s.kciRun m ⟨0x61, [0, 1, 2], false, false⟩ fun s =>
    let ps := (upFrom 0 (s.reqCount m 0 16 252)).map fun j => (s.req m (16 * j) 8, s.req m (16 * j + 8) 8)
    if !(ps.all fun p => decide (regBase ≤ p.1 ∧ p.1 < 2 ^ 52) && blockAt ((p.1 - regBase) / 2 ^ 40) ((p.1 - regBase) % 2 ^ 40 / 2 ^ 16)) then
      .refused 4
    else if ps.any fun p => denied (p.1 - regBase) then .refused 8
    else
      let (out, n, s) := ps.foldl (fun (acc : List Byte × Nat × State) p =>
        let off := p.1 - regBase
        let (k, t) := acc.2.2.regWrite .control off (if off % 8 = 0 then 8 else 4) p.2
        let v := bitsOf (t.blockWord (off / 2 ^ 40) (off % 2 ^ 40 / 2 ^ 16) (off % 2 ^ 16 / 8 * 8)) (off % 8 * 8) 64
        (acc.1 ++ leBytes 8 p.1 ++ leBytes 8 v, acc.2.1 + k, t)) ([], 0, s)
      .ok out n s)

namespace State

/-- No device access of the tile issued before this one to one of its granules is outstanding (R316). -/
def deviceTurn (s : State) (t : Nat) (o : TileOp) : Bool :=
  let granule : OpKind → Option Nat
    | .devLd a .. => some (a / 64)
    | .devSt a .. => some (a / 64)
    | _ => none
  (s.tileOf t).ops.all fun p => decide (o.id ≤ p.id) || granule p.kind != granule o.kind

/-- What a device access leads to does not wait for an island in HOLD (R521): the stack of a fast-tier address is ON, a register's unit is not
in HOLD. -/
def placeRuns (s : State) (k : OpKind) : Bool :=
  match k with
  | .devLd a _ _ _ | .devSt a _ _ => (match s.target a with
    | .fast r _ => s.runs (672 + r)
    | .regs off => !s.regHeld off
    | _ => true)
  | _ => true

/-- A device LD's data (R159, R314, R578): register space by registers, where an access of 1 or 2 bytes returns a free value; else memory,
a failed granule reported. -/
def deviceLoad (s : State) (t c a n : Nat) : Nat × State :=
  match s.target a with
  | .regs off =>
    if n < 4 then
      let (w, s) := s.freshWord
      (w.toNat % 2 ^ (8 * n), s)
    else s.regRead off n
  | _ => (s.devNat a n, s.readBad (s.badIn a n) (agentId (.thread t c 0)) 0 0)

/-- A device ST is accepted at its point of coherence (R159, R315). -/
def deviceStore (s : State) (a n v : Nat) : State :=
  match s.target a with
  | .regs off => (s.regWrite .tile off n v).2
  | _ => s.setDevNat a n v

end State

/-- DEVICE_ACCESS_DONE (R159, R315, R316): a device LD returns its value, or a device ST is accepted. -/
def execDeviceAccessDone (tile : TileId) (op : Nat) (s : State) : Host.Outcome State Fault Refusal :=
  .next (match s.op? tile op with
    | some o =>
      if !s.deviceTurn tile o || !s.placeRuns o.kind then s
      else match o.kind with
        | .devLd a n rd sg =>
          let (v, s) := s.deviceLoad tile o.ctx a n
          (s.setX tile o.ctx rd (extended n sg v)).finish tile o
        | .devSt a n v => (s.deviceStore a n v.toNat).finish tile o
        | _ => s
    | none => s)

end Sys2Proof.Machine
end

