-- ==== Sys2Proof/Machine/Bar0.lean ====
section
/-! DEFINITION. The host's BAR0 and the management fibre: mailbox words, event counts, MSI-X, host-link registers, the meter window,
doorbell slots, the snapshot area (R464 to R466, R485, R487, R514, R516, R519, R552, R593), management frames (R604) and the restart
command (R540). -/

namespace Sys2Proof.Machine

namespace State

/-! ### BAR0 as it reads -/

/-- The 8 bytes at an offset of a mailbox (R464, R465). -/
def mailboxWord (s : State) (m o : Nat) : Nat :=
  let b := s.mb m
  match o with
  | 0x000 => b.opcode + b.length * 2 ^ 16 + b.seq * 2 ^ 32
  | 0x008 => b2n b.irq 1
  | 0x010 => b.status + b.rlength * 2 ^ 16 + b.rseq * 2 ^ 32
  | 0x018 => b.state + b2n b.lost 2
  | 0x020 => b.clamps
  | _ => if 0x040 ≤ o then Memory.readLE b.payload (o - 0x040) 8 else 0

def msixEntry (s : State) (v : Nat) : MsixEntry := Tbl.get (fun _ => MsixEntry.mk 0 0 true) s.ev.msix v

/-- Eight bytes of an MSI-X table entry (R516): message address; message data and vector control. -/
def msixWord (s : State) (v half : Nat) : Nat :=
  let e := s.msixEntry v
  if half = 0 then e.addr else e.data + b2n e.masked 32

/-- The 8 bytes at an offset of a doorbell slot (R485). -/
def doorbellWord (s : State) (q o : Nat) : Nat :=
  let c := s.queue q
  match o with
  | 0x00 => c.prod.toNat + c.cons.toNat * 2 ^ 32
  | 0x08 => c.log2 + c.mode * 2 ^ 5 + b2n (c.kind != 15 && s.consumerPresent q) 6 + b2n c.ovf 7
  | 0x10 => c.clamps
  | 0x18 => c.refused
  | 0x20 => c.overflow
  | _ => 0

/-- The 8 bytes at an offset of BAR0, a multiple of 8 (R514); zero where nothing stands. -/
def bar0Word (s : State) (o : Nat) : Nat :=
  if o < 0x40000 then s.mailboxWord (o / 4096) (o % 4096)
  else if o = 0x40000 then s.ev.ring.consumed % 2 ^ 32
  else if o = 0x40008 then s.ev.ring.produced % 2 ^ 32
  else if 0x50000 ≤ o ∧ o < 0x58000 then s.msixWord ((o - 0x50000) / 16) (o % 16 / 8)
  else if 0x58000 ≤ o ∧ o < 0x58100 then
    (upFrom 0 64).foldl (fun n k => n + b2n (Tbl.get (fun _ => false) s.ev.pba ((o - 0x58000) * 8 + k)) k) 0
  else if 0x60000 ≤ o ∧ o < 0x61000 then s.blockWord 9 4 (o - 0x60000)
  else if 0x70000 ≤ o ∧ o < 0x71000 then
    match regIn [.meter] (o - 0x70000) with
    | some (r, i) => s.regView bMeter r i
    | none => 0
  else if 0x01000000 ≤ o ∧ o < 0x02000000 then s.doorbellWord ((o - 0x01000000) / 64) (o % 64)
  else if 0x04000000 ≤ o ∧ o < 0x08000000 then s.snapWord ((o - 0x04000000) / 8)
  else 0

/-! ### BAR0 written -/

/-- A write to a mailbox word (R465, R466): MB_REQ and the payload only while the mailbox is not BUSY. -/
def mailboxWrite (s : State) (m o : Nat) (v : Written) (data : List Byte) : State :=
  let b := s.mb m
  let at_ := o / 8 * 8
  if at_ = 0x008 then if v.lo = 0 then s.mailboxGo m (bitsOf v.put 1 1 == 1) (bitsOf v.put 0 1 == 1) else s
  else if at_ = 0x018 then if bitsOf v.put 2 1 = 1 then s.modMb m fun b => { b with lost := false } else s
  else if at_ = 0x000 ∨ 0x040 ≤ at_ then
    if b.state = 1 then s.modMb m fun b => { b with lost := true }
    else if at_ = 0x000 then
      s.modMb m fun b => { b with opcode := bitsOf v.img 0 16, length := min 4032 (bitsOf v.img 16 12), seq := bitsOf v.img 32 32 }
    else s.modMb m fun b => { b with payload := Memory.writeBytes b.payload (o - 0x040) data }
  else s

/-- A write to an MSI-X table entry (R516); a pending vector is sent when its mask clears. -/
def msixWrite (s : State) (vec half : Nat) (v : Written) : State :=
  let e := s.msixEntry vec
  let put (s : State) (e : MsixEntry) : State := { s with ev.msix := Tbl.put (fun _ => MsixEntry.mk 0 0 true) s.ev.msix vec e }
  if half = 0 then put s { e with addr := v.img }
  else
    let s := put s { e with data := bitsOf v.img 0 32 }
    if bitsOf v.img 32 1 = 1 then put s { s.msixEntry vec with masked := true }
    else if e.masked then s.msixUnmask vec else s

/-- A write of 4 or 8 bytes, aligned, at an offset of BAR0 (R514). -/
def bar0Write (s : State) (o : Nat) (data : List Byte) : State :=
  let n := data.length
  let lo := o % 8 * 8
  let v : Written := ⟨setBits (s.bar0Word (o / 8 * 8)) lo (8 * n) (leNat data), leNat data * 2 ^ lo, lo, 8 * n⟩
  if o < 0x40000 then s.mailboxWrite (o / 4096) (o % 4096) v data
  else if o = 0x40000 then s.consumedWrite (v.put % 2 ^ 32)
  else if 0x50000 ≤ o ∧ o < 0x58000 then s.msixWrite ((o - 0x50000) / 16) (o % 16 / 8) v
  else if 0x60000 ≤ o ∧ o < 0x61000 then (s.regWrite .host (9 * 2 ^ 40 + 4 * 2 ^ 16 + (o - 0x60000)) n (leNat data)).2
  else if 0x01000000 ≤ o ∧ o < 0x02000000 then
    let q := (o - 0x01000000) / 64
    if o % 64 = 0 ∧ n = 8 then s.doorbell q (BitVec.ofNat 32 (leNat data))
    else if o % 64 = 8 then if bitsOf v.put 7 1 = 1 then s.modQueue q fun c => { c with ovf := false } else s
    else s.qRefuse q
  else s

end State

/-- BAR0_ACCESS (R514): the host reads `len` bytes, or writes `data`, at an offset of BAR0 while its BARs decode. Accesses that are not
4 or 8 bytes and aligned read as zero and are discarded, but for the 64-byte append of R482; a discarded write to a doorbell slot counts as
refused there (R482). -/
def execBar0Access (off : BitVec 28) (write : Bool) (len : BitVec 7) (data : List Byte) (s : State) :
    Host.Outcome State Fault Refusal :=
  let o := off.toNat
  let n := if write then data.length else len.toNat
  let whole := (n == 4 || n == 8) && o % n == 0
  .next (if !s.barsDecode || n == 0 then s
    else if write then
      if whole then s.bar0Write o data
      else if 0x01000000 ≤ o ∧ o < 0x02000000 then
        let q := (o - 0x01000000) / 64
        if n = 64 ∧ o % 64 = 0 then s.hostAppend q data else s.qRefuse q
      else s
    else
      let v := if whole then bitsOf (s.bar0Word (o / 8 * 8)) (o % 8 * 8) (8 * n) else 0
      { s with hl.data := some (leBytes n v) })

namespace State

/-- A response frame of the management fibre (R604): the MB_RSP image, then the payload. -/
def frameOutMgmt (s : State) (status seq : Nat) (payload : List Byte) : State :=
  { s with rot.frames := (leBytes 8 (status + payload.length * 2 ^ 16 + seq * 2 ^ 32) ++ payload) :: s.rot.frames }

/-- The restart command (R540): honoured only while the rails are off after a trip. Whether it is, and the state. -/
def restartAsked (s : State) : Bool × State :=
  if s.pwr.tripped then (true, { s with pwr.restart := true }) else (false, s)

/-- What the pilot light or the meter answers to a management request (R604). -/
def mgmtCommand (s : State) (op : Nat) (arg : Nat → Nat → Nat) : KciOut :=
  if op = 0x01 then .ok (leBytes 8 (s.regView (bFn 6) .BOOT_STATUS 0) ++ leBytes 4 s.job.phase) 0 s
  else if 0x80 ≤ op ∧ op ≤ 0x85 then s.meterCommand op arg
  else if op = 0xB0 then
    let (ok, s) := s.restartAsked
    if ok then .ok [] 0 s else .refused 2
  else .refused 3

end State

/-- MGMT_FRAME (R604): a frame holds the MB_REQ image and the payload; one shorter than its LENGTH is discarded. The meter reads its
instruments as it takes a METER_TAG. The fibre's transmitter and the pilot light work while the always-on rail is up (R600). -/
def execMgmtFrame (frame : List Byte) (reading : MeterReading) (s : State) : Host.Outcome State Fault Refusal :=
  let req := leNat (cut frame 0 8)
  let op := bitsOf req 0 16
  let n := bitsOf req 16 12
  let seq := bitsOf req 32 32
  let arg (off k : Nat) : Nat := leNat (cut frame (8 + off) (min k (n - off)))
  .next (if !s.alwaysOn || decide (frame.length < 8 + n) then s
    else
      let t := if op = 0x80 then s.meterRead reading else s
      match t.mgmtCommand op arg with
      | .ok p _ t => t.frameOutMgmt 0 seq p
      | .refused st => t.frameOutMgmt st seq []
      | .later _ t => t)

/-- TRAY_RESTART (R540, R604): the restart command by the management fibre or the module's tray, while the always-on rail is up. -/
def execTrayRestart (s : State) : Host.Outcome State Fault Refusal := .next (if s.alwaysOn then s.restartAsked.2 else s)

end Sys2Proof.Machine
end

