-- ==== Sys2Proof/Machine/Control.lean ====
section
/-! DEFINITION. The control class (R151) and the rows that start, drain and fetch for threads (R138, R139, R146, R148). -/

namespace Sys2Proof.Machine

/-- An instruction that writes one scalar register from scalar sources. -/
def scalarOp (i : Instr) (h : Hdr) (rd : BitVec 5) (f : State → Word) (s : State) : Host.Outcome State Fault Refusal :=
  .next (s.issue i h false [] fun t => t.setX h.tile h.ctx rd.toNat (f s))

/-- The scalar sources of a control instruction. -/
def src1 (h : Hdr) (o : CtlOps) (s : State) : Word := s.x h.tile h.ctx o.rs1.toNat
def src2 (h : Hdr) (o : CtlOps) (s : State) : Word := s.x h.tile h.ctx o.rs2.toNat
/-- sext(imm). -/
def simm (o : CtlOps) : Word := o.imm.signExtend 64

/-- NOP (R151): nothing but the issue. -/
def execNop (h : Hdr) (o : CtlOps) (s : State) : Host.Outcome State Fault Refusal :=
  .next (s.issue (.nop h o) h false [] id)
def execAdd (h : Hdr) (o : CtlOps) (s : State) : Host.Outcome State Fault Refusal :=
  scalarOp (.add h o) h o.rd (fun s => src1 h o s + src2 h o s) s
def execAddi (h : Hdr) (o : CtlOps) (s : State) : Host.Outcome State Fault Refusal :=
  scalarOp (.addi h o) h o.rd (fun s => src1 h o s + simm o) s
def execSub (h : Hdr) (o : CtlOps) (s : State) : Host.Outcome State Fault Refusal :=
  scalarOp (.sub h o) h o.rd (fun s => src1 h o s - src2 h o s) s
/-- MUL (R151): the low 64 bits of the product. -/
def execMul (h : Hdr) (o : CtlOps) (s : State) : Host.Outcome State Fault Refusal :=
  scalarOp (.mul h o) h o.rd (fun s => src1 h o s * src2 h o s) s
def execAnd (h : Hdr) (o : CtlOps) (s : State) : Host.Outcome State Fault Refusal :=
  scalarOp (.and h o) h o.rd (fun s => src1 h o s &&& src2 h o s) s
def execOr (h : Hdr) (o : CtlOps) (s : State) : Host.Outcome State Fault Refusal :=
  scalarOp (.or h o) h o.rd (fun s => src1 h o s ||| src2 h o s) s
def execXor (h : Hdr) (o : CtlOps) (s : State) : Host.Outcome State Fault Refusal :=
  scalarOp (.xor h o) h o.rd (fun s => src1 h o s ^^^ src2 h o s) s
/-- SHL, SHR, SRA (R151): the shift amount is rs2 mod 64. -/
def execShl (h : Hdr) (o : CtlOps) (s : State) : Host.Outcome State Fault Refusal :=
  scalarOp (.shl h o) h o.rd (fun s => src1 h o s <<< ((src2 h o s).toNat % 64)) s
def execShr (h : Hdr) (o : CtlOps) (s : State) : Host.Outcome State Fault Refusal :=
  scalarOp (.shr h o) h o.rd (fun s => src1 h o s >>> ((src2 h o s).toNat % 64)) s
def execSra (h : Hdr) (o : CtlOps) (s : State) : Host.Outcome State Fault Refusal :=
  scalarOp (.sra h o) h o.rd (fun s => (src1 h o s).sshiftRight ((src2 h o s).toNat % 64)) s
/-- SHLI, SHRI, SRAI (R151): the shift amount is imm[5:0]. -/
def execShli (h : Hdr) (o : CtlOps) (s : State) : Host.Outcome State Fault Refusal :=
  scalarOp (.shli h o) h o.rd (fun s => src1 h o s <<< (o.imm.toNat % 64)) s
def execShri (h : Hdr) (o : CtlOps) (s : State) : Host.Outcome State Fault Refusal :=
  scalarOp (.shri h o) h o.rd (fun s => src1 h o s >>> (o.imm.toNat % 64)) s
def execSrai (h : Hdr) (o : CtlOps) (s : State) : Host.Outcome State Fault Refusal :=
  scalarOp (.srai h o) h o.rd (fun s => (src1 h o s).sshiftRight (o.imm.toNat % 64)) s
def execMovi (h : Hdr) (o : CtlOps) (s : State) : Host.Outcome State Fault Refusal :=
  scalarOp (.movi h o) h o.rd (fun _ => simm o) s
/-- MOVHI (R151): rd[63:32] = imm, rd[31:0] unchanged. -/
def execMovhi (h : Hdr) (o : CtlOps) (s : State) : Host.Outcome State Fault Refusal :=
  scalarOp (.movhi h o) h o.rd (fun s => o.imm ++ (s.x h.tile h.ctx o.rd.toNat).truncate 32) s

/-- The comparison a code selects (R151). -/
def cond (k : Nat) (a b : Word) : Bool :=
  match k with
  | 0 => a == b
  | 1 => a != b
  | 2 => a.slt b
  | 3 => !a.slt b
  | 4 => a.ult b
  | _ => !a.ult b

/-- An instruction that writes one predicate. -/
def predOp (i : Instr) (h : Hdr) (pd : BitVec 3) (f : State → Bool) (s : State) : Host.Outcome State Fault Refusal :=
  .next (s.issue i h false [] fun t => t.setP h.tile h.ctx pd.toNat (f s))

def execCmp (h : Hdr) (o : CtlOps) (s : State) : Host.Outcome State Fault Refusal :=
  predOp (.cmp h o) h o.pd (fun s => cond (o.imm.toNat % 8) (src1 h o s) (src2 h o s)) s
/-- CMPI (R151): the immediate is sext(imm[31:3]). -/
def execCmpi (h : Hdr) (o : CtlOps) (s : State) : Host.Outcome State Fault Refusal :=
  predOp (.cmpi h o) h o.pd (fun s => cond (o.imm.toNat % 8) (src1 h o s) ((o.imm.sshiftRight 3).signExtend 64)) s
/-- PLOG (R151). -/
def execPlog (h : Hdr) (o : CtlOps) (s : State) : Host.Outcome State Fault Refusal :=
  predOp (.plog h o) h o.pd (fun s =>
    let a := s.p h.tile h.ctx (o.rs1.toNat % 8)
    let b := s.p h.tile h.ctx (o.rs2.toNat % 8)
    match o.imm.toNat % 4 with
    | 0 => a && b
    | 1 => a || b
    | 2 => a != b
    | _ => a && !b) s

/-- PC + 8 × sext(imm), from the instruction's own address. -/
def target (s : State) (h : Hdr) (o : CtlOps) : BitVec 52 := (s.thr h.tile h.ctx).pc + o.imm.signExtend 52 * 8

/-- The program counter set. -/
def State.setPc (s : State) (t c : Nat) (pc : BitVec 52) : State := s.modThr t c fun th => { th with pc := pc }

def execBr (h : Hdr) (o : CtlOps) (s : State) : Host.Outcome State Fault Refusal :=
  .next (s.issue (.br h o) h false [] fun t => t.setPc h.tile h.ctx (target s h o))
/-- JR (R151, R164): an unaligned value faults with code 9. The program counter holds 52 bits (R136). -/
def execJr (h : Hdr) (o : CtlOps) (s : State) : Host.Outcome State Fault Refusal :=
  .next (s.issue (.jr h o) h false [(9, (src1 h o s).toNat % 8 != 0)] fun t =>
    t.setPc h.tile h.ctx ((src1 h o s).truncate 52))
def execCall (h : Hdr) (o : CtlOps) (s : State) : Host.Outcome State Fault Refusal :=
  .next (s.issue (.call h o) h false [] fun t =>
    (t.setX h.tile h.ctx o.rd.toNat (((s.thr h.tile h.ctx).pc + 8).zeroExtend 64)).setPc h.tile h.ctx (target s h o))
/-- SPAWN (R138, R151). -/
def execSpawn (h : Hdr) (o : CtlOps) (s : State) : Host.Outcome State Fault Refusal :=
  .next (s.issue (.spawn h o) h false [] fun t =>
    match t.freeCtx h.tile with
    | none => t.setX h.tile h.ctx o.rd.toNat (-1)
    | some c =>
      (t.startThr h.tile c (target s h o) (s.thr h.tile h.ctx).prio [src1 h o s] false none).setX h.tile h.ctx o.rd.toNat
        (BitVec.ofNat 64 c))
/-- HALT (R139, R146, R171): the thread enters DRAIN and gives up the lease; the program counter stays at the HALT. -/
def execHalt (h : Hdr) (o : CtlOps) (s : State) : Host.Outcome State Fault Refusal :=
  .next (s.issue (.halt h o) h false [] fun t =>
    (t.modThr h.tile h.ctx fun th => { th with run := .drain, pc := (s.thr h.tile h.ctx).pc, halted := (s.thr h.tile h.ctx).pc }).leaseRelease h.tile h.ctx)
/-- FENCE (R151): WAIT with cause 8 until the thread's earlier instructions have completed. -/
def execFence (h : Hdr) (o : CtlOps) (s : State) : Host.Outcome State Fault Refusal :=
  .next (s.issue (.fence h o) h false [] fun t =>
    if (t.opsOf h.tile h.ctx).isEmpty then t else t.modThr h.tile h.ctx fun th => { th with hold := 8 })
/-- RDTIME (R26, R151): the device time counter. R26 lets what an island reads differ from the timebase by up to 4 ns; the model's
difference is always 0 (DESIGN CHOICE, log entry 115). -/
def execRdtime (h : Hdr) (o : CtlOps) (s : State) : Host.Outcome State Fault Refusal :=
  scalarOp (.rdtime h o) h o.rd (fun s => BitVec.ofNat 64 s.time) s
def execRdid (h : Hdr) (o : CtlOps) (s : State) : Host.Outcome State Fault Refusal :=
  scalarOp (.rdid h o) h o.rd (fun _ => BitVec.ofNat 64 (h.tile.val * 256 + h.ctx.val)) s

/-! ### Starting, draining, fetching -/

/-- The context a launch descriptor can start in now (R138). -/
def launchCtx (s : State) (t : Nat) (l : LaunchDesc) : Option Nat :=
  if l.any then s.freeCtx t else if (s.thr t l.context).run = .free then some l.context else none

/-- LAUNCH (R138): the descriptor at the head of the launch queue starts its context, or waits. While issue is halted launch
descriptors wait (R145). -/
def execLaunch (tile : TileId) (s : State) : Host.Outcome State Fault Refusal :=
  let q := State.tileQueue tile 3
  .next (match s.startable q with
    | none => s
    | some (n, d) =>
      let l := launchOf d
      if s.flag (bTile tile) Fld.SEQ_CTRL_HALT_ISSUE then s
      else match launchCtx s tile l with
        | none => s
        | some c =>
          ((s.descStart q n d).startThr tile c l.entry l.prio l.x true l.done).modThr tile c fun th => { th with seq := n })

/-- THREAD_DRAIN_DONE (R139): the last outstanding instruction has completed; the context becomes FREE and its completion
counter gains 1. -/
def execThreadDrainDone (tile : TileId) (ctx : CtxId) (s : State) : Host.Outcome State Fault Refusal :=
  let th := s.thr tile ctx
  .next (s.ifRuns (clusterOfTile tile) (if th.run = .drain ∧ (s.opsOf tile ctx).isEmpty then
      let s := s.setThr tile ctx { th with run := .free }
      let s := match th.done with
        | none => s
        | some k => s.signal (agentId (.thread tile ctx 0)) th.seq k
      if th.launched then s.descDone (State.tileQueue tile 3) th.seq else s
    else s))

/-- VLEASE_HANDOVER (R146): a waiting release takes effect once the holder's vector instructions have completed. -/
def execVleaseHandover (tile : TileId) (s : State) : Host.Outcome State Fault Refusal :=
  .next (s.ifRuns (clusterOfTile tile) (match (s.tileOf tile).lease with
    | none => s
    | some c => if (s.tileOf tile).releasing && s.leaseDrained tile c then s.leaseHandover tile else s))

end Sys2Proof.Machine
end

