-- ==== Sys2Proof/Machine/Issue.lean ====
section
/-! DEFINITION. The issue slot (R141 to R145) and instruction fetch (R148): which context a slot goes to, and its next instruction run. -/

namespace Sys2Proof.Machine

/-- A tile instruction run by its own meaning; other commands are none. -/
def runTile (i : Instr) (s : State) : Host.Outcome State Fault Refusal :=
  match i with
  | .nop h o => execNop h o s
  | .add h o => execAdd h o s
  | .addi h o => execAddi h o s
  | .sub h o => execSub h o s
  | .mul h o => execMul h o s
  | .and h o => execAnd h o s
  | .or h o => execOr h o s
  | .xor h o => execXor h o s
  | .shl h o => execShl h o s
  | .shr h o => execShr h o s
  | .sra h o => execSra h o s
  | .shli h o => execShli h o s
  | .shri h o => execShri h o s
  | .srai h o => execSrai h o s
  | .movi h o => execMovi h o s
  | .movhi h o => execMovhi h o s
  | .cmp h o => execCmp h o s
  | .cmpi h o => execCmpi h o s
  | .plog h o => execPlog h o s
  | .br h o => execBr h o s
  | .jr h o => execJr h o s
  | .call h o => execCall h o s
  | .spawn h o => execSpawn h o s
  | .halt h o => execHalt h o s
  | .fence h o => execFence h o s
  | .rdtime h o => execRdtime h o s
  | .rdid h o => execRdid h o s
  | .wload h o => execWload h o s
  | .mma h o => execMma h o s
  | .readout h o => execReadout h o s
  | .vadd h o => execVadd h o s
  | .vsub h o => execVsub h o s
  | .vmul h o => execVmul h o s
  | .vfma h o => execVfma h o s
  | .vmax h o => execVmax h o s
  | .vmin h o => execVmin h o s
  | .vrsqrt h o => execVrsqrt h o s
  | .vrcp h o => execVrcp h o s
  | .vexp2 h o => execVexp2 h o s
  | .vlog2 h o => execVlog2 h o s
  | .vbcast h o => execVbcast h o s
  | .vidx h o => execVidx h o s
  | .vsum h o => execVsum h o s
  | .vmaxr h o => execVmaxr h o s
  | .vcvt h o => execVcvt h o s
  | .vldc h o => execVldc h o s
  | .vacc h o => execVacc h o s
  | .vlease h o => execVlease h o s
  | .vrelease h o => execVrelease h o s
  | .ld h o => execLd h o s
  | .st h o => execSt h o s
  | .vld h o => execVld h o s
  | .vst h o => execVst h o s
  | .dma h o => execDma h o s
  | .sadd h o => execSadd h o s
  | .ssub h o => execSsub h o s
  | .swait h o => execSwait h o s
  | .sread h o => execSread h o s
  | .ssignal h o => execSsignal h o s
  | .smpl h o => execSmpl h o s
  | .gath h o => execGath h o s
  | .scat h o => execScat h o s
  | .embd h o => execEmbd h o s
  | .qpost h o => execQpost h o s
  | _ => .next s

/-- The first number of a list at or after `from_` in ascending order, wrapping. -/
def firstFrom (from_ : Nat) (l : List Nat) : Option Nat :=
  match l.find? fun c => from_ ≤ c with
  | some c => some c
  | none => l.head?

namespace State

/-- Contexts whose next instruction is not in the instruction cache begin to wait for its line; one whose program counter leads nowhere
faults with code 9 (R148), but for a tile whose memories are being filled, where fetches wait (R182). -/
def fetchMisses (s : State) (t : Nat) : State :=
  s.foldS ((upFrom 0 128).filter fun c => (s.thr t c).run == .running && (s.thr t c).hold == 0) fun s c =>
    if s.badPc t c then if s.flag (bTile t) Fld.BANK_STATUS_CLEARING then s else s.threadFault t c 9
    else if (s.nextWord t c).isNone then s.modThr t c fun th => { th with hold := 3 }
    else s

/-- The READY contexts of a tile, in ascending order. -/
def readyContexts (s : State) (t : Nat) : List Nat := (upFrom 0 128).filter (s.isReady t)

/-- A READY context passed over 4,096 slots: the one passed over longest (R142). -/
def starved (s : State) (t : Nat) (l : List Nat) : Option Nat :=
  l.foldl (fun best c =>
    if (s.thr t c).passed < 4096 then best
    else match best with
      | some b => if (s.thr t b).passed < (s.thr t c).passed then some c else best
      | none => some c) none

/-- The context a slot goes to in normal service, and whether starvation forces it (R142). -/
def pickNormal (s : State) (t : Nat) (l : List Nat) : Option (Nat × Bool) :=
  match s.starved t l with
  | some c => some (c, true)
  | none =>
    let p := l.foldl (fun p c => max p (s.thr t c).prio) 0
    (firstFrom (((s.tileOf t).last.getD p 127 + 1) % 128) (l.filter fun c => (s.thr t c).prio == p)).map fun c => (c, false)

/-- The context a slot goes to in Reel mode (R143): the one whose turn it is, else the first pinned READY one after it. -/
def pickReel (s : State) (t : Nat) (l : List Nat) : Option Nat :=
  let turn := (s.tileOf t).turn
  if l.contains turn then some turn else firstFrom ((turn + 1) % 128) (l.filter fun c => (s.thr t c).pin)

/-- The slot's pick, with whether starvation forced it; none while issue is halted (R145), the memories are being filled (R182) or the
cluster's island admits nothing (R523). -/
def pickSlot (s : State) (t : Nat) : Option (Nat × Bool) :=
  if s.flag (bTile t) Fld.SEQ_CTRL_HALT_ISSUE || s.flag (bTile t) Fld.BANK_STATUS_CLEARING || !s.takesWork (clusterOfTile t) then none
  else if (s.tileOf t).reelOn then (s.pickReel t (s.readyContexts t)).map fun c => (c, false)
  else s.pickNormal t (s.readyContexts t)

/-- The turn pointer steps on in Reel mode (R143). -/
def stepTurn (s : State) (t : Nat) : State :=
  if (s.tileOf t).reelOn then s.modTile t fun tl => { tl with turn := (tl.turn + 1) % 128 } else s

/-- Another context has issued: each other READY context has been passed over once more, one that is not READY no longer in a row
(R142). -/
def passOver (s : State) (t c : Nat) (waiting : List Nat) : State :=
  if (s.tileOf t).reelOn then s
  else s.foldS ((upFrom 0 128).filter fun k => k != c && (s.thr t k).run == .running) fun s k =>
    s.modThr t k fun th => { th with passed := if waiting.contains k then th.passed + 1 else 0 }

/-- A slot in which nothing issues (R144). -/
def emptySlot (s : State) (t : Nat) : State :=
  if (upFrom 0 128).any fun c => (s.thr t c).run != .free then s.count (bTile t) .SEQ_EMPTY else s

end State

/-- ISSUE_SLOT (R142 to R145, R148, R164, R532): fetches that miss or fault first, then the context picked issues its next instruction; a
word of a reserved class or opcode faults with code 1. A slot that the island's share does not admit issues nothing. -/
def execIssueSlot (tile : TileId) (s : State) : Host.Outcome State Fault Refusal :=
  let t := tile.val
  if s.tilePresent t && s.runs (clusterOfTile t) then
    let s := (s.reelSlot t).fetchMisses t
    match if s.throttled (clusterOfTile t) 0 then none else s.pickSlot t with
    | none => .next (((s.emptySlot t).stepTurn t).passed (clusterOfTile t) 0 false)
    | some (c, forced) =>
      let waiting := s.readyContexts t
      let s := (s.passed (clusterOfTile t) 0 true).stepTurn t
      let s := if forced then s.count (bTile t) .SEQ_STARVE else s
      match decodeTile tile (Fin.ofNat 128 c) ((s.nextWord t c).getD 0) with
      | none => .next ((s.issueFault t c 1).passOver t c waiting)
      | some i =>
        match runTile i s with
        | .next u => .next (u.passOver t c waiting)
        | o => o
  else .next s

/-- IFETCH_FILL (R148): a line arrives and its waiting threads leave WAIT cause 3; a fetch under way at an invalidation is
discarded; while a zero-fill runs the fetch waits (R182); one that meets an uncorrectable error faults them with code 9 (R578). The line replaced in a full cache is open (log entry 5). -/
def execIfetchFill (tile : TileId) (line : BitVec 46) (victim : Option (BitVec 46)) (s : State) : Host.Outcome State Fault Refusal :=
  let l := line.toNat
  let waiting := (upFrom 0 128).filter fun c =>
    (s.thr tile c).hold == 3 && (s.thr tile c).pc.toNat / 64 == l
  .next (s.ifRuns (clusterOfTile tile) (if s.flag (bTile tile) Fld.BANK_STATUS_CLEARING ∨ ¬ s.memRuns (64 * l) 64 ∨ (waiting.isEmpty ∧ ¬ (s.tileOf tile).discard.contains l) then s
    else if (s.tileOf tile).discard.contains l then
      (s.modTile tile fun tl => { tl with discard := tl.discard.erase l }).foldS waiting fun s c =>
        s.modThr tile c fun th => { th with hold := 0 }
    else if !(s.badIn (64 * l) 64).isEmpty then
      let t := s.uncorrectable ⟨(s.detector (64 * l)).1, (s.detector (64 * l)).2, 64 * l, 4, 0, 0, 0xFFFFFFFF⟩
      t.foldS waiting fun s c => s.threadFault tile c 9
    else
      let bytes := leNat (s.devBytes (64 * l) 64)
      let s := s.modTile tile fun tl =>
        let ic := match victim with
          | some v => if 512 ≤ tl.icache.length then Tbl.erase tl.icache v.toNat else tl.icache
          | none => tl.icache
        { tl with icache := if ic.length < 512 then Tbl.insert ic l bytes else ic }
      s.foldS waiting fun s c => s.modThr tile c fun th => { th with hold := 0 }))

end Sys2Proof.Machine
end

