-- ==== Sys2Proof/Machine/Dispatch.lean ====
section
/-! DEFINITION. One arm per command: each calls its meaning directly. -/

namespace Sys2Proof.Machine

def exec (i : Instr) (s : State) : Host.Outcome State Fault Refusal :=
  match i with
  | .coldStart light hottest => Sys2Proof.Machine.execColdStart light hottest s
  | .rootOfTrustVerify => Sys2Proof.Machine.execRootOfTrustVerify s
  | .controlCoreSelfTest failed => Sys2Proof.Machine.execControlCoreSelfTest failed s
  | .memoryTraining regions pairs => Sys2Proof.Machine.execMemoryTraining regions pairs s
  | .tileSelfTest parityBad cells failed => Sys2Proof.Machine.execTileSelfTest parityBad cells failed s
  | .pcieConfigReady => Sys2Proof.Machine.execPcieConfigReady s
  | .inputLoss => Sys2Proof.Machine.execInputLoss s
  | .inputOvervoltage => Sys2Proof.Machine.execInputOvervoltage s
  | .inputRestored => Sys2Proof.Machine.execInputRestored s
  | .phaseMarker queue => Sys2Proof.Machine.execPhaseMarker queue s
  | .issueSlot tile => Sys2Proof.Machine.execIssueSlot tile s
  | .launch tile => Sys2Proof.Machine.execLaunch tile s
  | .threadDrainDone tile ctx => Sys2Proof.Machine.execThreadDrainDone tile ctx s
  | .ifetchFill tile line victim => Sys2Proof.Machine.execIfetchFill tile line victim s
  | .nop h o => Sys2Proof.Machine.execNop h o s
  | .add h o => Sys2Proof.Machine.execAdd h o s
  | .addi h o => Sys2Proof.Machine.execAddi h o s
  | .sub h o => Sys2Proof.Machine.execSub h o s
  | .mul h o => Sys2Proof.Machine.execMul h o s
  | .and h o => Sys2Proof.Machine.execAnd h o s
  | .or h o => Sys2Proof.Machine.execOr h o s
  | .xor h o => Sys2Proof.Machine.execXor h o s
  | .shl h o => Sys2Proof.Machine.execShl h o s
  | .shr h o => Sys2Proof.Machine.execShr h o s
  | .sra h o => Sys2Proof.Machine.execSra h o s
  | .shli h o => Sys2Proof.Machine.execShli h o s
  | .shri h o => Sys2Proof.Machine.execShri h o s
  | .srai h o => Sys2Proof.Machine.execSrai h o s
  | .movi h o => Sys2Proof.Machine.execMovi h o s
  | .movhi h o => Sys2Proof.Machine.execMovhi h o s
  | .cmp h o => Sys2Proof.Machine.execCmp h o s
  | .cmpi h o => Sys2Proof.Machine.execCmpi h o s
  | .plog h o => Sys2Proof.Machine.execPlog h o s
  | .br h o => Sys2Proof.Machine.execBr h o s
  | .jr h o => Sys2Proof.Machine.execJr h o s
  | .call h o => Sys2Proof.Machine.execCall h o s
  | .spawn h o => Sys2Proof.Machine.execSpawn h o s
  | .halt h o => Sys2Proof.Machine.execHalt h o s
  | .fence h o => Sys2Proof.Machine.execFence h o s
  | .rdtime h o => Sys2Proof.Machine.execRdtime h o s
  | .rdid h o => Sys2Proof.Machine.execRdid h o s
  | .wload h o => Sys2Proof.Machine.execWload h o s
  | .wloadStart tile op => Sys2Proof.Machine.execWloadStart tile op s
  | .wloadDone tile op waitOwn waitPort => Sys2Proof.Machine.execWloadDone tile op waitOwn waitPort s
  | .mma h o => Sys2Proof.Machine.execMma h o s
  | .mmaStreamStart tile op => Sys2Proof.Machine.execMmaStreamStart tile op s
  | .resultGroupWrite tile op bt waitOwn waitPort => Sys2Proof.Machine.execResultGroupWrite tile op bt waitOwn waitPort s
  | .readout h o => Sys2Proof.Machine.execReadout h o s
  | .readoutStart tile op => Sys2Proof.Machine.execReadoutStart tile op s
  | .readoutDone tile op waitOwn waitPort => Sys2Proof.Machine.execReadoutDone tile op waitOwn waitPort s
  | .vadd h o => Sys2Proof.Machine.execVadd h o s
  | .vsub h o => Sys2Proof.Machine.execVsub h o s
  | .vmul h o => Sys2Proof.Machine.execVmul h o s
  | .vfma h o => Sys2Proof.Machine.execVfma h o s
  | .vmax h o => Sys2Proof.Machine.execVmax h o s
  | .vmin h o => Sys2Proof.Machine.execVmin h o s
  | .vrsqrt h o => Sys2Proof.Machine.execVrsqrt h o s
  | .vrcp h o => Sys2Proof.Machine.execVrcp h o s
  | .vexp2 h o => Sys2Proof.Machine.execVexp2 h o s
  | .vlog2 h o => Sys2Proof.Machine.execVlog2 h o s
  | .vbcast h o => Sys2Proof.Machine.execVbcast h o s
  | .vidx h o => Sys2Proof.Machine.execVidx h o s
  | .vsum h o => Sys2Proof.Machine.execVsum h o s
  | .vmaxr h o => Sys2Proof.Machine.execVmaxr h o s
  | .vcvt h o => Sys2Proof.Machine.execVcvt h o s
  | .vldc h o => Sys2Proof.Machine.execVldc h o s
  | .vacc h o => Sys2Proof.Machine.execVacc h o s
  | .vlease h o => Sys2Proof.Machine.execVlease h o s
  | .vrelease h o => Sys2Proof.Machine.execVrelease h o s
  | .vleaseHandover tile => Sys2Proof.Machine.execVleaseHandover tile s
  | .ld h o => Sys2Proof.Machine.execLd h o s
  | .st h o => Sys2Proof.Machine.execSt h o s
  | .vld h o => Sys2Proof.Machine.execVld h o s
  | .vst h o => Sys2Proof.Machine.execVst h o s
  | .dma h o => Sys2Proof.Machine.execDma h o s
  | .deviceAccessDone tile op => Sys2Proof.Machine.execDeviceAccessDone tile op s
  | .sadd h o => Sys2Proof.Machine.execSadd h o s
  | .ssub h o => Sys2Proof.Machine.execSsub h o s
  | .swait h o => Sys2Proof.Machine.execSwait h o s
  | .sread h o => Sys2Proof.Machine.execSread h o s
  | .ssignal h o => Sys2Proof.Machine.execSsignal h o s
  | .syncOpRelease tile op => Sys2Proof.Machine.execSyncOpRelease tile op s
  | .smpl h o => Sys2Proof.Machine.execSmpl h o s
  | .gath h o => Sys2Proof.Machine.execGath h o s
  | .scat h o => Sys2Proof.Machine.execScat h o s
  | .embd h o => Sys2Proof.Machine.execEmbd h o s
  | .qpost h o => Sys2Proof.Machine.execQpost h o s
  | .bankAccess tile op waitOwn waitPort => Sys2Proof.Machine.execBankAccess tile op waitOwn waitPort s
  | .bankOwnWrite tile bank value => Sys2Proof.Machine.execBankOwnWrite tile bank value s
  | .bankHandoverDone tile bank => Sys2Proof.Machine.execBankHandoverDone tile bank s
  | .bankLongWait tile bank => Sys2Proof.Machine.execBankLongWait tile bank s
  | .zeroFillDone tile => Sys2Proof.Machine.execZeroFillDone tile s
  | .arrHold arr w hold => Sys2Proof.Machine.execArrHold arr w hold s
  | .arrCntClear arr => Sys2Proof.Machine.execArrCntClear arr s
  | .arrRemapWrite arr w value => Sys2Proof.Machine.execArrRemapWrite arr w value s
  | .arrFuseProg arr w value => Sys2Proof.Machine.execArrFuseProg arr w value s
  | .fuseProgDone unit => Sys2Proof.Machine.execFuseProgDone unit s
  | .amClearAll tile w => Sys2Proof.Machine.execAmClearAll tile w s
  | .amCntClear tile w => Sys2Proof.Machine.execAmCntClear tile w s
  | .fmtClear unit => Sys2Proof.Machine.execFmtClear unit s
  | .seqReel tile w on => Sys2Proof.Machine.execSeqReel tile w on s
  | .seqHaltIssue tile w on => Sys2Proof.Machine.execSeqHaltIssue tile w on s
  | .seqCntClear tile w => Sys2Proof.Machine.execSeqCntClear tile w s
  | .icinv tile w => Sys2Proof.Machine.execIcinv tile w s
  | .thrStateWrite tile ctx w value => Sys2Proof.Machine.execThrStateWrite tile ctx w value s
  | .bankCntClear tile w => Sys2Proof.Machine.execBankCntClear tile w s
  | .pruCntClear unit w => Sys2Proof.Machine.execPruCntClear unit w s
  | .spkCntClear unit w => Sys2Proof.Machine.execSpkCntClear unit w s
  | .queueAppend q src desc => Sys2Proof.Machine.execQueueAppend q src desc s
  | .appendAccepted q => Sys2Proof.Machine.execAppendAccepted q s
  | .hostDoorbell q p => Sys2Proof.Machine.execHostDoorbell q p s
  | .queueDescriptorTake q => Sys2Proof.Machine.execQueueDescriptorTake q s
  | .samplerStart cluster => Sys2Proof.Machine.execSamplerStart cluster s
  | .samplerExpansion cluster => Sys2Proof.Machine.execSamplerExpansion cluster s
  | .samplerReadReturn cluster exp order => Sys2Proof.Machine.execSamplerReadReturn cluster exp order s
  | .hopComplete cluster desc => Sys2Proof.Machine.execHopComplete cluster desc s
  | .smpHold cluster w hold => Sys2Proof.Machine.execSmpHold cluster w hold s
  | .smpCntClear cluster w => Sys2Proof.Machine.execSmpCntClear cluster w s
  | .gdinv cluster w => Sys2Proof.Machine.execGdinv cluster w s
  | .gsDescriptorStart cluster => Sys2Proof.Machine.execGsDescriptorStart cluster s
  | .gsAdmit cluster waitOwn waitPort => Sys2Proof.Machine.execGsAdmit cluster waitOwn waitPort s
  | .hotCountWindowEnd cluster => Sys2Proof.Machine.execHotCountWindowEnd cluster s
  | .gsIssue cluster => Sys2Proof.Machine.execGsIssue cluster s
  | .gatherReadReturn cluster entry waitOwn waitPort => Sys2Proof.Machine.execGatherReadReturn cluster entry waitOwn waitPort s
  | .memoryAdd cluster entry granule => Sys2Proof.Machine.execMemoryAdd cluster entry granule s
  | .scatterAddApplied cluster entry => Sys2Proof.Machine.execScatterAddApplied cluster entry s
  | .gsFlushEnd cluster desc => Sys2Proof.Machine.execGsFlushEnd cluster desc s
  | .gsProgress cluster desc => Sys2Proof.Machine.execGsProgress cluster desc s
  | .gsDone cluster desc => Sys2Proof.Machine.execGsDone cluster desc s
  | .gsHold cluster w hold => Sys2Proof.Machine.execGsHold cluster w hold s
  | .gsCntClear cluster w => Sys2Proof.Machine.execGsCntClear cluster w s
  | .hotEnWrite cluster w on => Sys2Proof.Machine.execHotEnWrite cluster w on s
  | .hotFlushWrite cluster w => Sys2Proof.Machine.execHotFlushWrite cluster w s
  | .lookupStart region => Sys2Proof.Machine.execLookupStart region s
  | .ownerPool region job index order answer positions count failed remote => Sys2Proof.Machine.execOwnerPool region job index order answer positions count failed remote s
  | .partialCombine region job index waitOwn waitPort => Sys2Proof.Machine.execPartialCombine region job index waitOwn waitPort s
  | .gradientContribution region job index order remote => Sys2Proof.Machine.execGradientContribution region job index order remote s
  | .lookupDone region job => Sys2Proof.Machine.execLookupDone region job s
  | .embHold region w hold => Sys2Proof.Machine.execEmbHold region w hold s
  | .embCntClear region w => Sys2Proof.Machine.execEmbCntClear region w s
  | .stackAccess addr act data len => Sys2Proof.Machine.execStackAccess addr act data len s
  | .cacheFill stack line => Sys2Proof.Machine.execCacheFill stack line s
  | .prefetchIssue stack stream withheld => Sys2Proof.Machine.execPrefetchIssue stack stream withheld s
  | .prefetchFill stack line => Sys2Proof.Machine.execPrefetchFill stack line s
  | .slowTierAccess addr write data len drained => Sys2Proof.Machine.execSlowTierAccess addr write data len drained s
  | .hostWindowAccess addr write data => Sys2Proof.Machine.execHostWindowAccess addr write data s
  | .hostReadCompletion tag how => Sys2Proof.Machine.execHostReadCompletion tag how s
  | .dmaStart engine => Sys2Proof.Machine.execDmaStart engine s
  | .dmaDone engine job hostBad wrote waitOwn waitPort => Sys2Proof.Machine.execDmaDone engine job hostBad wrote waitOwn waitPort s
  | .dmaHold engine w hold => Sys2Proof.Machine.execDmaHold engine w hold s
  | .dmaCntClear engine w => Sys2Proof.Machine.execDmaCntClear engine w s
  | .memMapWrite w value => Sys2Proof.Machine.execMemMapWrite w value s
  | .scCntClear stack w => Sys2Proof.Machine.execScCntClear stack w s
  | .pfEnWrite stack w en => Sys2Proof.Machine.execPfEnWrite stack w en s
  | .scPinWrite stack w en => Sys2Proof.Machine.execScPinWrite stack w en s
  | .updateCheckPass unit => Sys2Proof.Machine.execUpdateCheckPass unit s
  | .updateApplyPass unit beat => Sys2Proof.Machine.execUpdateApplyPass unit beat s
  | .updateDone unit => Sys2Proof.Machine.execUpdateDone unit s
  | .updHold unit w hold => Sys2Proof.Machine.execUpdHold unit w hold s
  | .updCntClear unit w => Sys2Proof.Machine.execUpdCntClear unit w s
  | .updGtDataWrite unit w word value => Sys2Proof.Machine.execUpdGtDataWrite unit w word value s
  | .syncOperation who op n seq counter => Sys2Proof.Machine.execSyncOperation who op n seq counter s
  | .waitRetry index => Sys2Proof.Machine.execWaitRetry index s
  | .remoteSignalArrive module level seq counter bytes => Sys2Proof.Machine.execRemoteSignalArrive module level seq counter bytes s
  | .remoteWriteLanded module level seq addr data => Sys2Proof.Machine.execRemoteWriteLanded module level seq addr data s
  | .heldSignalLate index => Sys2Proof.Machine.execHeldSignalLate index s
  | .syncClaim m w owner => Sys2Proof.Machine.execSyncClaim m w owner s
  | .syncAbandon m w => Sys2Proof.Machine.execSyncAbandon m w s
  | .syncClearFlags m w => Sys2Proof.Machine.execSyncClearFlags m w s
  | .syncSetValue m w value => Sys2Proof.Machine.execSyncSetValue m w value s
  | .syncSelWrite m value => Sys2Proof.Machine.execSyncSelWrite m value s
  | .syncCntClear m w => Sys2Proof.Machine.execSyncCntClear m w s
  | .bucketPost => Sys2Proof.Machine.execBucketPost s
  | .contributionReady step bucket => Sys2Proof.Machine.execContributionReady step bucket s
  | .rsPartialReceive port waited => Sys2Proof.Machine.execRsPartialReceive port waited s
  | .partialUnpark step bucket index => Sys2Proof.Machine.execPartialUnpark step bucket index s
  | .agChunkReceive port waited => Sys2Proof.Machine.execAgChunkReceive port waited s
  | .bucketComplete step bucket => Sys2Proof.Machine.execBucketComplete step bucket s
  | .bucketDeadline step bucket => Sys2Proof.Machine.execBucketDeadline step bucket s
  | .lateContribution step bucket => Sys2Proof.Machine.execLateContribution step bucket s
  | .backupCopyReceive port waited => Sys2Proof.Machine.execBackupCopyReceive port waited s
  | .backupResultReceive port waited => Sys2Proof.Machine.execBackupResultReceive port waited s
  | .verdictRoundStart step => Sys2Proof.Machine.execVerdictRoundStart step s
  | .verdictReceive port => Sys2Proof.Machine.execVerdictReceive port s
  | .localSeal => Sys2Proof.Machine.execLocalSeal s
  | .sealReceive port => Sys2Proof.Machine.execSealReceive port s
  | .ringBreakTimeout die level => Sys2Proof.Machine.execRingBreakTimeout die level s
  | .breakReceive port => Sys2Proof.Machine.execBreakReceive port s
  | .frHold w hold => Sys2Proof.Machine.execFrHold w hold s
  | .frCntClear w => Sys2Proof.Machine.execFrCntClear w s
  | .reCntClear die w => Sys2Proof.Machine.execReCntClear die w s
  | .lwPortLightLoss port => Sys2Proof.Machine.execLwPortLightLoss port s
  | .lwSearchListen port heard => Sys2Proof.Machine.execLwSearchListen port heard s
  | .lwTrainingDone port good nonce => Sys2Proof.Machine.execLwTrainingDone port good nonce s
  | .lwWavelengthFail port w => Sys2Proof.Machine.execLwWavelengthFail port w s
  | .lwSpareSwitch port => Sys2Proof.Machine.execLwSpareSwitch port s
  | .lwPortDown port => Sys2Proof.Machine.execLwPortDown port s
  | .lwFrameReceive port flit trailer corrected lost => Sys2Proof.Machine.execLwFrameReceive port flit trailer corrected lost s
  | .lwReplay port => Sys2Proof.Machine.execLwReplay port s
  | .lwRetryTimeout port => Sys2Proof.Machine.execLwRetryTimeout port s
  | .lwFrameSend port turn credit => Sys2Proof.Machine.execLwFrameSend port turn credit s
  | .lwPacketReceive port cls => Sys2Proof.Machine.execLwPacketReceive port cls s
  | .lwReadRequest port => Sys2Proof.Machine.execLwReadRequest port s
  | .lwReadResponse port => Sys2Proof.Machine.execLwReadResponse port s
  | .remoteWriteDescriptor die waitOwn waitPort => Sys2Proof.Machine.execRemoteWriteDescriptor die waitOwn waitPort s
  | .remoteWriteDone die seq => Sys2Proof.Machine.execRemoteWriteDone die seq s
  | .identReceive port => Sys2Proof.Machine.execIdentReceive port s
  | .attestRetry port nonce => Sys2Proof.Machine.execAttestRetry port nonce s
  | .mapIdReceive port => Sys2Proof.Machine.execMapIdReceive port s
  | .mapCheckEnd => Sys2Proof.Machine.execMapCheckEnd s
  | .tokenSend level => Sys2Proof.Machine.execTokenSend level s
  | .tokenReceive port => Sys2Proof.Machine.execTokenReceive port s
  | .tokenRetry level => Sys2Proof.Machine.execTokenRetry level s
  | .ringFormTimeout level => Sys2Proof.Machine.execRingFormTimeout level s
  | .timingFrameSend port frac => Sys2Proof.Machine.execTimingFrameSend port frac s
  | .timingFrameReceive port t1 t3 t4 flags hops frac => Sys2Proof.Machine.execTimingFrameReceive port t1 t3 t4 flags hops frac s
  | .lwEnWrite port w on => Sys2Proof.Machine.execLwEnWrite port w on s
  | .lwRetrain port w => Sys2Proof.Machine.execLwRetrain port w s
  | .lwCntClear port w => Sys2Proof.Machine.execLwCntClear port w s
  | .mailboxGo mailbox irq => Sys2Proof.Machine.execMailboxGo mailbox irq s
  | .mailboxResponse mailbox status payload => Sys2Proof.Machine.execMailboxResponse mailbox status payload s
  | .ping mailbox => Sys2Proof.Machine.execPing mailbox s
  | .eventRingSet mailbox => Sys2Proof.Machine.execEventRingSet mailbox s
  | .mapLoad mailbox => Sys2Proof.Machine.execMapLoad mailbox s
  | .jobOpen mailbox => Sys2Proof.Machine.execJobOpen mailbox s
  | .jobSuspend mailbox => Sys2Proof.Machine.execJobSuspend mailbox s
  | .jobResume mailbox => Sys2Proof.Machine.execJobResume mailbox s
  | .jobClose mailbox => Sys2Proof.Machine.execJobClose mailbox s
  | .reseed mailbox => Sys2Proof.Machine.execReseed mailbox s
  | .ringReform mailbox order => Sys2Proof.Machine.execRingReform mailbox order s
  | .queueBind mailbox => Sys2Proof.Machine.execQueueBind mailbox s
  | .counterOp mailbox => Sys2Proof.Machine.execCounterOp mailbox s
  | .counterWait mailbox => Sys2Proof.Machine.execCounterWait mailbox s
  | .rangeSet mailbox => Sys2Proof.Machine.execRangeSet mailbox s
  | .groupWrite mailbox => Sys2Proof.Machine.execGroupWrite mailbox s
  | .reflectAdd mailbox => Sys2Proof.Machine.execReflectAdd mailbox s
  | .reflectRemove mailbox => Sys2Proof.Machine.execReflectRemove mailbox s
  | .regRead mailbox => Sys2Proof.Machine.execRegRead mailbox s
  | .regWrite mailbox => Sys2Proof.Machine.execRegWrite mailbox s
  | .eventConsumedWrite count => Sys2Proof.Machine.execEventConsumedWrite count s
  | .qSelWrite die w value => Sys2Proof.Machine.execQSelWrite die w value s
  | .qViewWrite die w word value => Sys2Proof.Machine.execQViewWrite die w word value s
  | .tsCreate core thread prio home => Sys2Proof.Machine.execTsCreate core thread prio home s
  | .tsExit core thread => Sys2Proof.Machine.execTsExit core thread s
  | .tsDelay core thread arg => Sys2Proof.Machine.execTsDelay core thread arg s
  | .tsBlock core thread arg timeout => Sys2Proof.Machine.execTsBlock core thread arg timeout s
  | .tsWake core thread => Sys2Proof.Machine.execTsWake core thread s
  | .tsSuspend core thread => Sys2Proof.Machine.execTsSuspend core thread s
  | .tsResume core thread => Sys2Proof.Machine.execTsResume core thread s
  | .tsSet core thread prio home => Sys2Proof.Machine.execTsSet core thread prio home s
  | .tsYield core thread => Sys2Proof.Machine.execTsYield core thread s
  | .schedTick => Sys2Proof.Machine.execSchedTick s
  | .threadSwitch core => Sys2Proof.Machine.execThreadSwitch core s
  | .schedSyncRelease thread => Sys2Proof.Machine.execSchedSyncRelease thread s
  | .coreHung core mailboxes => Sys2Proof.Machine.execCoreHung core mailboxes s
  | .extensionFault cause => Sys2Proof.Machine.execExtensionFault cause s
  | .tsTickWrite w us => Sys2Proof.Machine.execTsTickWrite w us s
  | .irqAssert source high => Sys2Proof.Machine.execIrqAssert source high s
  | .icClaim core => Sys2Proof.Machine.execIcClaim core s
  | .icEoi core source => Sys2Proof.Machine.execIcEoi core source s
  | .stormWindowEnd => Sys2Proof.Machine.execStormWindowEnd s
  | .irqStuck source => Sys2Proof.Machine.execIrqStuck source s
  | .icSrcUnmask w source storm stuck => Sys2Proof.Machine.execIcSrcUnmask w source storm stuck s
  | .icSwset core source => Sys2Proof.Machine.execIcSwset core source s
  | .icCntClear w => Sys2Proof.Machine.execIcCntClear w s
  | .pilotLightWake entry => Sys2Proof.Machine.execPilotLightWake entry s
  | .perstAssert => Sys2Proof.Machine.execPerstAssert s
  | .perstDeassert => Sys2Proof.Machine.execPerstDeassert s
  | .functionLevelReset => Sys2Proof.Machine.execFunctionLevelReset s
  | .hostLinkTrained rate lanes => Sys2Proof.Machine.execHostLinkTrained rate lanes s
  | .d3hotEntry pmeEn => Sys2Proof.Machine.execD3hotEntry pmeEn s
  | .wakePme entry => Sys2Proof.Machine.execWakePme entry s
  | .bar0Access off write len data => Sys2Proof.Machine.execBar0Access off write len data s
  | .bar2Access off write poisoned len data => Sys2Proof.Machine.execBar2Access off write poisoned len data s
  | .hlBar2Write w value => Sys2Proof.Machine.execHlBar2Write w value s
  | .bar2Resize log => Sys2Proof.Machine.execBar2Resize log s
  | .msixUnmask vector => Sys2Proof.Machine.execMsixUnmask vector s
  | .ptmRequest => Sys2Proof.Machine.execPtmRequest s
  | .ptmResult offset => Sys2Proof.Machine.execPtmResult offset s
  | .hlCntClear w => Sys2Proof.Machine.execHlCntClear w s
  | .islandSet mailbox => Sys2Proof.Machine.execIslandSet mailbox s
  | .islandStateChange island => Sys2Proof.Machine.execIslandStateChange island s
  | .deviceState mailbox => Sys2Proof.Machine.execDeviceState mailbox s
  | .oppWrite mailbox => Sys2Proof.Machine.execOppWrite mailbox s
  | .phaseMap mailbox => Sys2Proof.Machine.execPhaseMap mailbox s
  | .powerLimit mailbox => Sys2Proof.Machine.execPowerLimit mailbox s
  | .powerRead mailbox => Sys2Proof.Machine.execPowerRead mailbox s
  | .droopDetect island => Sys2Proof.Machine.execDroopDetect island s
  | .droopHoldEnd island => Sys2Proof.Machine.execDroopHoldEnd island s
  | .rampStep island => Sys2Proof.Machine.execRampStep island s
  | .powerEstimate island counts => Sys2Proof.Machine.execPowerEstimate island counts s
  | .moduleShareUpdate => Sys2Proof.Machine.execModuleShareUpdate s
  | .islandCapUpdate island => Sys2Proof.Machine.execIslandCapUpdate island s
  | .gainTrim core other => Sys2Proof.Machine.execGainTrim core other s
  | .thermalRead island temp => Sys2Proof.Machine.execThermalRead island temp s
  | .thermalShareStep island => Sys2Proof.Machine.execThermalShareStep island s
  | .ageingMeasure island ppm => Sys2Proof.Machine.execAgeingMeasure island ppm s
  | .interlockTrip => Sys2Proof.Machine.execInterlockTrip s
  | .interlockWarning => Sys2Proof.Machine.execInterlockWarning s
  | .thermalTrip temp => Sys2Proof.Machine.execThermalTrip temp s
  | .tripRestart light hottest => Sys2Proof.Machine.execTripRestart light hottest s
  | .regulatorPhaseSpare rail => Sys2Proof.Machine.execRegulatorPhaseSpare rail s
  | .railShutdown rail feeds => Sys2Proof.Machine.execRailShutdown rail feeds s
  | .pmCntClear w => Sys2Proof.Machine.execPmCntClear w s
  | .meterTag mailbox reading => Sys2Proof.Machine.execMeterTag mailbox reading s
  | .meterRead mailbox => Sys2Proof.Machine.execMeterRead mailbox s
  | .meterAck mailbox => Sys2Proof.Machine.execMeterAck mailbox s
  | .meterIdent mailbox => Sys2Proof.Machine.execMeterIdent mailbox s
  | .meterAudit mailbox => Sys2Proof.Machine.execMeterAudit mailbox s
  | .apportionRead mailbox => Sys2Proof.Machine.execApportionRead mailbox s
  | .meterMaxLength reading => Sys2Proof.Machine.execMeterMaxLength reading s
  | .meterOutage back beyond reading => Sys2Proof.Machine.execMeterOutage back beyond reading s
  | .meterServiceCommand cmd signature reading => Sys2Proof.Machine.execMeterServiceCommand cmd signature reading s
  | .meterSelfCheck cause reading => Sys2Proof.Machine.execMeterSelfCheck cause reading s
  | .attest mailbox => Sys2Proof.Machine.execAttest mailbox s
  | .identRead mailbox => Sys2Proof.Machine.execIdentRead mailbox s
  | .fwLoad mailbox => Sys2Proof.Machine.execFwLoad mailbox s
  | .fwCommit mailbox => Sys2Proof.Machine.execFwCommit mailbox s
  | .keyEnrol mailbox => Sys2Proof.Machine.execKeyEnrol mailbox s
  | .keyRemove mailbox => Sys2Proof.Machine.execKeyRemove mailbox s
  | .extUnload mailbox => Sys2Proof.Machine.execExtUnload mailbox s
  | .reset mailbox => Sys2Proof.Machine.execReset mailbox s
  | .bootQuery mailbox => Sys2Proof.Machine.execBootQuery mailbox s
  | .warmReset => Sys2Proof.Machine.execWarmReset s
  | .jobReset => Sys2Proof.Machine.execJobReset s
  | .unitReset => Sys2Proof.Machine.execUnitReset s
  | .correctedError loc n => Sys2Proof.Machine.execCorrectedError loc n s
  | .errorCountExpiry => Sys2Proof.Machine.execErrorCountExpiry s
  | .uncorrectableError unit store addr access agent seq step dirty => Sys2Proof.Machine.execUncorrectableError unit store addr access agent seq step dirty s
  | .tileDue check => Sys2Proof.Machine.execTileDue check s
  | .laneRepair stack group => Sys2Proof.Machine.execLaneRepair stack group s
  | .dramRowRepair stack bank row => Sys2Proof.Machine.execDramRowRepair stack bank row s
  | .cacheWayDisable stack way => Sys2Proof.Machine.execCacheWayDisable stack way s
  | .syncRowRemap counter => Sys2Proof.Machine.execSyncRowRemap counter s
  | .patrolScrub stack corrected => Sys2Proof.Machine.execPatrolScrub stack corrected s
  | .clSpareWrite cluster w value => Sys2Proof.Machine.execClSpareWrite cluster w value s
  | .clSpareProg cluster w value => Sys2Proof.Machine.execClSpareProg cluster w value s
  | .errCntClear w => Sys2Proof.Machine.execErrCntClear w s
  | .capture mailbox => Sys2Proof.Machine.execCapture mailbox s
  | .captureInjection arrival => Sys2Proof.Machine.execCaptureInjection arrival s
  | .captureReady => Sys2Proof.Machine.execCaptureReady s
  | .bankMode mailbox => Sys2Proof.Machine.execBankMode mailbox s
  | .bankClear mailbox => Sys2Proof.Machine.execBankClear mailbox s
  | .cbModeWrite bank w mode => Sys2Proof.Machine.execCbModeWrite bank w mode s
  | .cbCntClear bank w => Sys2Proof.Machine.execCbCntClear bank w s
  | .mgmtFrame frame reading => Sys2Proof.Machine.execMgmtFrame frame reading s
  | .trayRestart => Sys2Proof.Machine.execTrayRestart s
  | .registerWrite w addr wide value => Sys2Proof.Machine.execRegisterWrite w addr wide value s
  | .laserLightReturn port => Sys2Proof.Machine.execLaserLightReturn port s
  | .d0Return => Sys2Proof.Machine.execD0Return s
  | .interlockLightRestored => Sys2Proof.Machine.execInterlockLightRestored s
  | .vectorResult tile op waited => Sys2Proof.Machine.execVectorResult tile op waited s
  | .hostLinkDown => Sys2Proof.Machine.execHostLinkDown s

end Sys2Proof.Machine
end

