-- ==== Sys2Proof/Safety.lean ====
section
/-! DEFINITION. What claims about runs speak of: memories in canonical form, a queue of well-formed commands, a block that goes on. -/

namespace Sys2Proof.Machine

/-- The memories of the machine are in canonical form: addresses strictly rising, nothing listed that an unlisted address reads as. -/
def MemState.wf (m : MemState) : Bool :=
  Memory.wf m.dev && Memory.wf m.host && Memory.wf m.scratch && Memory.wf m.ctl

/-- The register file is in canonical form: keys strictly rising, no register listed at its reset value. -/
def State.regsWf (s : State) : Bool := Tbl.wf regDefault s.regs

/-- Every waiting command is well-formed. -/
def State.pendingWf (s : State) : Bool := s.pending.all Instr.wf

/-- The block goes on: its next step has a next state. -/
def State.goesOn (s : State) : Prop := ∃ t, step s = .next t

/-- The tile, vector and accumulator storage is in canonical form. -/
def TileState.wf (t : TileState) : Bool :=
  Tbl.wf (fun _ => (0 : Word)) t.xreg && Tbl.wf (fun _ => (0 : Half)) t.vreg && Tbl.wf (fun _ => (0 : Half)) t.acc
    && Tbl.wf (fun _ => 0) t.tags && Tbl.wf (fun _ => RowState.clear) t.rows && Tbl.wf (fun _ => Thread.reset) t.threads
    && Tbl.wf (fun _ => Tile.reset) t.tiles

/-- Sync counters are in canonical form and hold 32-bit values. -/
def SyncState.wf (y : SyncState) : Bool :=
  Tbl.wf (fun _ => Counter.reset) y.counters && y.counters.all fun (e : Nat × Counter) => decide (e.2.value < 2 ^ 32)

/-! ### What one command changes -/

/-- Everything but the tiles' storage and the registers is as before; a capture in progress may go on (R590). -/
def State.sameBeyond (s t : State) : Prop :=
  t.pending = s.pending ∧ t.time = s.time ∧ t.fresh = s.fresh ∧ t.mem = s.mem ∧ t.sync = s.sync ∧ t.queues = s.queues
    ∧ t.job = s.job ∧ t.smp = s.smp ∧ t.gs = s.gs ∧ t.emb = s.emb ∧ t.ms = s.ms ∧ t.ex = s.ex ∧ t.lw = s.lw ∧ t.err = s.err
    ∧ t.ev = s.ev ∧ t.kci = s.kci ∧ t.sched = s.sched ∧ t.pwr = s.pwr ∧ t.hl = s.hl ∧ t.mtr = s.mtr ∧ t.rot = s.rot
    ∧ (s.snap.state ≠ 2 → t.snap = s.snap)

/-- Every register instance is as before but those of the registers a test names. -/
def State.sameRegs (s t : State) (but : Blk → Reg → Bool) : Prop :=
  ∀ (b : Blk) (r : Reg) (i : Nat), b.i < 2 ^ 20 → i < 8192 → but b r = false → t.reg b r i = s.reg b r i

/-- Nothing is named. -/
def noReg : Blk → Reg → Bool := fun _ _ => false

/-- One register of one block. -/
def oneReg (c : Blk) (q : Reg) : Blk → Reg → Bool := fun b r => decide (b = c) && decide (r = q)

/-- The counters that an issue counts (R166, R582): SEQ_ISSUED, and the work items of the tile's counter bank, whose shadow a capture in
progress may take ahead of them (R590). -/
def issueCounters (tile : Nat) : Blk → Reg → Bool := fun b r =>
  oneReg (bTile tile) .SEQ_ISSUED b r || oneReg (bBank tile) .CB_CNT b r || oneReg (bBank tile) .CB_SHADOW b r || oneReg (bBank tile) .CB_STATUS b r

/-- A context can issue an instruction now (R141), the instruction is valid (R150) and its guard holds (R149). -/
def State.canRun (s : State) (i : Instr) (h : Hdr) : Prop :=
  s.canIssue h.tile h.ctx (instrRegs i) = true ∧ i.reserved = false ∧ s.guard h = true

/-- What no instruction changes as it issues: everything beyond the tiles, the registers but the counters of an issue, vector registers,
weight planes and pieces, accumulator memory, bank drains, generators, other tiles, the other contexts of the tile. -/
def State.issueFrame (s t : State) (h : Hdr) : Prop :=
  s.sameBeyond t ∧ s.sameRegs t (issueCounters h.tile) ∧ t.tile.vreg = s.tile.vreg ∧ t.tile.planes = s.tile.planes
    ∧ t.tile.pieces = s.tile.pieces ∧ t.tile.acc = s.tile.acc ∧ t.tile.rows = s.tile.rows ∧ t.tile.tags = s.tile.tags
    ∧ t.tile.drains = s.tile.drains ∧ t.tile.gens = s.tile.gens
    ∧ (∀ u : Nat, u ≠ h.tile.val → t.tileOf u = s.tileOf u)
    ∧ (∀ u c : Nat, c < 128 → ¬ (u = h.tile.val ∧ c = h.ctx.val) → t.thr u c = s.thr u c)

/-- The scalar registers but one of one context are as before. -/
def State.sameScalars (s t : State) (h : Hdr) (rd : Nat) : Prop :=
  ∀ u c r : Nat, c < 128 → r < 32 → ¬ (u = h.tile.val ∧ c = h.ctx.val ∧ r = rd) → t.x u c r = s.x u c r

/-- The instruction completes as it issues and writes one scalar register with a value read off the state it found; x0 stays zero
(R136); the program counter moves on by 8; the rest stays. -/
def WritesScalar (i : Instr) (h : Hdr) (rd : Nat) (f : State → Word) : Prop :=
  ∀ s : State, s.canRun i h → ∃ t, exec i s = .next t
    ∧ t.x h.tile h.ctx rd = (if rd = 0 then 0 else f s) ∧ s.sameScalars t h rd
    ∧ t.thr h.tile h.ctx = { s.thr h.tile h.ctx with pc := (s.thr h.tile h.ctx).pc + 8, passed := 0 }
    ∧ (t.tileOf h.tile).ops = (s.tileOf h.tile).ops ∧ s.issueFrame t h

/-- The instruction completes as it issues and writes one predicate; p0 stays 1 (R136). -/
def WritesPredicate (i : Instr) (h : Hdr) (pd : Nat) (f : State → Bool) : Prop :=
  ∀ s : State, s.canRun i h → ∃ t, exec i s = .next t
    ∧ (∀ k : Nat, k < 8 → t.p h.tile h.ctx k = if k = pd ∧ pd ≠ 0 then f s else s.p h.tile h.ctx k)
    ∧ t.tile.xreg = s.tile.xreg
    ∧ t.thr h.tile h.ctx = { s.thr h.tile h.ctx with pc := (s.thr h.tile h.ctx).pc + 8, passed := 0, pred := (t.thr h.tile h.ctx).pred }
    ∧ (t.tileOf h.tile).ops = (s.tileOf h.tile).ops ∧ s.issueFrame t h

/-- The instruction issues and moves the program counter; scalar registers and predicates stay. -/
def MovesPc (i : Instr) (h : Hdr) (pc : State → BitVec 52) : Prop :=
  ∀ s : State, s.canRun i h → ∃ t, exec i s = .next t
    ∧ t.thr h.tile h.ctx = { s.thr h.tile h.ctx with pc := pc s, passed := 0 }
    ∧ t.tile.xreg = s.tile.xreg ∧ (t.tileOf h.tile).ops = (s.tileOf h.tile).ops ∧ s.issueFrame t h

/-- The instruction issues and is outstanding: it stands last in its tile's list with the registers it has yet to write and the work its
unit has to do (R140, R141); nothing else has changed but the program counter. -/
def GoesOutstanding (s : State) (i : Instr) (h : Hdr) (dst : List Nat) (k : OpKind) : Prop :=
  ∃ t, exec i s = .next t
    ∧ (t.tileOf h.tile).ops = (s.tileOf h.tile).ops ++ [⟨(s.tileOf h.tile).nextId, h.ctx, dst.filter fun r => r != 0 && r != 32, k, false, 0⟩]
    ∧ (t.tileOf h.tile).nextId = (s.tileOf h.tile).nextId + 1
    ∧ t.thr h.tile h.ctx = { s.thr h.tile h.ctx with pc := (s.thr h.tile h.ctx).pc + 8, passed := 0 }
    ∧ t.tile.xreg = s.tile.xreg ∧ s.issueFrame t h

/-- An instruction that reads vector registers issues and is outstanding, as `GoesOutstanding` says where no word of a store fails its check;
where some do, what it reads of them is recorded as well (R578), and the tiles, device memory and scratch are as without them. -/
def GoesOutstandingReading (s : State) (i : Instr) (h : Hdr) (dst : List Nat) (k : OpKind) : Prop :=
  (s.mem.badWords = [] → GoesOutstanding s i h dst k)
    ∧ ∃ t, exec i s = .next t
      ∧ (t.tileOf h.tile).ops = (s.tileOf h.tile).ops ++ [⟨(s.tileOf h.tile).nextId, h.ctx, dst.filter fun r => r != 0 && r != 32, k, false, 0⟩]
      ∧ t.thr h.tile h.ctx = { s.thr h.tile h.ctx with pc := (s.thr h.tile h.ctx).pc + 8, passed := 0 }
      ∧ t.tile = { s.tile with tiles := t.tile.tiles, threads := t.tile.threads } ∧ t.mem = { s.mem with host := t.mem.host }
      ∧ t.sync = s.sync ∧ t.queues = s.queues ∧ t.job = s.job ∧ t.pending = s.pending ∧ t.time = s.time

/-- The magnitude that the lower 31 bits of an FP32 number stand for, in units of 2^-149; those of infinity stand for 2^128. -/
def mag32 (c : Nat) : Nat := if c < 2 ^ 23 then c else (2 ^ 23 + c % 2 ^ 23) * 2 ^ (c / 2 ^ 23 - 1)

/-- One unit in the last place of such a magnitude. -/
def ulp32 (c : Nat) : Nat := mag32 (c + 1) - mag32 c

/-- The instruction completes as it issues, with no effect: nothing is outstanding that was not before, the program counter moves on by 8,
the rest stays. -/
def CompletesAtOnce (s : State) (i : Instr) (h : Hdr) : Prop :=
  ∃ t, exec i s = .next t ∧ (t.tileOf h.tile).ops = (s.tileOf h.tile).ops
    ∧ t.thr h.tile h.ctx = { s.thr h.tile h.ctx with pc := (s.thr h.tile h.ctx).pc + 8, passed := 0 }
    ∧ t.tile.xreg = s.tile.xreg ∧ s.issueFrame t h

/-- Host memory stays as an instruction completes, but for the event records of a thread fault that waited for it (R164, R487) and of
words of scratch and other stores that fail their check (R578). -/
def State.keepsHost (s t : State) (tile : Nat) (o : TileOp) : Prop :=
  (s.thr tile o.ctx).run ≠ .faulting → s.mem.badScratch = [] → s.mem.badWords = [] → t.mem.host = s.mem.host

/-- All memory stays as an instruction completes, host memory but for the event records of a thread fault that waited for it and of words
that fail their check; words of the accumulator or the vector registers that it writes whole pass their check from then on (R578). -/
def State.keepsMem (s t : State) (tile : Nat) (o : TileOp) : Prop :=
  t.mem = { s.mem with host := t.mem.host, badWords := t.mem.badWords } ∧ (∀ w ∈ t.mem.badWords, w ∈ s.mem.badWords)
    ∧ s.keepsHost t tile o

/-- The thread takes a fault with a code at the instruction, which has no other effect: FAULTED where nothing of its is outstanding,
else bound to be once that has completed (R164). -/
def TakesThreadFault (s : State) (i : Instr) (h : Hdr) (code : Nat) : Prop :=
  ∃ t, exec i s = .next t ∧ (t.thr h.tile h.ctx).run = (if s.opsOf h.tile h.ctx = [] then .faulted else .faulting) ∧ (t.thr h.tile h.ctx).fault = code
    ∧ (t.thr h.tile h.ctx).pc = (s.thr h.tile h.ctx).pc ∧ t.tile.xreg = s.tile.xreg ∧ t.tile.vreg = s.tile.vreg
    ∧ t.tile.acc = s.tile.acc ∧ t.mem.dev = s.mem.dev ∧ t.mem.scratch = s.mem.scratch

/-- The command sets a one-bit control field to a value; every other field of the register, every other register and everything beyond
the registers stays. -/
def SetsFlag (s : State) (c : Instr) (b : Blk) (f : Fld) (v : Bool) : Prop :=
  ∃ t, exec c s = .next t ∧ t.flag b f = v
    ∧ (∀ g : Fld, g.reg = f.reg → g.lo + g.w ≤ f.lo ∨ f.lo + f.w ≤ g.lo → t.getF b g = s.getF b g)
    ∧ s.sameRegs t (oneReg b f.reg) ∧ t = { s with regs := t.regs }

/-- The command clears the counters a test names, wherever they stand, and leaves every other register and everything beyond the
registers. -/
def ClearsCounters (s : State) (c : Instr) (hit : Blk → Reg → Nat → Bool) : Prop :=
  ∃ t, exec c s = .next t
    ∧ (∀ (b : Blk) (r : Reg) (i : Nat), b.i < 2 ^ 20 → i < 8192 → t.reg b r i = if hit b r i then 0 else s.reg b r i)
    ∧ t = { s with regs := t.regs }

/-- A register write that any master may make to a block: it has its effect while the block's island is not in HOLD, where it waits and
changes nothing (R521). -/
def ReachesBlock (c : Instr) (b : Blk) (P : State → Prop) : Prop :=
  ∀ s : State, (s.blkHeld b = false → P s) ∧ (s.blkHeld b = true → exec c s = .next s)

/-- A register write that the control complex alone may make: firmware's, or an extension's while one is loaded (R480, R491), has its
effect; another writer's changes nothing. -/
def ControlWrites (c : Writer → Instr) (P : Writer → State → Prop) : Prop :=
  ∀ (w : Writer) (s : State), (s.controls w = true → P w s) ∧ (s.controls w = false → exec (c w) s = .next s)

/-- Firmware takes a mailbox's command: it stands first among those accepted, the complex runs with standalone ready, no job-state
command is in progress, and the job is in one of the command's states (R467, R470, R556). -/
def State.takes (s : State) (m op : Nat) (phases : List Nat) : Prop :=
  s.kciTakes m op = true ∧ 6 ≤ s.stage ∧ s.job.busy = none ∧ s.job.phase ∈ phases

/-- A mailbox's answer stands, to be written by its response (R466). -/
def State.answered (s : State) (m status : Nat) (payload : List Byte) : Prop :=
  Tbl.get (fun _ => none) s.job.answers m = some (status, payload)

/-- Registers of a list, in one block and at one index. -/
def inList (c : Blk) (j : Nat) (l : List Reg) : Blk → Reg → Nat → Bool := fun b r i => decide (b = c) && decide (i = j) && l.contains r

/-- A register whose write stores its fields and does nothing more: it is no operation of its unit (`State.writeWhole`), and clears, starts or
changes nothing else (`State.writeClears`, `State.writeFirst`, `State.writeActs`). -/
def storesOnly (r : Reg) : Bool :=
  !([Reg.ARR_REMAP, .ARR_FUSE_PROG, .THR_STATE, .BANK_OWN, .MEM_MAP, .SC_PIN, .UPD_GT_DATA, .UPD_VERDICT, .SYNC_SEL, .SYNC_CMD, .Q_SEL, .Q_VIEW,
    .TS_CMD, .IC_EOI, .IC_SWSET, .PL_WAKE, .HL_BAR2, .PM_OPP, .PM_PHASEMAP, .CL_SPARE, .CL_SPARE_PROG, .FMT_CTRL, .ARR_CTRL, .AM_CTRL, .SEQ_CTRL,
    .BANK_CTRL, .PRU_CTRL, .SPK_CTRL, .SMP_CTRL, .GS_CTRL, .EMB_CTRL, .SC_CTRL, .DMA_CTRL, .UPD_CTRL, .SYNC_CTRL, .FR_CTRL, .RE_CTRL, .LW_CTRL,
    .IC_CTRL, .HL_CTRL, .PM_CTRL, .ERR_CTRL, .CB_CTRL, .ISL_AGE, .IC_SRC].contains r)

/-- A control register whose write stores its fields and, where CNT_CLEAR or CLEAR is set, clears counters of other registers. -/
def clearsOnly (r : Reg) : Bool :=
  [Reg.FMT_CTRL, .ARR_CTRL, .BANK_CTRL, .PRU_CTRL, .SPK_CTRL, .EMB_CTRL, .DMA_CTRL, .UPD_CTRL, .RE_CTRL, .IC_CTRL, .HL_CTRL, .PM_CTRL,
    .ERR_CTRL].contains r

/-- A writer is admitted to a register instance (R9, R314, R491). -/
def State.mayWrite (s : State) (w : Writer) (r : Reg) (i : Nat) : Bool :=
  admits w r.row.wr && !(w == .ext && !(s.rot.ext.isSome && extMay r i))

/-- What a write of `width` bits from bit `lo` on leaves of each bit of a register (R9, R11): a field reached takes the value written by its
access code, the nearest legal one where it is RW, its bits written 1 cleared where it is W1C; every other field, and every bit of no field,
stays. -/
def State.writtenFields (s u : State) (w : Writer) (b : Blk) (r : Reg) (i lo width v : Nat) : Prop :=
  let img := setBits (s.regView b r i) lo width (bitsOf v 0 width)
  (∀ f ∈ r.fields, f.word.getD (wordOf r i) = wordOf r i →
    let reached := f.fld.lo < lo + width ∧ lo < f.fld.lo + f.fld.w ∧ fieldAdmits w f.fld = true
    (reached → f.acc = .RW → u.getF b f.fld i = clampTo f.least f.most (bitsOf img f.fld.lo f.fld.w))
    ∧ (reached → f.acc = .W1C → ∀ k : Nat, k < f.fld.w → (u.getF b f.fld i).testBit k =
        ((s.getF b f.fld i).testBit k && !(bitsOf v 0 width * 2 ^ lo).testBit (f.fld.lo + k)))
    ∧ (¬ reached ∨ (f.acc ≠ .RW ∧ f.acc ≠ .W1C) → u.getF b f.fld i = s.getF b f.fld i))
  ∧ ∀ k : Nat, k < 64 → (∀ f ∈ r.fields, f.word.getD (wordOf r i) = wordOf r i → k < f.fld.lo ∨ f.fld.lo + f.fld.w ≤ k) →
      (u.reg b r i).toNat.testBit k = (s.reg b r i).toNat.testBit k

/-- The meter can form a record as it takes a reading (R546, R548, R550): no cause of the same 1 µs tick has just closed an interval, fewer
than 4,096 records wait, and the meter is not in FAULT. -/
def State.formsRecord (s : State) (r : MeterReading) : Prop :=
  s.mtr.closed ≠ some (s.meterRead r).meterTick ∧ s.meterFull = false ∧ s.meterFault = false

/-- The open interval has closed into the next record, under the reading, with flags, and the next interval runs under a tag (R546 to R548). -/
def State.closedInterval (s u : State) (r : MeterReading) (flags tag : Nat) : Prop :=
  (∃ c, u.mtr.recs = s.mtr.recs ++ [c] ∧ c.number = s.mtr_ Fld.MTR_RECORDS_LAST + 1 ∧ c.span.tag = s.mtr.cur.tag
    ∧ c.span.tStart = s.mtr.cur.tStart ∧ c.span.tEnd = r.now.toNat ∧ c.span.energy = s.mtr.cur.energy + r.energy.toNat
    ∧ c.span.flags = ((s.meterRead r).mtr.cur.flags ||| flags) ||| s.mtr.next)
  ∧ u.mtr_ Fld.MTR_RECORDS_LAST = (s.mtr_ Fld.MTR_RECORDS_LAST + 1) % 2 ^ 32
  ∧ u.mtr_ Fld.MTR_ENERGY_TOTAL = (s.mtr_ Fld.MTR_ENERGY_TOTAL + r.energy.toNat) % 2 ^ 64
  ∧ u.mtr_ Fld.MTR_TAG_TAG = tag % 2 ^ 64 ∧ u.mtr.cur.tag = tag ∧ u.mtr.cur.tStart = r.now.toNat ∧ u.mtr.cur.energy = 0

/-- The state is in canonical form: memories, register file, sync counters, tile storage. -/
def State.canonical (s : State) : Prop :=
  s.mem.wf = true ∧ s.regsWf = true ∧ s.sync.wf = true ∧ s.tile.wf = true

end Sys2Proof.Machine

/-- The ten rows of the Drudo meter (R546 to R551). -/
def Sys2Proof.Instr.isMeter : Sys2Proof.Instr → Bool
  | .meterTag _ _ | .meterRead _ | .meterAck _ | .meterIdent _ | .meterAudit _ | .apportionRead _ | .meterMaxLength _
  | .meterOutage _ _ _ | .meterServiceCommand _ _ _ | .meterSelfCheck _ _ => true
  | _ => false

/-- The rows by which the rails drop or come back (R540, R600). -/
def Sys2Proof.Instr.movesRails : Sys2Proof.Instr → Bool
  | .inputLoss | .inputOvervoltage | .inputRestored | .interlockTrip | .thermalTrip _ | .tripRestart _ _ => true
  | _ => false
end

