-- ==== Sys2Proof/Certificates/Slice0/Obligations.lean ====
section
/-! DEFINITION. The statements for the provers: what the spec's rules say the block does, command by command and over all commands. -/

open Sys2Proof Sys2Proof.Machine

/-- For every command c and state s, the step of s with c in front of its queue is exec of c on s with the queue's rest; on an
empty queue the block is the state after one nanosecond (the model's choice, log entry 2). -/
def Obligations.StepRunsFrontCommand : Prop :=
  (∀ (c : Instr) (s : State) (rest : List Instr), step { s with pending := c :: rest } = exec c { s with pending := rest })
    ∧ ∀ s : State, s.pending = [] → step s = .next s.tick

/-- For every command and every state exec answers a next state: nothing that the spec calls a fault, an error or a rejection
stops the block, it is an effect on the state. So every step of every state has a next state. -/
def Obligations.EveryCommandHasANextState : Prop :=
  (∀ (c : Instr) (s : State), ∃ t, exec c s = .next t) ∧ ∀ s : State, s.goesOn

/-- For every tile instruction i of any tile and context, with every operand at every value its fields hold, the word it encodes
to has 64 bits and decodes to i in that tile and context. Commands that are no tile instruction encode to no word. -/
def Obligations.TileInstructionsDecodeAsEncoded : Prop :=
  (∀ (i : Instr) (h : Hdr), i.hdr? = some h → ∃ w, encodeTile i = some w ∧ w < 2 ^ 64 ∧ decodeTile h.tile h.ctx w = some i)
    ∧ ∀ i : Instr, i.hdr? = none → encodeTile i = none

/-- For every word of 64 bits, tile and context: where the word decodes to an instruction, that instruction is of the tile and
context and encodes to the word. No bit of a word is dropped, so two different words never decode to one instruction. -/
def Obligations.DecodedWordsEncodeBack : Prop :=
  ∀ (t : TileId) (c : CtxId) (w : Nat) (i : Instr), w < 2 ^ 64 → decodeTile t c w = some i →
    encodeTile i = some w ∧ ∃ h : Hdr, i.hdr? = some h ∧ h.tile = t ∧ h.ctx = c

/-- Issued by a context that can issue it, valid and with its guard true, each of these instructions has a next state in which
rd holds the result of the control-class table modulo 2^64 (x0 stays zero), the program counter has moved on by 8, and every
other scalar register, the predicates, vector registers, accumulators, scratch and device memory, other contexts and tiles and
every register but the counters of an issue are unchanged. -/
def Obligations.ScalarInstructionResults : Prop :=
  ∀ (h : Hdr) (o : CtlOps),
    let a (s : State) : Word := s.x h.tile h.ctx o.rs1.toNat
    let b (s : State) : Word := s.x h.tile h.ctx o.rs2.toNat
    let n : Nat := o.imm.toNat % 64
    WritesScalar (.add h o) h o.rd.toNat (fun s => a s + b s)
    ∧ WritesScalar (.addi h o) h o.rd.toNat (fun s => a s + o.imm.signExtend 64)
    ∧ WritesScalar (.sub h o) h o.rd.toNat (fun s => a s - b s)
    ∧ WritesScalar (.mul h o) h o.rd.toNat (fun s => BitVec.ofNat 64 ((a s).toNat * (b s).toNat))
    ∧ WritesScalar (.and h o) h o.rd.toNat (fun s => a s &&& b s)
    ∧ WritesScalar (.or h o) h o.rd.toNat (fun s => a s ||| b s)
    ∧ WritesScalar (.xor h o) h o.rd.toNat (fun s => a s ^^^ b s)
    ∧ WritesScalar (.shl h o) h o.rd.toNat (fun s => a s <<< ((b s).toNat % 64))
    ∧ WritesScalar (.shr h o) h o.rd.toNat (fun s => a s >>> ((b s).toNat % 64))
    ∧ WritesScalar (.sra h o) h o.rd.toNat (fun s => (a s).sshiftRight ((b s).toNat % 64))
    ∧ WritesScalar (.shli h o) h o.rd.toNat (fun s => a s <<< n)
    ∧ WritesScalar (.shri h o) h o.rd.toNat (fun s => a s >>> n)
    ∧ WritesScalar (.srai h o) h o.rd.toNat (fun s => (a s).sshiftRight n)
    ∧ WritesScalar (.movi h o) h o.rd.toNat (fun _ => o.imm.signExtend 64)
    ∧ WritesScalar (.movhi h o) h o.rd.toNat
        (fun s => BitVec.ofNat 64 (o.imm.toNat * 2 ^ 32 + (s.x h.tile h.ctx o.rd.toNat).toNat % 2 ^ 32))
    ∧ WritesScalar (.rdtime h o) h o.rd.toNat (fun s => BitVec.ofNat 64 s.time)
    ∧ WritesScalar (.rdid h o) h o.rd.toNat (fun _ => BitVec.ofNat 64 (h.tile.val * 2 ^ 8 + h.ctx.val))

/-- Issued by a context that can issue it, valid and with its guard true, CMP writes pd with the comparison of rs1 and rs2 that
imm[2:0] selects (EQ, NE, LT, GE signed, LTU, GEU), CMPI with that of rs1 and sext(imm[31:3]), PLOG with AND, OR, XOR or AND-NOT
of two predicates; p0 stays 1; every other predicate, every scalar register and the rest of the machine but the program counter
and the counters of an issue is unchanged. -/
def Obligations.PredicateInstructionResults : Prop :=
  let holds (k : Nat) (a b : Word) : Bool :=
    if k = 0 then decide (a = b) else if k = 1 then decide (a ≠ b) else if k = 2 then decide (a.toInt < b.toInt)
    else if k = 3 then decide (b.toInt ≤ a.toInt) else if k = 4 then decide (a.toNat < b.toNat) else decide (b.toNat ≤ a.toNat)
  ∀ (h : Hdr) (o : CtlOps),
    let a (s : State) : Word := s.x h.tile h.ctx o.rs1.toNat
    WritesPredicate (.cmp h o) h o.pd.toNat (fun s => holds (o.imm.toNat % 8) (a s) (s.x h.tile h.ctx o.rs2.toNat))
    ∧ WritesPredicate (.cmpi h o) h o.pd.toNat
        (fun s => holds (o.imm.toNat % 8) (a s) (BitVec.ofInt 64 (o.imm.toInt / 8)))
    ∧ WritesPredicate (.plog h o) h o.pd.toNat (fun s =>
        let u := s.p h.tile h.ctx (o.rs1.toNat % 8)
        let v := s.p h.tile h.ctx (o.rs2.toNat % 8)
        if o.imm.toNat % 4 = 0 then u && v else if o.imm.toNat % 4 = 1 then u || v
        else if o.imm.toNat % 4 = 2 then xor u v else u && !v)

/-- Issued by a context that can issue it, valid and with its guard true: NOP moves the program counter on by 8; BR to PC + 8 ×
sext(imm); JR to rs1 where its bits [2:0] are zero, and otherwise the thread faults with code 9; CALL writes PC + 8 to rd and
moves to PC + 8 × sext(imm); FENCE moves it on by 8, and the context waits with cause 8 exactly where instructions of the thread are
outstanding. Nothing else of the thread changes but its count of slots passed over, which returns to zero, and nothing beyond the
thread but CALL's rd and the counters of an issue. -/
def Obligations.BranchesMoveTheProgramCounter : Prop :=
  ∀ (h : Hdr) (o : CtlOps),
    let pc (s : State) : BitVec 52 := (s.thr h.tile h.ctx).pc
    MovesPc (.nop h o) h (fun s => pc s + 8)
    ∧ MovesPc (.br h o) h (fun s => pc s + 8 * o.imm.signExtend 52)
    ∧ (∀ s : State, s.canRun (.jr h o) h → (s.x h.tile h.ctx o.rs1.toNat).toNat % 8 = 0 → ∃ t, exec (.jr h o) s = .next t
        ∧ t.thr h.tile h.ctx = { s.thr h.tile h.ctx with pc := (s.x h.tile h.ctx o.rs1.toNat).truncate 52, passed := 0 }
        ∧ t.tile.xreg = s.tile.xreg ∧ (t.tileOf h.tile).ops = (s.tileOf h.tile).ops ∧ s.issueFrame t h)
    ∧ (∀ s : State, s.canRun (.jr h o) h → (s.x h.tile h.ctx o.rs1.toNat).toNat % 8 ≠ 0 → TakesThreadFault s (.jr h o) h 9)
    ∧ (∀ s : State, s.canRun (.call h o) h → ∃ t, exec (.call h o) s = .next t
        ∧ t.x h.tile h.ctx o.rd.toNat = (if o.rd = 0 then 0 else BitVec.ofNat 64 (pc s + 8).toNat)
        ∧ t.thr h.tile h.ctx = { s.thr h.tile h.ctx with pc := pc s + 8 * o.imm.signExtend 52, passed := 0 }
        ∧ s.sameScalars t h o.rd.toNat ∧ (t.tileOf h.tile).ops = (s.tileOf h.tile).ops ∧ s.issueFrame t h)
    ∧ ∀ s : State, s.canRun (.fence h o) h → ∃ t, exec (.fence h o) s = .next t
        ∧ t.thr h.tile h.ctx = { s.thr h.tile h.ctx with
            pc := pc s + 8, passed := 0, hold := if s.opsOf h.tile h.ctx = [] then 0 else 8 }
        ∧ t.tile.xreg = s.tile.xreg ∧ (t.tileOf h.tile).ops = (s.tileOf h.tile).ops ∧ s.issueFrame t h

/-- Issued by a context that can issue it, valid and with its guard true: where context c is FREE and every lower one is not, rd
takes c, and c runs at PC + 8 × sext(imm) at the spawner's priority with x1 = rs1, every other scalar register zero, every
predicate clear but p0 and its pin flag clear; where no context is FREE, rd takes 0xFFFF_FFFF_FFFF_FFFF and no context changes
but the spawner. Scratch and device memory stay. -/
def Obligations.SpawnStartsTheLowestFreeContext : Prop :=
  ∀ (h : Hdr) (o : CtlOps) (s : State), s.canRun (.spawn h o) h →
    (∀ c : Nat, c < 128 → (s.thr h.tile c).run = .free → (∀ d : Nat, d < c → (s.thr h.tile d).run ≠ .free) →
      ∃ t, exec (.spawn h o) s = .next t ∧ (o.rd ≠ 0 → t.x h.tile h.ctx o.rd.toNat = BitVec.ofNat 64 c)
        ∧ (t.thr h.tile c).run = .running ∧ (t.thr h.tile c).prio = (s.thr h.tile h.ctx).prio
        ∧ (t.thr h.tile c).pc = (s.thr h.tile h.ctx).pc + 8 * o.imm.signExtend 52
        ∧ (t.thr h.tile c).pred = 1#8 ∧ (t.thr h.tile c).pin = false
        ∧ (∀ r : Nat, 0 < r → r < 32 → t.x h.tile c r = if r = 1 then s.x h.tile h.ctx o.rs1.toNat else 0)
        ∧ t.mem = s.mem)
    ∧ ((∀ c : Nat, c < 128 → (s.thr h.tile c).run ≠ .free) → ∃ t, exec (.spawn h o) s = .next t
        ∧ (o.rd ≠ 0 → t.x h.tile h.ctx o.rd.toNat = BitVec.ofNat 64 (2 ^ 64 - 1)) ∧ s.sameScalars t h o.rd.toNat
        ∧ s.issueFrame t h)

/-- Issued by a context that can issue it, valid and with its guard true, HALT puts the thread in DRAIN. THREAD_DRAIN_DONE of a
draining context with no instruction outstanding, its cluster's island ON, frees it; where the thread was launched with a completion counter that is not
abandoned and below its greatest value, that counter is 1 higher; a thread with no completion counter (one that SPAWN started
has none) signals nothing: no counter changes. -/
def Obligations.HaltDrainsAndFreesTheContext : Prop :=
  (∀ (h : Hdr) (o : CtlOps) (s : State), s.canRun (.halt h o) h → ∃ t, exec (.halt h o) s = .next t
      ∧ (t.thr h.tile h.ctx).run = .drain ∧ t.tile.xreg = s.tile.xreg ∧ t.mem = s.mem)
    ∧ (∀ (tile : TileId) (ctx : CtxId) (s : State), (s.thr tile ctx).run = .drain → s.opsOf tile ctx = [] →
        s.runs (clusterOfTile tile) = true → ∃ t, exec (.threadDrainDone tile ctx) s = .next t ∧ ((s.thr tile ctx).done = none → t.sync = s.sync)
        ∧ (t.thr tile ctx).run = .free
        ∧ ∀ k : Nat, (s.thr tile ctx).done = some k → (s.counterOf k).abandoned = false → (s.counterOf k).value < 2 ^ 32 - 1 →
            (t.counterOf k).value = (s.counterOf k).value + 1)
    ∧ ∀ (h : Hdr) (o : CtlOps) (s : State) (c : Nat), s.canRun (.spawn h o) h → c < 128 → (s.thr h.tile c).run = .free →
        (∀ d : Nat, d < c → (s.thr h.tile d).run ≠ .free) →
        ∃ t, exec (.spawn h o) s = .next t ∧ (t.thr h.tile c).done = none ∧ (t.thr h.tile c).launched = false

/-- For every tile instruction of a context that can issue it: where its word has a reserved field value or a non-zero reserved
bit, the thread faults with code 1 whatever the guard, and the instruction has no other effect; where it is valid and its guard
is false, it completes as a no-op: the program counter moves on by 8 and nothing else changes but the counters of an issue. An MMA
of an FP16 or FP32 stream or of a mirror read whose plane the last WLOAD issued for it made sparse has a reserved value too: it faults
with code 1 whatever the guard. -/
def Obligations.FalseGuardsAndReservedBits : Prop :=
  (∀ (i : Instr) (h : Hdr) (s : State), i.hdr? = some h → s.canIssue h.tile h.ctx (instrRegs i) = true → i.reserved = true →
      TakesThreadFault s i h 1)
    ∧ (∀ (h : Hdr) (o : MmaOps) (s : State), s.canIssue h.tile h.ctx (instrRegs (.mma h o)) = true →
        (s.tileOf h.tile).sparse o.plane.toNat o.mask.toNat ≠ 0 → (7 ≤ o.fmt.toNat ∨ o.mirror = 1) → TakesThreadFault s (.mma h o) h 1)
    ∧ ∀ (i : Instr) (h : Hdr) (s : State), i.hdr? = some h → s.canIssue h.tile h.ctx (instrRegs i) = true →
        i.reserved = false → s.guard h = false →
        (∀ o : MmaOps, i = .mma h o → (s.tileOf h.tile).sparse o.plane.toNat o.mask.toNat = 0 ∨ (o.fmt.toNat < 7 ∧ o.mirror = 0)) →
        ∃ t, exec i s = .next t ∧ t.thr h.tile h.ctx = { s.thr h.tile h.ctx with pc := (s.thr h.tile h.ctx).pc + 8, passed := 0 }
          ∧ t.tile.xreg = s.tile.xreg ∧ (t.tileOf h.tile).ops = (s.tileOf h.tile).ops ∧ s.issueFrame t h

/-- Issued by a context that can issue it, valid, with its guard true: with a mask of zero each of WLOAD, MMA and READOUT completes at
once with no effect; with another mask and no fault cause of R164 (accumulator index and row states, plane loaded or being
loaded, sparsity with format, mirror and grouping, register pairs, lease, scratch ranges) it is outstanding with its operands
read at issue, a READOUT to scratch and one to vector registers alike. WLOAD records its sparsity for its plane. -/
def Obligations.MatrixInstructionsGoOutstanding : Prop :=
  (∀ (h : Hdr) (o : WloadOps) (s : State), s.canRun (.wload h o) h →
      let base := (s.x h.tile h.ctx o.rs1.toNat).toNat
      let stride := (s.x h.tile h.ctx o.rs2.toNat).toNat
      accessesOk ((maskArrays o.mask.toNat).flatMap fun a => wloadReads o.fmt.toNat o.sparsity.toNat (addr64 base (a * stride))) = true →
      (o.mask ≠ 0 → GoesOutstanding s (.wload h o) h []
          (.wload o.fmt.toNat o.piece.toNat o.plane.toNat o.mask.toNat o.sparsity.toNat base stride)
        ∧ ∃ t, exec (.wload h o) s = .next t ∧ (t.tileOf h.tile).sparse o.plane.toNat o.mask.toNat = o.sparsity.toNat)
      ∧ (o.mask = 0 → CompletesAtOnce s (.wload h o) h))
    ∧ (∀ (h : Hdr) (o : WloadOps) (s : State), s.canRun (.wload h o) h → o.mask = 0 → CompletesAtOnce s (.wload h o) h)
    ∧ (∀ (h : Hdr) (o : MmaOps) (s : State), s.canRun (.mma h o) h → o.mask = 0 → CompletesAtOnce s (.mma h o) h)
    ∧ (∀ (h : Hdr) (o : ReadoutOps) (s : State), s.canRun (.readout h o) h → o.mask = 0 → CompletesAtOnce s (.readout h o) h)
    ∧ (∀ (h : Hdr) (o : MmaOps) (s : State), s.canRun (.mma h o) h → o.mask ≠ 0 →
      let base := (s.x h.tile h.ctx o.rs1.toNat).toNat
      let lay := (s.x h.tile h.ctx o.rs2.toNat).toNat
      let m := o.mMinus1.toNat + 1
      let sp := (s.tileOf h.tile).sparse o.plane.toNat o.mask.toNat
      (sp ≠ 0 → o.fmt.toNat < 7 ∧ o.mirror = 0 ∧ o.grouping ≠ 0) →
      accBound o.mode.toNat o.index.toNat m = true →
      s.rowsOk h.tile o.mode.toNat o.index.toNat m (if o.join = 1 then 1 else o.mask.toNat) = true →
      (∀ a ∈ maskArrays o.mask.toNat, s.planeValid (h.tile * 4 + a) o.plane.toNat = true ∨ s.loadPending h.tile a o.plane.toNat = true) →
      (∀ k : Nat, k < m → accessesOk (streamRanges o.fmt.toNat base lay (streamLen (o.mirror == 1) sp) k) = true) →
      GoesOutstanding s (.mma h o) h []
        (.mma o.fmt.toNat o.plane.toNat o.mask.toNat o.mode.toNat (4 * 2 ^ o.grouping.toNat) (o.pass == 1) (o.mirror == 1) (o.join == 1)
          (o.rnd == 1) o.index.toNat m base lay))
    ∧ ∀ (h : Hdr) (o : ReadoutOps) (s : State), s.canRun (.readout h o) h →
      let x (r : Nat) : Nat := (s.x h.tile h.ctx r).toNat
      let n := o.countMinus1.toNat + 1
      let cols := x o.rs2.toNat + x (o.rs2.toNat + 1) * 2 ^ 64
      let sc (v : Nat) : Half := (tensorScale (BitVec.ofNat 32 v)).1
      let vregs := (if o.mode.toNat < 3 then 2 else 4) * n
      accBound o.mode.toNat o.index.toNat n = true → s.rowsOk h.tile o.mode.toNat o.index.toNat n o.mask.toNat = true →
      o.rs1.toNat % 2 = 0 → o.rs2.toNat % 2 = 0 → o.mask ≠ 0 →
      (o.dest = 0 → accessesOk (readoutRanges o.mode.toNat n o.mask.toNat o.target.toNat (x o.rd.toNat) cols) = true →
        GoesOutstanding s (.readout h o) h []
          (.readout o.mode.toNat o.index.toNat n o.mask.toNat o.target.toNat o.cls.toNat (o.rnd == 1) (o.clear == 1) false
            (sc (x o.rs1.toNat)) (sc (x o.rs1.toNat / 2 ^ 32)) (sc (x (o.rs1.toNat + 1))) cols (x o.rd.toNat)))
      ∧ (o.dest = 1 → o.rd.toNat + vregs ≤ 16 → o.target.toNat = 8 → s.holdsLease h.tile h.ctx = true →
        o.rd.toNat < 16 →
        GoesOutstanding s (.readout h o) h (upFrom (40 + o.rd.toNat) vregs)
          (.readout o.mode.toNat o.index.toNat n o.mask.toNat o.target.toNat o.cls.toNat (o.rnd == 1) (o.clear == 1) true
            (sc (x o.rs1.toNat)) (sc (x o.rs1.toNat / 2 ^ 32)) (sc (x (o.rs1.toNat + 1))) cols o.rd.toNat))

/-- When a started weight load ends, each array of its mask holds a plane with the load's format, sparsity and piece whose
elements are those that stood in scratch, the plane is valid and no longer loading, the instruction is no longer outstanding,
and scratch, device memory, accumulators and scalar registers are unchanged. An outstanding weight load whose planes are free,
with no hold on its arrays, its thread's earlier writes of its bytes done and its banks owned by the feeder, starts and its
planes are loading. An outstanding multiply that is
ready starts and each array of its mask shows its direction. An outstanding readout with no pending accumulation to its rows
starts. Memories, accumulators and scalar registers stay. -/
def Obligations.WeightLoadsAndMatrixWorkStartAndComplete : Prop :=
  (∀ (tile : TileId) (op fmt piece plane mask sp base stride wo wp : Nat) (s : State) (o : TileOp), s.op? tile op = some o →
      o.kind = .wload fmt piece plane mask sp base stride → o.started = true → plane < 2 → fmt ≤ 8 →
      ∃ t, exec (.wloadDone tile op wo wp) s = .next t ∧ t.op? tile op = none
        ∧ (∀ a ∈ maskArrays mask, t.planeValid (tile * 4 + a) plane = true
          ∧ (t.plane (tile * 4 + a) plane).fmt = fmt ∧ (t.plane (tile * 4 + a) plane).sparsity = sp
          ∧ (t.plane (tile * 4 + a) plane).piece = piece ∧ (t.plane (tile * 4 + a) plane).loading = false
          ∧ (t.plane (tile * 4 + a) plane).elems = (upFrom 0 32).flatMap fun n =>
              unpackBytes (fmtBits fmt) 32
                ((s.scratchBytes tile (addr64 base (a * stride) + n * colBytes fmt sp) (colBytes fmt sp)).take (4 * fmtBits fmt)))
        ∧ s.keepsMem t tile o ∧ t.tile.acc = s.tile.acc ∧ t.tile.xreg = s.tile.xreg)
    ∧ ((∀ (tile : TileId) (op fmt piece plane mask sp base stride : Nat) (s : State) (o : TileOp), s.op? tile op = some o →
        o.kind = .wload fmt piece plane mask sp base stride → o.started = false → s.planeFree tile o plane mask = true →
        s.loadOpen tile mask = true → s.scratchTurn tile o (State.wloadAll fmt sp mask base stride) = true →
        s.rangesServe tile 1 o.ctx (.op op) (State.wloadAll fmt sp mask base stride) = true →
        ∃ t, exec (.wloadStart tile op) s = .next t ∧ t.op? tile op = some { o with started := true }
          ∧ (∀ a ∈ maskArrays mask, (t.plane (tile * 4 + a) plane).loading = true)
          ∧ t.mem = s.mem ∧ t.tile.acc = s.tile.acc ∧ t.tile.xreg = s.tile.xreg ∧ t.regs = s.regs)
      ∧ (∀ (tile : TileId) (op fmt plane mask mode g : Nat) (reduced mirror join stoch : Bool) (index m base lay : Nat) (s : State)
          (o : TileOp), s.op? tile op = some o →
          o.kind = .mma fmt plane mask mode g reduced mirror join stoch index m base lay → o.started = false →
          s.mmaReady tile o fmt plane mask mirror = true → s.entryOpen tile mask = true →
          ∃ t, exec (.mmaStreamStart tile op) s = .next t ∧ t.op? tile op = some { o with started := true }
            ∧ (∀ a ∈ maskArrays mask, t.flag (bArray (tile * 4 + a)) Fld.ARR_STATUS_MIRROR = mirror)
            ∧ t.mem = s.mem ∧ t.tile.acc = s.tile.acc ∧ t.tile.xreg = s.tile.xreg ∧ t.tile.planes = s.tile.planes)
      ∧ ∀ (tile : TileId) (op : Nat) (s : State) (o : TileOp), s.op? tile op = some o → isReadout o.kind = true →
          s.accReady tile o = true →
          ∃ t, exec (.readoutStart tile op) s = .next t ∧ t.op? tile op = some { o with started := true }
            ∧ t.mem = s.mem ∧ t.regs = s.regs ∧ t.tile.acc = s.tile.acc ∧ t.tile.xreg = s.tile.xreg ∧ t.tile.rows = s.tile.rows)

/-- A stream vector of a started multiply, with no hold on its arrays or its element entered before the hold, its turn at the rows
and at its bytes come and its banks served, goes through: the multiply has one result group more, or is no longer outstanding where it was the last; every accumulator word of
another tile, or of a row that is not of the entry index + k of this vector k, is unchanged, and so are scratch, device memory,
scalar and vector registers. When a started readout whose turn at its bytes has come ends, it is no longer outstanding; the words in accumulator memory stay as
they are; a readout to vector registers leaves all of scratch, and one to scratch leaves every vector register and every scratch
byte outside the ranges of its destination, columns and arrays; device memory and scalar registers stay, and so does host memory
but for the event record of a thread fault that waited. -/
def Obligations.ResultGroupsAndReadoutsStayInTheirRanges : Prop :=
  (∀ (tile : TileId) (op fmt plane mask mode g : Nat) (reduced mirror join stoch : Bool) (index m base lay wo wp : Nat)
      (bt : ArrBeats) (s : State) (o : TileOp), s.op? tile op = some o →
      o.kind = .mma fmt plane mask mode g reduced mirror join stoch index m base lay → o.started = true → mode ≤ 2 →
      (entered o = true ∨ s.entryOpen tile mask = true) → s.accTurn tile o = true →
      (let ranges := streamRanges fmt base lay
        (((maskArrays mask).map fun a => streamLen mirror (s.plane (tile * 4 + a) plane).sparsity).foldl max 32) (o.progress % m)
       s.scratchTurn tile o ranges = true ∧ s.rangesServe tile 1 o.ctx (.op op) ranges = true) →
      accBound mode (index + o.progress % m) 1 = true →
      ∃ t, exec (.resultGroupWrite tile op bt wo wp) s = .next t
        ∧ (let total := (passSet (fmtPieces fmt) (s.weightPieces tile mask plane) reduced).length * m
           t.op? tile op = if o.progress + 1 < total then some { o with progress := o.progress + 1 } else none)
        ∧ (∀ u row col : Nat, row < 384 → col < 128 → (u ≠ tile.val ∨ row ∉ accRows mode (index + o.progress % m)) →
            t.accWord u row col = s.accWord u row col)
        ∧ s.keepsMem t tile o ∧ t.tile.xreg = s.tile.xreg ∧ t.tile.vreg = s.tile.vreg)
    ∧ (∀ (tile : TileId) (op mode index count mask target cls : Nat) (stoch clear toVec : Bool) (ts tw td : Half) (cols dest wo wp : Nat)
      (s : State) (o : TileOp), s.op? tile op = some o →
      o.kind = .readout mode index count mask target cls stoch clear toVec ts tw td cols dest → o.started = true → target ≤ 8 →
      (toVec = false → rangesOk (readoutRanges mode count mask target dest cols) = true
        ∧ s.scratchTurn tile o (readoutRanges mode count mask target dest cols) = true
        ∧ s.rangesServe tile 1 o.ctx (.op op) (readoutRanges mode count mask target dest cols) = true) →
      ∃ t, exec (.readoutDone tile op wo wp) s = .next t ∧ t.op? tile op = none ∧ t.tile.acc = s.tile.acc
        ∧ t.tile.xreg = s.tile.xreg ∧ t.mem.dev = s.mem.dev ∧ s.keepsHost t tile o
        ∧ (toVec = true → t.mem.scratch = s.mem.scratch)
        ∧ (toVec = false → t.tile.vreg = s.tile.vreg ∧ ∀ u a : Nat, a < 0x40000 →
            (u ≠ tile.val ∨ ∀ r ∈ readoutRanges mode count mask target dest cols, a < r.1 ∨ r.1 + r.2 ≤ a) →
            Memory.read t.mem.scratch (State.scratchKey u a) = Memory.read s.mem.scratch (State.scratchKey u a)))

/-- Issued by the thread that holds the lease, valid and with its guard true, VADD, VSUB, VMUL, VFMA, VMAX, VMIN, VRSQRT, VRCP,
VEXP2, VLOG2, VBCAST and VIDX are outstanding with the 64 lanes for vd, VSUM and VMAXR with the value for the register that rs2
names, formed lane by lane from the lanes read at issue. Issued by a thread that does not hold the lease each of them faults
with code 6. VRCP of a finite non-zero lane and VRSQRT of a positive one lie within 1 ulp of the exact value, VRCP being an infinity
where that value is 2^128 or more; VEXP2 of an integer from -149 to 127 and VLOG2 of a power of two lie within 2 ulp; the special
inputs give the results that R157 lists. (The bounds of VEXP2 and VLOG2 elsewhere are not stated: which number within them a lane
delivers is open, log entry 13, and the exact value is a transcendental one.) -/
def Obligations.VectorInstructionsFormTheirResultAtIssue : Prop :=
  let lanes (i : Instr) (h : Hdr) (vd : BitVec 4) (f : State → List Half) : Prop := ∀ s : State, s.canRun i h →
    (s.holdsLease h.tile h.ctx = true → GoesOutstandingReading s i h [40 + vd.toNat] (.vecLanes vd.toNat (f s)))
      ∧ (s.holdsLease h.tile h.ctx = false → TakesThreadFault s i h 6)
  let scalar (i : Instr) (h : Hdr) (rd : BitVec 5) (f : State → Word) : Prop := ∀ s : State, s.canRun i h →
    (s.holdsLease h.tile h.ctx = true → GoesOutstandingReading s i h [rd.toNat] (.vecScalar rd.toNat (f s)))
      ∧ (s.holdsLease h.tile h.ctx = false → TakesThreadFault s i h 6)
  (∀ (h : Hdr) (o : VecOps),
    let a (s : State) : List Half := s.v h.tile o.va.toNat
    let b (s : State) : List Half := s.v h.tile o.vb.toNat
    let c (s : State) : List Half := s.v h.tile o.vc.toNat
    let low (s : State) : Half := (s.x h.tile h.ctx o.rs1.toNat).truncate 32
    lanes (.vadd h o) h o.vd (fun s => List.zipWith fadd (a s) (b s))
    ∧ lanes (.vsub h o) h o.vd (fun s => List.zipWith fsub (a s) (b s))
    ∧ lanes (.vmul h o) h o.vd (fun s => List.zipWith fmul (a s) (b s))
    ∧ lanes (.vfma h o) h o.vd (fun s => List.zipWith (fun x (p : Half × Half) => ffma x p.1 p.2) (a s) ((b s).zip (c s)))
    ∧ lanes (.vmax h o) h o.vd (fun s => List.zipWith (vmaxLane false) (a s) (b s))
    ∧ lanes (.vmin h o) h o.vd (fun s => List.zipWith (vmaxLane true) (a s) (b s))
    ∧ lanes (.vrsqrt h o) h o.vd (fun s => (a s).map vrsqrtLane)
    ∧ lanes (.vrcp h o) h o.vd (fun s => (a s).map vrcpLane)
    ∧ lanes (.vexp2 h o) h o.vd (fun s => (a s).map vexp2Lane)
    ∧ lanes (.vlog2 h o) h o.vd (fun s => (a s).map vlog2Lane)
    ∧ lanes (.vbcast h o) h o.vd (fun s => List.replicate 64 (low s))
    ∧ lanes (.vidx h o) h o.vd (fun s => (List.range 64).map fun i => low s + BitVec.ofNat 32 i)
    ∧ scalar (.vsum h o) h o.rs2 (fun s => BitVec.ofNat 64 (treeSum (a s)).toNat)
    ∧ scalar (.vmaxr h o) h o.rs2 (fun s =>
        BitVec.ofNat 64 ((canon (largestLane ((a s).zip (List.range 64))).1).toNat + (largestLane ((a s).zip (List.range 64))).2 * 2 ^ 32)))
    ∧ (
      let mag (r : Half) : Nat := r.toNat % 2 ^ 31
      let m (r : Half) : Int := mag32 (mag r)
      let u (r : Half) : Int := ulp32 (mag r)
      (∀ x : Half, 0 < mag x → mag x < 0x7F800000 →
        (vrcpLane x).toNat / 2 ^ 31 = x.toNat / 2 ^ 31 ∧ mag (vrcpLane x) ≤ 0x7F800000
          ∧ (m x * 2 ^ 128 * 2 ^ 149 > 2 ^ 298 → (m (vrcpLane x) * m x - 2 ^ 298).natAbs ≤ u (vrcpLane x) * m x)
          ∧ (m x * 2 ^ 128 * 2 ^ 149 ≤ 2 ^ 298 → mag (vrcpLane x) = 0x7F800000))
      ∧ (∀ x : Half, 0 < x.toNat → x.toNat < 0x7F800000 →
        (vrsqrtLane x).toNat < 0x7F800000 ∧ u (vrsqrtLane x) ≤ m (vrsqrtLane x)
          ∧ (m (vrsqrtLane x) - u (vrsqrtLane x)) ^ 2 * m x ≤ 2 ^ 447 ∧ 2 ^ 447 ≤ (m (vrsqrtLane x) + u (vrsqrtLane x)) ^ 2 * m x)
      ∧ (∀ k : Int, -149 ≤ k → k ≤ 127 →
        (let r := vexp2Lane (toF32 (.fin (decide (k < 0)) k.natAbs 0))
         r.toNat < 0x7F800000 ∧ (m r - 2 ^ (k + 149).toNat).natAbs ≤ 2 * u r)
        ∧ let r := vlog2Lane (toF32 (.fin false 1 k))
          ((if r.toNat < 2 ^ 31 then m r else -m r) - k * 2 ^ 149).natAbs ≤ 2 * u r)
      ∧ vrsqrtLane 0x00000000#32 = 0x7F800000#32 ∧ vrsqrtLane 0x80000000#32 = 0xFF800000#32 ∧ vrsqrtLane 0x7F800000#32 = 0x00000000#32
      ∧ (∀ x : Half, 2 ^ 31 < x.toNat → vrsqrtLane x = 0x7FC00000#32 ∧ vlog2Lane x = 0x7FC00000#32)
      ∧ vrcpLane 0x00000000#32 = 0x7F800000#32 ∧ vrcpLane 0x80000000#32 = 0xFF800000#32
      ∧ vlog2Lane 0x00000000#32 = 0xFF800000#32 ∧ vlog2Lane 0x80000000#32 = 0xFF800000#32
      ∧ vexp2Lane 0xFF800000#32 = 0x00000000#32
      ∧ ∀ x : Half, 0x43000000 ≤ x.toNat → x.toNat ≤ 0x7F800000 → vexp2Lane x = 0x7F800000#32)

/-- Issued by the lease holder, valid and with its guard true: VCVT and VLDC with their bytes inside scratch, and in one bank
where they are unaligned, and VACC with its entry in range and its rows in a state that its operation accepts, are outstanding
with the lanes and the scale read at issue. VCVT or VLDC outside scratch, or unaligned across a bank boundary, faults with code
7, VACC outside its range with code 2. -/
def Obligations.VectorConversionsAndAccumulationsGoOutstanding : Prop :=
  ∀ (h : Hdr) (o : VecOps) (s : State), s.holdsLease h.tile h.ctx = true →
    let a := (s.x h.tile h.ctx o.rs1.toNat).toNat
    let sc := (tensorScale ((s.x h.tile h.ctx o.rs2.toNat).truncate 32)).1
    let n := 8 * fmtBits o.fmt.toNat + if fmtIsMX o.fmt.toNat then 2 else 0
    let entry := o.imm.toNat % 2 ^ 10
    let op := o.imm.toNat / 2 ^ 10 % 4
    let half := o.imm.toNat / 2 ^ 12 % 2
    let mask := if half = 0 then 3 else 12
    (s.canRun (.vcvt h o) h → rotateOk a n = true →
      GoesOutstandingReading s (.vcvt h o) h [] (.vcvt a o.fmt.toNat o.cls.toNat (o.rnd == 1) sc (s.v h.tile o.va.toNat)))
    ∧ (s.canRun (.vcvt h o) h → rotateOk a n = false → TakesThreadFault s (.vcvt h o) h 7)
    ∧ (s.canRun (.vldc h o) h → rotateOk a n = true →
      GoesOutstanding s (.vldc h o) h [40 + o.vd.toNat] (.vldc a o.fmt.toNat o.cls.toNat o.vd.toNat sc))
    ∧ (s.canRun (.vldc h o) h → rotateOk a n = false → TakesThreadFault s (.vldc h o) h 7)
    ∧ (s.canRun (.vacc h o) h → accBound (vaccMode op) entry 1 = true → s.rowsOk h.tile (vaccMode op) entry 1 mask = true →
      GoesOutstandingReading s (.vacc h o) h [] (.vacc op half entry (o.rnd == 1) (s.v h.tile o.va.toNat) (s.v h.tile o.vb.toNat)))
    ∧ (s.canRun (.vacc h o) h → accBound (vaccMode op) entry 1 = false → TakesThreadFault s (.vacc h o) h 2)

/-- A VLEASE is granted at once where the lease is free, waits last in line with cause 4 where another holds it, and has no
effect for the holder. A VRELEASE by the holder gives the lease to the first waiter, or frees it, where no vector instruction of
the thread is outstanding, and otherwise leaves a release that waits; by any other thread it faults with code 6. VLEASE_HANDOVER
carries a waiting release out once the holder's vector instructions are done. An outstanding result of 64 lanes lands in its
vector register, every other vector register and all memory unchanged (host memory but for the event record of a thread fault
that waited); a scalar result lands in its register, x0 staying zero, and a thread fault that waited for it alone makes the
context FAULTED; a VACC whose turn at its rows has come changes no accumulator word of another tile or of a row outside its
entry. Each is then no longer outstanding. -/
def Obligations.TheVectorLeasePassesAndVectorResultsLand : Prop :=
  (
    let passed (s t : State) (tile : Nat) : Prop :=
      (t.tileOf tile).releasing = false ∧ (t.tileOf tile).lease = (s.tileOf tile).leaseWait.head?
        ∧ (t.tileOf tile).leaseWait = (s.tileOf tile).leaseWait.tail
        ∧ ∀ c ∈ (s.tileOf tile).leaseWait.head?, (t.thr tile c).hold = 0
    (∀ (h : Hdr) (o : VecOps) (s : State), s.canRun (.vlease h o) h →
      ((s.tileOf h.tile).lease = none → ∃ t, exec (.vlease h o) s = .next t ∧ (t.tileOf h.tile).lease = some h.ctx.val
          ∧ t.tile.xreg = s.tile.xreg ∧ s.issueFrame t h)
      ∧ (s.holdsLease h.tile h.ctx = true → ∃ t, exec (.vlease h o) s = .next t
          ∧ (t.tileOf h.tile).lease = some h.ctx.val ∧ (t.tileOf h.tile).leaseWait = (s.tileOf h.tile).leaseWait ∧ s.issueFrame t h)
      ∧ ((s.tileOf h.tile).lease ≠ none → s.holdsLease h.tile h.ctx = false → ∃ t, exec (.vlease h o) s = .next t
          ∧ (t.tileOf h.tile).lease = (s.tileOf h.tile).lease ∧ (t.thr h.tile h.ctx).hold = 4
          ∧ (t.tileOf h.tile).leaseWait = (s.tileOf h.tile).leaseWait ++ [h.ctx.val] ∧ s.issueFrame t h))
    ∧ (∀ (h : Hdr) (o : VecOps) (s : State), s.canRun (.vrelease h o) h →
      (s.holdsLease h.tile h.ctx = true → s.leaseDrained h.tile h.ctx = true →
          ∃ t, exec (.vrelease h o) s = .next t ∧ passed s t h.tile ∧ t.tile.vreg = s.tile.vreg)
      ∧ (s.holdsLease h.tile h.ctx = true → s.leaseDrained h.tile h.ctx = false →
          ∃ t, exec (.vrelease h o) s = .next t ∧ (t.tileOf h.tile).lease = some h.ctx.val ∧ (t.tileOf h.tile).releasing = true
            ∧ s.issueFrame t h)
      ∧ (s.holdsLease h.tile h.ctx = false → TakesThreadFault s (.vrelease h o) h 6))
    ∧ ∀ (tile : TileId) (c : Nat) (s : State), (s.tileOf tile).lease = some c → (s.tileOf tile).releasing = true →
      s.leaseDrained tile c = true → s.runs (clusterOfTile tile) = true → ∃ t, exec (.vleaseHandover tile) s = .next t ∧ passed s t tile ∧ t.mem = s.mem ∧ t.regs = s.regs)
    ∧ ((∀ (tile : TileId) (op vd w : Nat) (lanes : List Half) (s : State) (o : TileOp), s.op? tile op = some o →
        o.kind = .vecLanes vd lanes → lanes.length = 64 → vd < 16 →
        ∃ t, exec (.vectorResult tile op w) s = .next t ∧ t.op? tile op = none ∧ t.v tile vd = lanes
          ∧ (∀ u r : Nat, r < 16 → ¬ (u = tile.val ∧ r = vd) → t.v u r = s.v u r) ∧ s.keepsMem t tile o ∧ t.tile.xreg = s.tile.xreg)
      ∧ (∀ (tile : TileId) (op rd w : Nat) (v : Word) (s : State) (o : TileOp), s.op? tile op = some o →
        o.kind = .vecScalar rd v → rd < 32 →
        ∃ t, exec (.vectorResult tile op w) s = .next t ∧ t.op? tile op = none ∧ t.x tile o.ctx rd = (if rd = 0 then 0 else v)
          ∧ s.keepsMem t tile o ∧ t.tile.vreg = s.tile.vreg
          ∧ (t.thr tile o.ctx).fault = (s.thr tile o.ctx).fault
          ∧ (t.thr tile o.ctx).run = if (s.thr tile o.ctx).run = .faulting ∧ (∀ p ∈ s.opsOf tile o.ctx, p.id = op) then .faulted
              else (s.thr tile o.ctx).run)
      ∧ ∀ (tile : TileId) (op f half entry w : Nat) (stoch : Bool) (vals idxs : List Half) (s : State) (o : TileOp),
        s.op? tile op = some o → o.kind = .vacc f half entry stoch vals idxs → s.accTurn tile o = true →
        accBound (vaccMode f) entry 1 = true → f < 3 → half < 2 → vals.length = 64 → idxs.length = 64 →
        ∃ t, exec (.vectorResult tile op w) s = .next t ∧ t.op? tile op = none
          ∧ (∀ u row col : Nat, row < 384 → col < 128 → (u ≠ tile.val ∨ row ∉ accRows (vaccMode f) entry) →
              t.accWord u row col = s.accWord u row col)
          ∧ s.keepsMem t tile o ∧ t.tile.xreg = s.tile.xreg ∧ t.tile.vreg = s.tile.vreg)

/-- Issued valid and with its guard true: an LD or ST whose address is aligned to its size and inside scratch, or mapped in
device space, is outstanding with its address rs1 + sext(offset) and, for ST, its value read at issue; a scratch address out of
range or unaligned faults with code 7, a device address unaligned or unmapped with code 8. VLD and VST by the lease holder
inside one bank, aligned or rotated, are outstanding likewise; without the lease each faults with code 6, with it to device
space with code 8, and to scratch out of range, unaligned without rotation or across a bank boundary with code 7. DMA of a
descriptor inside scratch is outstanding, with a copy of its bytes where the sequencer can read them as it issues, and without
one, to be read first, where it cannot; one outside scratch faults with code 7. -/
def Obligations.MemoryInstructionsGoOutstanding : Prop :=
  ∀ (h : Hdr) (o : MemOps) (s : State),
    let a := (s.x h.tile h.ctx o.rs1.toNat + o.offset.signExtend 64).toNat
    let n := 2 ^ o.size.toNat
    let v := s.x h.tile h.ctx o.rd.toNat
    (s.canRun (.ld h o) h →
      (o.space = 0 → a % n = 0 → a + n ≤ 0x40000 →
        GoesOutstanding s (.ld h o) h [o.rd.toNat] (.ld a n o.rd.toNat (o.signed == 1)))
      ∧ (o.space = 1 → a % n = 0 → s.devMapped a = true →
        GoesOutstanding s (.ld h o) h [o.rd.toNat] (.devLd a n o.rd.toNat (o.signed == 1)))
      ∧ (o.space = 0 → (a % n ≠ 0 ∨ 0x40000 < a + n) → TakesThreadFault s (.ld h o) h 7)
      ∧ (o.space = 1 → (a % n ≠ 0 ∨ s.devMapped a = false) → TakesThreadFault s (.ld h o) h 8))
    ∧ (s.canRun (.st h o) h →
      (o.space = 0 → a % n = 0 → a + n ≤ 0x40000 → GoesOutstanding s (.st h o) h [] (.st a n v))
      ∧ (o.space = 1 → a % n = 0 → s.devMapped a = true → GoesOutstanding s (.st h o) h [] (.devSt a n v))
      ∧ (o.space = 0 → (a % n ≠ 0 ∨ 0x40000 < a + n) → TakesThreadFault s (.st h o) h 7)
      ∧ (o.space = 1 → (a % n ≠ 0 ∨ s.devMapped a = false) → TakesThreadFault s (.st h o) h 8))
    ∧ (s.canRun (.vld h o) h → s.holdsLease h.tile h.ctx = true → o.space = 0 → a + 256 ≤ 0x40000 →
        (o.rotate = 1 ∨ a % 64 = 0) → a / 0x10000 = (a + 255) / 0x10000 →
        GoesOutstanding s (.vld h o) h [40 + o.vd.toNat] (.vld a o.vd.toNat))
    ∧ (s.canRun (.vst h o) h → s.holdsLease h.tile h.ctx = true → o.space = 0 → a + 256 ≤ 0x40000 →
        (o.rotate = 1 ∨ a % 64 = 0) → a / 0x10000 = (a + 255) / 0x10000 →
        GoesOutstandingReading s (.vst h o) h [] (.vst a (s.v h.tile o.vd.toNat)))
    ∧ (∀ i ∈ [Instr.vld h o, .vst h o], s.canRun i h →
        (s.holdsLease h.tile h.ctx = false → TakesThreadFault s i h 6)
        ∧ (s.holdsLease h.tile h.ctx = true → o.space = 1 → TakesThreadFault s i h 8)
        ∧ (s.holdsLease h.tile h.ctx = true → o.space = 0 →
          (0x40000 < a + 256 ∨ (o.rotate = 0 ∧ a % 64 ≠ 0) ∨ a / 0x10000 ≠ (a + 255) / 0x10000) → TakesThreadFault s i h 7))
    ∧ (s.canRun (.dma h o) h →
        let id := (s.tileOf h.tile).nextId
        let op (copy : Option (List Byte)) : TileOp := ⟨id, h.ctx, [o.rd.toNat].filter fun r => r != 0 && r != 32,
          .postDma a o.rd.toNat copy, false, 0⟩
        let now := s.scratchTurn h.tile ⟨id, h.ctx, [], .postDma a o.rd.toNat none, false, 0⟩ [(a, 64)]
          && s.banksServe h.tile a 64 0 h.ctx (.op id)
        (a + 64 ≤ 0x40000 → now = true → s.mem.badScratch = [] →
          GoesOutstanding s (.dma h o) h [o.rd.toNat] (.postDma a o.rd.toNat (some (s.scratchBytes h.tile a 64))))
        ∧ (a + 64 ≤ 0x40000 → now = true → ∃ t, exec (.dma h o) s = .next t
          ∧ (t.tileOf h.tile).ops = (s.tileOf h.tile).ops ++ [op (some (s.scratchBytes h.tile a 64))]
          ∧ t.mem.scratch = s.mem.scratch ∧ t.mem.dev = s.mem.dev ∧ t.tile.xreg = s.tile.xreg)
        ∧ (a + 64 ≤ 0x40000 → now = false → GoesOutstanding s (.dma h o) h [o.rd.toNat] (.postDma a o.rd.toNat none))
        ∧ (0x40000 < a + 64 → TakesThreadFault s (.dma h o) h 7))

/-- An outstanding scratch access whose turn has come and whose banks its master owns is served and no longer outstanding: LD
brings the little-endian value of its bytes, sign- or zero-extended, to its register; ST leaves its bytes in place and every
other scratch byte of every tile as it was; VLD brings 64 lanes to its vector register; VST leaves its 256 bytes and every other
byte as it was; an LD or VLD leaves all memory. An outstanding device LD of the fast tier, its turn come, brings the little-
endian value of its bytes, sign- or zero-extended, to its register; a device ST of the fast tier leaves its bytes at the stack
and offset that its address decodes to and every other byte of the tiers and scratch as they were. Host memory stays but for the
event records of a thread fault that waited and of words that fail their check. Each is then no longer outstanding. A
device access whose turn has not come, or which leads to a stack that is not ON or to a register of a unit in HOLD, stays outstanding
and changes nothing; it completes as said once its turn has come and that island is ON. -/
def Obligations.ScratchAndDeviceAccessesReadAndWriteTheirBytes : Prop :=
  (∀ (tile : TileId) (op wo wp : Nat) (s : State) (o : TileOp), s.op? tile op = some o → s.scratchTurn tile o (opRanges o.kind).2 = true →
      s.rangesServe tile (opRanges o.kind).1 o.ctx (.op op) (opRanges o.kind).2 = true →
      let elsewhere (t : State) (a n : Nat) : Prop := ∀ k : Nat, (k < State.scratchKey tile a ∨ State.scratchKey tile a + n ≤ k) →
        Memory.read t.mem.scratch k = Memory.read s.mem.scratch k
      (∀ (a n rd : Nat) (sg : Bool), o.kind = .ld a n rd sg → rd < 32 →
        ∃ t, exec (.bankAccess tile op wo wp) s = .next t ∧ t.op? tile op = none ∧ s.keepsMem t tile o ∧ t.tile.vreg = s.tile.vreg
          ∧ t.x tile o.ctx rd = (if rd = 0 then 0 else extended n sg (s.scratchNat tile a n)))
      ∧ (∀ (a n : Nat) (v : Word), o.kind = .st a n v →
        ∃ t, exec (.bankAccess tile op wo wp) s = .next t ∧ t.op? tile op = none ∧ elsewhere t a n
          ∧ Memory.readBytes t.mem.scratch (State.scratchKey tile a) n = leBytes n v.toNat
          ∧ t.mem.dev = s.mem.dev ∧ s.keepsHost t tile o ∧ t.tile.xreg = s.tile.xreg ∧ t.tile.vreg = s.tile.vreg)
      ∧ (∀ (a vd : Nat), o.kind = .vld a vd → vd < 16 →
        ∃ t, exec (.bankAccess tile op wo wp) s = .next t ∧ t.op? tile op = none ∧ s.keepsMem t tile o ∧ t.tile.xreg = s.tile.xreg
          ∧ t.v tile vd = lanesOf (s.scratchBytes tile a 256)
          ∧ (∀ u r : Nat, r < 16 → ¬ (u = tile.val ∧ r = vd) → t.v u r = s.v u r))
      ∧ ∀ (a : Nat) (ls : List Half), o.kind = .vst a ls → ls.length = 64 →
        ∃ t, exec (.bankAccess tile op wo wp) s = .next t ∧ t.op? tile op = none ∧ elsewhere t a 256
          ∧ Memory.readBytes t.mem.scratch (State.scratchKey tile a) 256 = ls.flatMap (fun l => leBytes 4 l.toNat)
          ∧ t.mem.dev = s.mem.dev ∧ t.tile.xreg = s.tile.xreg ∧ t.tile.vreg = s.tile.vreg)
    ∧ (∀ (tile : TileId) (op : Nat) (s : State) (o : TileOp), s.op? tile op = some o → s.deviceTurn tile o = true →
      s.placeRuns o.kind = true →
      (∀ (a n rd k off : Nat) (sg : Bool), o.kind = .devLd a n rd sg → rd < 32 → s.target a = .fast k off → s.badIn a n = [] →
        ∃ t, exec (.deviceAccessDone tile op) s = .next t ∧ t.op? tile op = none
          ∧ t.x tile o.ctx rd = (if rd = 0 then 0 else extended n sg (s.devNat a n)) ∧ s.keepsMem t tile o)
      ∧ ∀ (a n k off : Nat) (v : Word), o.kind = .devSt a n v → n ∈ [1, 2, 4, 8] → a % n = 0 → s.target a = .fast k off →
        ∃ t, exec (.deviceAccessDone tile op) s = .next t ∧ t.op? tile op = none
          ∧ Memory.readBytes t.mem.dev (k * 2 ^ 35 + off) n = leBytes n v.toNat
          ∧ (∀ j : Nat, (j < k * 2 ^ 35 + off ∨ k * 2 ^ 35 + off + n ≤ j) → Memory.read t.mem.dev j = Memory.read s.mem.dev j)
          ∧ t.mem.scratch = s.mem.scratch ∧ s.keepsHost t tile o ∧ t.tile.xreg = s.tile.xreg)
    ∧ (∀ (tile : TileId) (op : Nat) (s : State) (o : TileOp), s.op? tile op = some o →
      (s.deviceTurn tile o = false ∨ s.placeRuns o.kind = false) → exec (.deviceAccessDone tile op) s = .next s)
    ∧ ∀ (a n rd k off : Nat) (v : Word) (sg : Bool) (s : State), s.target a = .fast k off →
      s.placeRuns (.devLd a n rd sg) = s.runs (672 + k) ∧ s.placeRuns (.devSt a n v) = s.runs (672 + k)

/-- A write of BANK_OWN to a tile whose island is not in HOLD sets the owner asked for (5 to 7 clamped to 4). Where no handover is pending and the owner in force has
no work at the bank, the new owner takes it at once; where it has, the handover is pending and the owner in force stays; a
pending one takes the bank once that work has no access to the bank left. A long wait sets the bank's bit and asserts the cluster's tile-event source.
When a zero-fill ends the tile's scratch, accumulators and vector registers are zero, its banks belong to owner 0, and other
tiles' scratch is as it was. -/
def Obligations.BanksChangeOwnerByHandover : Prop :=
  ∀ (tile : TileId) (bank : Fin 4) (s : State),
    let b := bTile tile
    let frame (t : State) : Prop := t.mem = s.mem ∧ t.tile.xreg = s.tile.xreg ∧ s.sameRegs t (oneReg b .BANK_OWN)
    (∀ v : BitVec 32, s.blkHeld b = false → ∃ t, exec (.bankOwnWrite tile bank v) s = .next t ∧ frame t
        ∧ t.getF b Fld.BANK_OWN_OWNER bank = min 4 (v.toNat % 8)
        ∧ (s.flag b Fld.BANK_OWN_PENDING bank = false → s.ownerWork tile bank = [] →
            t.getF b Fld.BANK_OWN_CUR_OWNER bank = min 4 (v.toNat % 8))
        ∧ (s.flag b Fld.BANK_OWN_PENDING bank = false → s.ownerWork tile bank ≠ [] →
            min 4 (v.toNat % 8) ≠ s.getF b Fld.BANK_OWN_CUR_OWNER bank →
            t.flag b Fld.BANK_OWN_PENDING bank = true
              ∧ t.getF b Fld.BANK_OWN_CUR_OWNER bank = s.getF b Fld.BANK_OWN_CUR_OWNER bank
              ∧ t.drainsOf tile bank = s.ownerWork tile bank))
    ∧ (s.flag b Fld.BANK_OWN_PENDING bank = true → (∀ w ∈ s.drainsOf tile bank, s.tokenLive tile bank w = false) →
        s.runs (clusterOfTile tile) = true → ∃ t, exec (.bankHandoverDone tile bank) s = .next t ∧ frame t
          ∧ t.getF b Fld.BANK_OWN_CUR_OWNER bank = s.getF b Fld.BANK_OWN_OWNER bank
          ∧ t.flag b Fld.BANK_OWN_PENDING bank = false)
    ∧ (bitsOf (s.getF b Fld.BANK_STATUS_LONG_WAIT) bank 1 = 0 →
        s.flag (bFn 2) Fld.IC_SRC_LEVEL (srcCluster (clusterOfTile tile) 0) = false →
        ∃ t, exec (.bankLongWait tile bank) s = .next t
          ∧ t.getF b Fld.BANK_STATUS_LONG_WAIT = s.getF b Fld.BANK_STATUS_LONG_WAIT + 2 ^ bank.val
          ∧ t.flag (bFn 2) Fld.IC_SRC_PENDING (srcCluster (clusterOfTile tile) 0) = true ∧ t.mem.scratch = s.mem.scratch)
    ∧ (s.flag b Fld.BANK_STATUS_CLEARING = true → s.runs (clusterOfTile tile) = true → ∃ t, exec (.zeroFillDone tile) s = .next t
        ∧ t.flag b Fld.BANK_STATUS_CLEARING = false
        ∧ (∀ a : Nat, a < 0x40000 → Memory.read t.mem.scratch (State.scratchKey tile a) = 0)
        ∧ (∀ row col : Nat, row < 384 → col < 128 → t.accWord tile row col = 0)
        ∧ (∀ r : Nat, r < 16 → t.v tile r = List.replicate 64 0)
        ∧ (∀ k : Nat, k < 4 → t.getF b Fld.BANK_OWN_CUR_OWNER k = 0)
        ∧ (∀ u a : Nat, u ≠ tile.val → a < 0x40000 →
            Memory.read t.mem.scratch (State.scratchKey u a) = Memory.read s.mem.scratch (State.scratchKey u a)))

/-- Issued valid and with its guard true, on a valid counter number (another faults with code 10): SADD, SSUB and SSIGNAL are
outstanding with their operands; SREAD brings the completion word of the counter to rd; SWAIT for N brings it where the counter
is ABANDONED (status 3) or holds N or more (status 0), and otherwise the thread waits with cause 5 and, where the table has
room, the wait is registered last; behind an outstanding operation of its thread on the same counter an SREAD or SWAIT is
outstanding itself, the thread of the SWAIT waiting with cause 6. Issued valid and with its guard true with rs1 a scratch address aligned to
64 bytes with 64 bytes inside scratch, each of SMPL, GATH, SCAT, EMBD is outstanding as a post to queue 0, 1, 1, 2 of its tile's
set (SCAT and GATH with their scatter bit), QPOST as a post to the queue context numbered rs2. Another address faults with code
7, whatever QPOST's queue number; with such an address a queue number above 262143 faults with code 11. -/
def Obligations.SyncAndGraphInstructionsCompleteWaitOrPost : Prop :=
  (∀ (h : Hdr) (o : SyncOps) (s : State),
      let c := (s.x h.tile h.ctx o.rs1.toNat).toNat
      let n := if o.useImm = 1 then o.imm.toNat else (s.x h.tile h.ctx o.rs2.toNat).toNat % 2 ^ 32
      let v := (s.x h.tile h.ctx o.rs2.toNat).toNat
      let word (st : Nat) : Word := BitVec.ofNat 64 ((s.counterOf c).value % 2 ^ 32 + st * 2 ^ 32)
      let behind := s.syncBehind h.tile h.ctx (s.tileOf h.tile).nextId (none, c)
      let status := if (s.counterOf c).abandoned then 3 else 0
      (s.canRun (.sadd h o) h → c ≤ 2818047 → GoesOutstanding s (.sadd h o) h [o.rd.toNat] (.sync false n c o.rd.toNat))
      ∧ (s.canRun (.ssub h o) h → c ≤ 2818047 → GoesOutstanding s (.ssub h o) h [o.rd.toNat] (.sync true n c o.rd.toNat))
      ∧ (s.canRun (.ssignal h o) h → c ≤ 2818047 → GoesOutstanding s (.ssignal h o) h [o.rd.toNat]
          (.signal c o.rd.toNat (v % 2 ^ 32) (v / 2 ^ 32) (o.imm.toNat % 2 ^ 16) (o.imm.toNat / 2 ^ 16 % 4)))
      ∧ (s.canRun (.sread h o) h → c ≤ 2818047 → behind = true →
          GoesOutstanding s (.sread h o) h [o.rd.toNat] (.syncRead c o.rd.toNat))
      ∧ (s.canRun (.swait h o) h → c ≤ 2818047 → behind = true → ∃ t, exec (.swait h o) s = .next t
          ∧ (t.tileOf h.tile).ops = (s.tileOf h.tile).ops ++ [⟨(s.tileOf h.tile).nextId, h.ctx, [o.rd.toNat].filter fun r => r != 0 && r != 32,
              .syncWait n c o.rd.toNat, false, 0⟩]
          ∧ (t.thr h.tile h.ctx).hold = 6 ∧ t.sync = s.sync ∧ t.tile.xreg = s.tile.xreg)
      ∧ (s.canRun (.sread h o) h → c ≤ 2818047 → behind = false → ∃ t, exec (.sread h o) s = .next t
          ∧ t.x h.tile h.ctx o.rd.toNat = (if o.rd = 0 then 0 else word status) ∧ s.sameScalars t h o.rd.toNat ∧ t.sync = s.sync)
      ∧ (s.canRun (.swait h o) h → c ≤ 2818047 → behind = false → ((s.counterOf c).abandoned = true ∨ n ≤ (s.counterOf c).value) →
          ∃ t, exec (.swait h o) s = .next t ∧ t.x h.tile h.ctx o.rd.toNat = (if o.rd = 0 then 0 else word status)
            ∧ (t.thr h.tile h.ctx).hold = 0 ∧ t.sync = s.sync)
      ∧ (s.canRun (.swait h o) h → c ≤ 2818047 → behind = false → (s.counterOf c).abandoned = false → (s.counterOf c).value < n →
          s.waitRoom (syncMemOf c) = true → ∃ t, exec (.swait h o) s = .next t ∧ (t.thr h.tile h.ctx).hold = 5
            ∧ t.sync.waits = s.sync.waits ++ [⟨c, n, .thread h.tile h.ctx o.rd.toNat, false⟩] ∧ t.tile.xreg = s.tile.xreg)
      ∧ (∀ i ∈ [Instr.sadd h o, .ssub h o, .swait h o, .sread h o, .ssignal h o], s.canRun i h → 2818047 < c →
          TakesThreadFault s i h 10))
    ∧ (∀ (h : Hdr) (o : GraphOps) (s : State),
      let a := (s.x h.tile h.ctx o.rs1.toNat).toNat
      let q := (s.x h.tile h.ctx o.rs2.toNat).toNat
      let post (i : Instr) (k : Nat) (sc : Option Bool) : Prop := s.canRun i h →
        (a % 64 = 0 → a + 64 ≤ 0x40000 → GoesOutstanding s i h [o.rd.toNat] (.post a o.rd.toNat (State.tileQueue h.tile k) sc))
        ∧ ((a % 64 ≠ 0 ∨ 0x40000 < a + 64) → TakesThreadFault s i h 7)
      post (.smpl h o) 0 none ∧ post (.gath h o) 1 (some false) ∧ post (.scat h o) 1 (some true) ∧ post (.embd h o) 2 none
      ∧ (s.canRun (.qpost h o) h → q ≤ 262143 → a % 64 = 0 → a + 64 ≤ 0x40000 →
          GoesOutstanding s (.qpost h o) h [o.rd.toNat] (.post a o.rd.toNat q none))
      ∧ (s.canRun (.qpost h o) h → 262143 < q → a % 64 = 0 → a + 64 ≤ 0x40000 → TakesThreadFault s (.qpost h o) h 11)
      ∧ (s.canRun (.qpost h o) h → (a % 64 ≠ 0 ∨ 0x40000 < a + 64) → TakesThreadFault s (.qpost h o) h 7))

/-- On a LIVE counter an add of n > 0 leaves the smaller of value + n and 2^32 − 1, a subtract the larger of value − n and 0,
with the sticky flag of a saturation and, where the value changes, the agent and sequence of the operation; every wait that the
new value satisfies is released and no other; on an ABANDONED counter nothing changes. A tile's SADD or SSUB takes effect so,
with sequence 0 (the model's choice, log entry 125: tile threads are no sequence source), once every earlier write of its thread and every earlier operation of its thread on the counter has completed; an SREAD or SWAIT
that stands behind such an operation then brings its word or registers. A remote signal that names a level the job does not have
or a module outside its rings, or none with no job open, is not sent and completes with status REFUSED (its value is free, log
entry 32; membership as log entry 89 has it). A wait for N on a LIVE counter below N is registered last where there is room. -/
def Obligations.CounterOperationsSaturateAndRelease : Prop :=
  let sum (k : Counter) (n : Nat) (sub : Bool) : Nat := if sub then k.value - n else min (k.value + n) (2 ^ 32 - 1)
  let after (k : Counter) (n : Nat) (sub : Bool) (agent seq : Nat) : Counter :=
    { k with value := sum k n sub,
             satHi := k.satHi || (!sub && decide (2 ^ 32 - 1 < k.value + n)), satLo := k.satLo || (sub && decide (k.value < n)),
             lastSig := if sum k n sub = k.value then k.lastSig else agent,
             lastSeq := if sum k n sub = k.value then k.lastSeq else seq }
  let left (s : State) (c v : Nat) : List Wait := s.sync.waits.filter fun w => !(w.counter == c && decide (w.n ≤ v))
  (∀ (who : Waiter) (n seq : BitVec 32) (c : CounterId) (sub : Bool) (s : State), (s.counterOf c).abandoned = false → n ≠ 0 →
      ∃ t, exec (.syncOperation who (if sub then 1 else 0) n seq c) s = .next t
        ∧ t.counterOf c = after (s.counterOf c) n.toNat sub (agentId who) seq.toNat
        ∧ t.sync.waits = left s c (after (s.counterOf c) n.toNat sub 0 0).value
        ∧ (∀ d : Nat, d ≠ c.val → t.counterOf d = s.counterOf d) ∧ t.mem.scratch = s.mem.scratch ∧ t.mem.dev = s.mem.dev)
    ∧ (∀ (who : Waiter) (n seq : BitVec 32) (c : CounterId) (sub : Bool) (s : State), (s.counterOf c).abandoned = true →
      ∃ t, exec (.syncOperation who (if sub then 1 else 0) n seq c) s = .next t ∧ t.sync.counters = s.sync.counters
        ∧ t.sync.waits = s.sync.waits)
    ∧ (∀ (who : Waiter) (n seq : BitVec 32) (c : CounterId) (s : State), (s.counterOf c).abandoned = false →
      (s.counterOf c).value < n.toNat → s.waitRoom (syncMemOf c) = true →
      ∃ t, exec (.syncOperation who 2 n seq c) s = .next t ∧ t.sync.waits = s.sync.waits ++ [⟨c, n.toNat, who, false⟩]
        ∧ t.sync.counters = s.sync.counters ∧ t.tile = s.tile)
    ∧ (∀ (tile : TileId) (op n c rd : Nat) (sub : Bool) (s : State) (o : TileOp), s.op? tile op = some o →
      o.kind = .sync sub n c rd → (∀ p ∈ (s.tileOf tile).ops, p.ctx = o.ctx → p.id < o.id → isWrite p.kind = false) →
      s.syncBehind tile o.ctx o.id (none, c) = false → (s.counterOf c).abandoned = false → 0 < n → rd ≠ 0 → rd < 32 →
      ∃ t, exec (.syncOpRelease tile op) s = .next t ∧ t.op? tile op = none
        ∧ t.counterOf c = after (s.counterOf c) n sub (agentId (.thread tile o.ctx 0)) 0
        ∧ t.sync.waits = left s c (after (s.counterOf c) n sub 0 0).value
        ∧ t.x tile o.ctx rd = BitVec.ofNat 64 (completion (after (s.counterOf c) n sub 0 0).value
            (if sub then (if (s.counterOf c).value < n then 2 else 0) else (if 2 ^ 32 - 1 < (s.counterOf c).value + n then 1 else 0))))
    ∧ ∀ (tile : TileId) (op rd : Nat) (s : State) (o : TileOp), s.op? tile op = some o → rd ≠ 0 → rd < 32 →
      let st (c : Nat) : Nat := if (s.counterOf c).abandoned then 3 else 0
      let word (c : Nat) : Word := BitVec.ofNat 64 (completion (s.counterOf c).value (st c))
      (∀ c : Nat, o.kind = .syncRead c rd → s.syncBehind tile o.ctx o.id (none, c) = false →
          ∃ t, exec (.syncOpRelease tile op) s = .next t ∧ t.op? tile op = none ∧ t.x tile o.ctx rd = word c ∧ t.sync = s.sync)
        ∧ (∀ n c : Nat, o.kind = .syncWait n c rd → s.syncBehind tile o.ctx o.id (none, c) = false →
          ((s.counterOf c).abandoned = true ∨ n ≤ (s.counterOf c).value → ∃ t, exec (.syncOpRelease tile op) s = .next t
              ∧ t.op? tile op = none ∧ t.x tile o.ctx rd = word c ∧ (t.thr tile o.ctx).hold = 0 ∧ t.sync = s.sync)
            ∧ ((s.counterOf c).abandoned = false → (s.counterOf c).value < n → s.waitRoom (syncMemOf c) = true →
              ∃ t, exec (.syncOpRelease tile op) s = .next t ∧ t.op? tile op = none
                ∧ t.sync.waits = s.sync.waits ++ [⟨c, n, .thread tile o.ctx rd, false⟩] ∧ t.tile.xreg = s.tile.xreg))
        ∧ ∀ c q b module level : Nat, o.kind = .signal c rd q b module level →
          s.syncBehind tile o.ctx o.id (some module, c) = false →
          (∀ p ∈ (s.tileOf tile).ops, p.ctx = o.ctx → p.id < o.id → isWrite p.kind = false) →
          (s.job.phase = 0 ∨ s.getF bHub Fld.FR_STATUS_LEVELS ≤ level ∨ s.jobMember module = false) →
          ∃ t, exec (.syncOpRelease tile op) s = .next t ∧ t.op? tile op = none ∧ t.sync = s.sync ∧ t.lw = s.lw
            ∧ ∃ v : Nat, t.x tile o.ctx rd = BitVec.ofNat 64 (completion v 4)

/-- Each of these writes by the control complex, firmware or a loaded extension, to a unit whose island is not in HOLD sets the HOLD bit
of its unit's control register (HALT_ISSUE of the sequencer's) to the value written and leaves every other field, register and
memory; the same write by a tile, the hub or the host changes nothing, and one to a unit in HOLD waits. So with the rest, of units that
are not in HOLD. A remap of an array that is held and drained, its fuse row good, gives the row and the column field the value written
where its fuse is not blown and keeps it where it is, and records a spare that comes in; with a bad fuse row it changes nothing;
of an array not held and drained it sets PROG_REJECT. A fuse request of an array held and drained, with no work in it, no
programming under way, a good fuse row and no fuse asked for that is blown, sets PROG_BUSY, and when programming ends each
requested fuse is blown with its field and PROG_BUSY is 0; any other request sets PROG_REJECT. CLEAR_ALL with no accumulator access
outstanding leaves every row CLEAR and nothing to clear. A write of REEL sets the field alone; the next slot is the first under the new
rule, and Reel mode begins with the turn after the context that issued last. ICINV
empties the instruction cache. THR_STATE_WRITE sets PRIO and PIN, and frees a FAULTED context where STATE is 0. -/
def Obligations.HoldsAndTileControlWritesTakeEffect : Prop :=
  (
    let held (c : Writer → Bool → Instr) (b : Blk) (f : Fld) : Prop := ∀ v : Bool,
      ControlWrites (c · v) fun w s => (s.blkHeld b = false → SetsFlag s (c w v) b f v) ∧ (s.blkHeld b = true → exec (c w v) s = .next s)
    (∀ a : ArrayId, held (.arrHold a) (bArray a) Fld.ARR_CTRL_HOLD)
      ∧ (∀ t : TileId, held (.seqHaltIssue t) (bTile t) Fld.SEQ_CTRL_HALT_ISSUE)
      ∧ (∀ n : ClusterId, held (.smpHold n) (bCluster n) Fld.SMP_CTRL_HOLD)
      ∧ (∀ n : ClusterId, held (.gsHold n) (bCluster n) Fld.GS_CTRL_HOLD)
      ∧ (∀ r : RegionId, held (.embHold r) (bRegion r) Fld.EMB_CTRL_HOLD)
      ∧ (∀ e : DmaId, held (.dmaHold e) (bDma e) Fld.DMA_CTRL_HOLD)
      ∧ ∀ u : UpdId, held (.updHold u) (bUpd u) Fld.UPD_CTRL_HOLD)
    ∧ ((∀ (arr : ArrayId) (v : BitVec 32) (s : State),
      let b := bArray arr
      let fuse := (s.reg b .ARR_FUSE).toNat
      let old := (s.reg b .ARR_REMAP).toNat
      let asked (lo : Nat) : Prop := bitsOf v.toNat (lo + 5) 1 = 1 ∧ bitsOf fuse (lo + 5) 1 = 1
      let rejected (t : State) : Prop := t.flag b Fld.ARR_STATUS_PROG_REJECT = true ∧ s.sameRegs t (oneReg b .ARR_STATUS)
        ∧ t = { s with regs := t.regs }
      s.blkHeld b = false →
      (s.heldSw arr = true → s.fuseRowBad arr = false → ∃ t, exec (.arrRemapWrite arr .control v) s = .next t
          ∧ (∀ lo ∈ [0, 6], bitsOf (t.reg b .ARR_REMAP).toNat lo 6 =
              if bitsOf fuse (lo + 5) 1 = 1 then bitsOf old lo 6 else bitsOf v.toNat lo 6)
          ∧ (t.reg b .ARR_REMAP).toNat < 2 ^ 12 ∧ t = { s with regs := t.regs }
          ∧ s.sameRegs t (fun c r => oneReg b .ARR_REMAP c r || oneReg (bFn 7) .ERR_LOG c r || oneReg (bFn 7) .ERR_STATUS c r))
      ∧ (s.heldSw arr = true → s.fuseRowBad arr = true → exec (.arrRemapWrite arr .control v) s = .next s)
      ∧ (s.heldSw arr = false → ∃ t, exec (.arrRemapWrite arr .control v) s = .next t ∧ rejected t)
      ∧ (s.heldSw arr = true → s.arrayWork arr = false → s.flag b Fld.ARR_STATUS_PROG_BUSY = false → s.fuseRowBad arr = false →
          ¬ asked 0 → ¬ asked 6 →
          ∃ t, exec (.arrFuseProg arr .control v) s = .next t ∧ t.flag b Fld.ARR_STATUS_PROG_BUSY = true
            ∧ (t.reg b .ARR_FUSE) = s.reg b .ARR_FUSE)
      ∧ ((s.heldSw arr = false ∨ s.arrayWork arr = true ∨ s.flag b Fld.ARR_STATUS_PROG_BUSY = true ∨ s.fuseRowBad arr = true ∨ asked 0
          ∨ asked 6) → ∃ t, exec (.arrFuseProg arr .control v) s = .next t ∧ rejected t)
      ∧ (s.flag b Fld.ARR_STATUS_PROG_BUSY = true → ∃ t, exec (.fuseProgDone (.array arr)) s = .next t
          ∧ t.flag b Fld.ARR_STATUS_PROG_BUSY = false
          ∧ bitsOf (t.reg b .ARR_FUSE).toNat 0 6 = (if bitsOf (s.reg b .ARR_FUSE_PROG).toNat 5 1 = 1
              then bitsOf (s.reg b .ARR_FUSE_PROG).toNat 0 6 else bitsOf fuse 0 6)
          ∧ bitsOf (t.reg b .ARR_FUSE).toNat 6 6 = (if bitsOf (s.reg b .ARR_FUSE_PROG).toNat 11 1 = 1
              then bitsOf (s.reg b .ARR_FUSE_PROG).toNat 6 6 else bitsOf fuse 6 6)))
    ∧ (∀ (tile : TileId) (s : State), ((s.tileOf tile).ops.all fun o => (opAcc o.kind).isNone) = true → s.blkHeld (bTile tile) = false →
        ∃ t, exec (.amClearAll tile .control) s = .next t ∧ (∀ row a : Nat, row < 384 → a < 4 → t.rowSt tile row a = RowState.clear)
          ∧ (∀ u row a : Nat, u ≠ tile.val → row < 384 → a < 4 → t.rowSt u row a = s.rowSt u row a) ∧ t.mem = s.mem
          ∧ (t.tileOf tile).clearMarks = [])
    ∧ (∀ (tile : TileId) (on : Bool) (s : State), s.blkHeld (bTile tile) = false →
        SetsFlag s (.seqReel tile .control on) (bTile tile) Fld.SEQ_CTRL_REEL on)
    ∧ (∀ (tile : TileId) (s : State),
        let on := s.flag (bTile tile) Fld.SEQ_CTRL_REEL
        ((s.reelSlot tile).tileOf tile).reelOn = on
          ∧ (on = true → (s.tileOf tile).reelOn = false → ((s.reelSlot tile).tileOf tile).turn = ((s.tileOf tile).lastAny + 1) % 128)
          ∧ (s.tilePresent tile = true → s.runs (clusterOfTile tile) = true →
              ∃ t, exec (.issueSlot tile) s = .next t ∧ (t.tileOf tile).reelOn = on))
    ∧ (∀ (tile : TileId) (s : State), s.blkHeld (bTile tile) = false → ∃ t, exec (.icinv tile .control) s = .next t ∧ (t.tileOf tile).icache = [] ∧ t.mem = s.mem
        ∧ t.regs = s.regs ∧ t.tile.threads = s.tile.threads)
    ∧ ∀ (tile : TileId) (ctx : CtxId) (v : BitVec 32) (s : State), s.blkHeld (bTile tile) = false → ∃ t, exec (.thrStateWrite tile ctx .control v) s = .next t
        ∧ (t.thr tile ctx).prio = v.toNat / 8 % 4 ∧ ((t.thr tile ctx).pin = true ↔ v.toNat / 32 % 2 = 1)
        ∧ (t.thr tile ctx).run = (if (s.thr tile ctx).run = .faulted ∧ v.toNat % 8 = 0 then .free else (s.thr tile ctx).run)
        ∧ (∀ u c : Nat, c < 128 → ¬ (u = tile.val ∧ c = ctx.val) → t.thr u c = s.thr u c) ∧ t.mem = s.mem ∧ t.regs = s.regs)

/-- Each counter-clear write by the control complex, firmware or a loaded extension (and the array's and the converting unit's by any
master), leaves every counter of its unit at 0, every other register of the machine and everything beyond the registers as it was. One
to a unit whose island is in HOLD waits and changes nothing; one by another writer changes nothing. -/
def Obligations.CounterClearsZeroTheirCounters : Prop :=
  let unit (c : Writer → Instr) (b : Blk) (hit : Blk → Reg → Nat → Bool) : Prop := ControlWrites c fun w s =>
    (s.blkHeld b = false → ClearsCounters s (c w) hit) ∧ (s.blkHeld b = true → exec (c w) s = .next s)
  let hub (c : Writer → Instr) (hit : Blk → Reg → Nat → Bool) : Prop := ControlWrites c fun w s => ClearsCounters s (c w) hit
  (∀ a : ArrayId, ReachesBlock (.arrCntClear a) (bArray a) fun s => ClearsCounters s (.arrCntClear a)
      (inList (bArray a) 0 [.ARR_BEATS, .ARR_BUB_FEED, .ARR_BUB_ACC, .ARR_BUB_WGT]))
    ∧ (∀ u : Nat, u < 10770 → ReachesBlock (.fmtClear u) (bConv u) fun s => ClearsCounters s (.fmtClear u)
        (fun b r i => decide (b = bConv u) && decide (i < 360) && decide (r = .FMT_STAT)))
    ∧ (∀ t : TileId, unit (.amCntClear t) (bTile t) (inList (bTile t) 0 [.AM_OVF, .AM_NF_IN, .AM_VEC_WAIT]))
    ∧ (∀ t : TileId, unit (.seqCntClear t) (bTile t) (inList (bTile t) 0 [.SEQ_ISSUED, .SEQ_EMPTY, .SEQ_STARVE, .SEQ_FAULTS]))
    ∧ (∀ t : TileId, unit (.bankCntClear t) (bTile t)
        (fun b r i => decide (b = bTile t) && decide (i < 5) && [.BANK_WAIT_OWN, .BANK_WAIT_PORT].contains r))
    ∧ (∀ u : UpdId, unit (.pruCntClear u) (bUpd u) (inList (bUpd u) 0 [.PRU_MASK_IN, .PRU_GROUP_CHG]))
    ∧ (∀ e : DmaId, unit (.spkCntClear e) (bDma e) (inList (bDma e) 0 [.SPK_DROPPED, .SPK_DENSE]))
    ∧ (∀ n : ClusterId, unit (.smpCntClear n) (bCluster n) (inList (bCluster n) 0
        [.SMP_RECORDS, .SMP_VOID, .SMP_CLAMP, .SMP_BADROW, .SMP_TRUNC, .SMP_RESTART, .SMP_DEADEND, .SMP_VARIATES]))
    ∧ (∀ n : ClusterId, unit (.gsCntClear n) (bCluster n) (inList (bCluster n) 0 [.GS_ROWS, .GS_MERGED, .GS_VOID, .GS_CLAMP,
        .GS_QUOTA_STALL, .GS_MEM_ADDS, .GS_HOT_PROMOTE, .GS_HOT_ADDS, .GS_HOT_FLUSH, .GS_HOT_FULL]))
    ∧ (∀ r : RegionId, unit (.embCntClear r) (bRegion r) (inList (bRegion r) 0 [.EMB_TIER_FAST, .EMB_TIER_SLOW,
        .EMB_TIER_HOST, .EMB_REFL_HIT, .EMB_REFL_STALE, .EMB_CLAMP, .EMB_GRAD_ROWS, .EMB_LATE, .EMB_LIST_FULL, .EMB_REMOTE]))
    ∧ (∀ e : DmaId, unit (.dmaCntClear e) (bDma e) (inList (bDma e) 0 [.DMA_DESC, .DMA_RD_BYTES, .DMA_WR_BYTES, .DMA_CLAMPS]))
    ∧ (∀ r : RegionId, unit (.scCntClear r) (bSc r) (inList (bSc r) 0 [.SC_HIT, .SC_MISS, .SC_WB, .SC_DEAD_EVICT,
        .SC_RAM_ADDS, .PF_ISSUED, .PF_USED, .PF_LATE, .PF_UNUSED, .PF_OVERTAKEN]))
    ∧ (∀ u : UpdId, unit (.updCntClear u) (bUpd u) (inList (bUpd u) 0 [.UPD_APPLIED, .UPD_FROZEN, .UPD_NF_STEP,
        .UPD_NOCONTRIB, .UPD_STAMP_SKIP, .UPD_STAMP_AHEAD, .UPD_NF_BLOCK, .UPD_CLIPPED, .UPD_CURVE_ESC, .UPD_CURVE_FALLBACK,
        .UPD_RESTORED, .UPD_WC_MISMATCH, .UPD_VERDICT_WAIT]))
    ∧ (∀ d : DieId, unit (.reCntClear d) (bDie d) (inList (bDie d) 0
        [.RE_CHUNK_TX, .RE_CHUNK_RX, .RE_PARKED, .RE_ADD_ELEMS, .RE_CREDIT_WAIT, .RE_TX_BYTES, .RE_RX_BYTES]))
    ∧ (∀ k : BankIdx, unit (.cbCntClear k) (bBank k) (fun b r i => decide (b = bBank k) && decide (i < 16) && decide (r = .CB_CNT)))
    ∧ (∀ m : SyncMemId, hub (.syncCntClear m) (inList (bSync m) 0
        [.SYNC_OPS, .SYNC_SAT, .SYNC_ABANDON_REL, .SYNC_WAITFULL, .SYNC_RX_HELD]))
    ∧ hub .frCntClear (inList bHub 0 [.FR_POSTS, .FR_POST_IGNORED, .FR_DEADLINE_MISS, .FR_BACKUP_USED,
        .FR_CARRIED, .FR_LATE_DROP, .FR_NF_BUCKETS, .FR_VERDICT_NF, .FR_JOB_SEALS, .FR_RERUNS])
    ∧ (∀ p : PortId, hub (.lwCntClear p) (inList (bDie (p / 8)) (p % 8) [.LW_TX_FLITS, .LW_RX_FLITS,
        .LW_CRC_ERR, .LW_REPLAYS, .LW_FEC_CORR, .LW_FEC_UNCORR, .LW_CREDIT_WAIT, .LW_SPARE_SWITCH, .LW_DROPPED]))
    ∧ hub .icCntClear (inList (bFn 2) 0 [.IC_DELIVERED, .IC_COALESCED, .IC_STORM, .IC_STUCK, .IC_STACK_FAULT])
    ∧ hub .hlCntClear (inList (bFn 4) 0 [.HL_BAR2_BAD, .HL_CPL_TIMEOUT, .HL_RETRAIN, .HL_POISON_RX])
    ∧ hub .pmCntClear (fun b r i => decide (i = 0) && (decide (b = bFn 5) && decide (r = .PM_THROTTLE_INT)
        || [.ISL_DROOPS, .ISL_RAMPS].contains r && (List.range 689).any fun k => decide (b = State.islBlk k)))
    ∧ hub .errCntClear (inList (bFn 7) 0 [.ERR_CE, .ERR_UE, .ERR_MERGED])

/-- In normal service a slot goes to a READY context, and unless a context passed over 4,096 slots forces it, none that is READY
has a higher priority. A slot whose pick has a mapped program counter and a valid instruction runs that instruction: memory,
scalar registers and the program counter of the picked context come out as the instruction's own command leaves them. While
SEQ_CTRL.HALT_ISSUE is 1, or the island's share of issue slots of the run of 64 is used up, no context issues: memories, scalar and vector
registers, accumulators, outstanding instructions and every program counter stay (where no program counter leads nowhere, which faults). Where
the launch queue's next descriptor may start, issue is not halted and context c is FREE (the one named, or for "any" the lowest-
numbered), LAUNCH starts c at the entry address with the descriptor's priority, x1 to x4 as given, every other register zero,
predicates clear but p0. A fetched line with no error and no invalidation since stands in the instruction cache, while the island and
its stack's are ON and no zero-fill runs, and every thread that waited for it leaves WAIT. -/
def Obligations.IssueSlotsLaunchesAndFetches : Prop :=
  ((∀ (tile : TileId) (s : State) (c : Nat) (forced : Bool), (s.tileOf tile).reelOn = false →
        s.pickSlot tile = some (c, forced) → s.isReady tile c = true
          ∧ (forced = false → ∀ d : Nat, d < 128 → s.isReady tile d = true → (s.thr tile d).prio ≤ (s.thr tile c).prio)
          ∧ (forced = true → 4096 ≤ (s.thr tile c).passed))
      ∧ (∀ (tile : TileId) (ctx : CtxId) (s : State) (i : Instr) (w : Nat) (forced : Bool), s.tilePresent tile = true →
        s.runs (clusterOfTile tile) = true → ((s.reelSlot tile).fetchMisses tile).throttled (clusterOfTile tile) 0 = false →
        ((s.reelSlot tile).fetchMisses tile).pickSlot tile = some (ctx.val, forced) → s.nextWord tile ctx = some w →
        decodeTile tile ctx w = some i →
        let v := (((s.reelSlot tile).fetchMisses tile).passed (clusterOfTile tile) 0 true).stepTurn tile
        ∃ u t, exec i (if forced then v.count (bTile tile) .SEQ_STARVE else v) = .next u ∧ exec (.issueSlot tile) s = .next t
          ∧ t.mem = u.mem ∧ t.tile.xreg = u.tile.xreg ∧ t.tile.vreg = u.tile.vreg ∧ t.sync = u.sync ∧ t.regs = u.regs
          ∧ (t.thr tile ctx).pc = (u.thr tile ctx).pc ∧ (t.thr tile ctx).run = (u.thr tile ctx).run)
      ∧ ∀ (tile : TileId) (s : State),
        (s.flag (bTile tile) Fld.SEQ_CTRL_HALT_ISSUE = true ∨ s.throttled (clusterOfTile tile) 0 = true) →
        (∀ c : Nat, c < 128 → (s.thr tile c).run = .running → (s.thr tile c).hold = 0 → s.badPc tile c = false) →
        ∃ t, exec (.issueSlot tile) s = .next t ∧ t.mem = s.mem ∧ t.tile.xreg = s.tile.xreg ∧ t.tile.vreg = s.tile.vreg
          ∧ t.tile.acc = s.tile.acc ∧ t.sync = s.sync ∧ (t.tileOf tile).ops = (s.tileOf tile).ops
          ∧ ∀ c : Nat, c < 128 → (t.thr tile c).pc = (s.thr tile c).pc ∧ (t.thr tile c).run = (s.thr tile c).run)
    ∧ ((∀ (tile : TileId) (s : State) (n c : Nat) (d : List Byte), s.startable (State.tileQueue tile 3) = some (n, d) →
        s.flag (bTile tile) Fld.SEQ_CTRL_HALT_ISSUE = false → c < 128 → (s.thr tile c).run = .free →
        ((launchOf d).any = true → ∀ k : Nat, k < c → (s.thr tile k).run ≠ .free) →
        ((launchOf d).any = false → (launchOf d).context = c) →
        ∃ t, exec (.launch tile) s = .next t ∧ (t.thr tile c).run = .running
          ∧ (t.thr tile c).pc = BitVec.ofNat 52 (dbits d 0 52) ∧ (t.thr tile c).prio = dbits d 52 2
          ∧ (t.thr tile c).pred = 1#8 ∧ (t.thr tile c).pin = false ∧ (t.thr tile c).launched = true
          ∧ (∀ r : Nat, 0 < r → r < 32 →
              t.x tile c r = if r ≤ 4 then BitVec.ofNat 64 (dbits d (64 * (r + 1)) 64) else 0)
          ∧ (∀ k r : Nat, k < 128 → k ≠ c → r < 32 → t.x tile k r = s.x tile k r)
          ∧ (s.queue (State.tileQueue tile 3)).taken ≠ [] ∧ (t.queue (State.tileQueue tile 3)).taken = [])
      ∧ ∀ (tile : TileId) (line : BitVec 46) (s : State) (c : Nat), c < 128 → (s.thr tile c).hold = 3 →
        (s.thr tile c).pc.toNat / 64 = line.toNat → line.toNat ∉ (s.tileOf tile).discard → s.badIn (64 * line.toNat) 64 = [] →
        (s.tileOf tile).icache.length < 512 → s.runs (clusterOfTile tile) = true → s.memRuns (64 * line.toNat) 64 = true → s.flag (bTile tile) Fld.BANK_STATUS_CLEARING = false →
        ∃ t, exec (.ifetchFill tile line none) s = .next t ∧ (t.thr tile c).hold = 0
          ∧ Tbl.find? (t.tileOf tile).icache line.toNat = some (leNat (s.devBytes (64 * line.toNat) 64))
          ∧ t.mem = s.mem ∧ t.tile.xreg = s.tile.xreg ∧ t.regs = s.regs)

/-- An append to a queue with a ring, in append mode, with its consumer present and room takes the next sequence and waits to be
written; with no room a tile or firmware append changes nothing and a host append is counted and marked as an overflow; to
another queue it is refused and counted. The oldest slot write accepted, its stack ON, advances PROD by 1. A host doorbell to a queue in
doorbell mode with a ring and its consumer present moves PROD to its value where that is not behind PROD nor past the ring; a value behind
PROD leaves PROD and is counted as a clamp; one past the ring is counted so and moves PROD to CONS + 2^LOG2; to another queue it is
refused and counted, and nothing else changes. While BAR0 does not decode, an append and a doorbell of the host change nothing. A consumer
that has started the descriptor before, its slot's stack ON and its tile not due for a spare, takes the one at CONS (a launch with its
fields clamped) and CONS advances by 1; an update engine takes the one after those it holds, and CONS stays. -/
def Obligations.QueuesAcceptAppendAndDeliver : Prop :=
  ∀ (q : QueueId) (s : State),
    let c := s.queue q
    let open_ := c.mode = 0 ∧ c.log2 ≠ 0 ∧ s.consumerPresent q = true
    let rings := c.mode ≠ 0 ∧ c.log2 ≠ 0 ∧ s.consumerPresent q = true
    let others (t : State) : Prop := (∀ k : Nat, k ≠ q.val → t.queue k = s.queue k) ∧ t.mem = { s.mem with host := t.mem.host }
    (∀ (src : AppendSrc) (d : BitVec 512), (src = .host → s.barsDecode = true) → open_ → c.full = false →
        ∃ t, exec (.queueAppend q src d) s = .next t
        ∧ (∃ d' : List Byte, (t.queue q).writing = c.writing ++ [(decide (src = .host), d')] ∧ d'.length = 64 ∧ (c.kind ≠ 3 → leNat d' = d.toNat))
        ∧ (t.queue q).prod = c.prod ∧ (t.queue q).cons = c.cons ∧ t = { s with queues := t.queues } ∧ others t)
    ∧ (∀ (src : AppendSrc) (d : BitVec 512), (src = .host → s.barsDecode = true) → open_ → c.full = true →
        ∃ t, exec (.queueAppend q src d) s = .next t ∧ (src ≠ .host → t = s)
        ∧ (src = .host → t.queue q = { c with overflow := satAdd c.overflow 1, ovf := true }) ∧ t = { s with queues := t.queues } ∧ others t)
    ∧ (∀ (src : AppendSrc) (d : BitVec 512), (src = .host → s.barsDecode = true) → c.mode = 1 ∨ c.log2 = 0 ∨ s.consumerPresent q = false →
        ∃ t, exec (.queueAppend q src d) s = .next t ∧ t.queue q = { c with refused := satAdd c.refused 1 }
          ∧ t = { s with queues := t.queues } ∧ others t)
    ∧ (∀ (d : Bool × List Byte) (rest : List (Bool × List Byte)), c.writing = d :: rest → s.memRuns (c.slot c.prod.toNat) 64 = true →
        ∃ t, exec (.appendAccepted q) s = .next t
        ∧ t.queue q = { c with writing := rest, prod := c.prod + 1 } ∧ t.mem.scratch = s.mem.scratch
        ∧ (∀ k : Nat, k ≠ q.val → t.queue k = s.queue k))
    ∧ (∀ p : BitVec 32, s.barsDecode = true → rings →
        ((c.prod - c.cons).toNat ≤ (p - c.cons).toNat → (p - c.cons).toNat ≤ 2 ^ c.log2 →
          ∃ t, exec (.hostDoorbell q p) s = .next t ∧ t.queue q = { c with prod := p } ∧ others t)
        ∧ ((p - c.cons).toNat < (c.prod - c.cons).toNat →
          ∃ t, exec (.hostDoorbell q p) s = .next t ∧ t.queue q = { c with clamps := satAdd c.clamps 1 }
            ∧ t = { s with queues := t.queues } ∧ others t)
        ∧ ((c.prod - c.cons).toNat ≤ (p - c.cons).toNat → 2 ^ c.log2 < (p - c.cons).toNat →
          ∃ t, exec (.hostDoorbell q p) s = .next t
            ∧ t.queue q = { c with clamps := satAdd c.clamps 1, prod := c.cons + BitVec.ofNat 32 (2 ^ c.log2) } ∧ others t))
    ∧ (∀ p : BitVec 32, s.barsDecode = true → (c.mode = 0 ∨ c.log2 = 0 ∨ s.consumerPresent q = false) →
        ∃ t, exec (.hostDoorbell q p) s = .next t ∧ t.queue q = { c with refused := satAdd c.refused 1 }
          ∧ t = { s with queues := t.queues } ∧ others t)
    ∧ (s.barsDecode = false → (∀ d : BitVec 512, exec (.queueAppend q .host d) s = .next s) ∧ ∀ p : BitVec 32, exec (.hostDoorbell q p) s = .next s)
    ∧ (let n := if c.kind = 5 then c.cons + BitVec.ofNat 32 c.running.length else c.cons
       let raw := s.devBytes (c.slot n.toNat) 64
       c.prod ≠ n → c.taken = [] → s.memRuns (c.slot n.toNat) 64 = true →
        (s.launchesStopped q = false → ∃ t, exec (.queueDescriptorTake q) s = .next t
          ∧ (t.queue q).cons = (if c.kind = 5 then c.cons else c.cons + 1)
          ∧ (t.queue q).taken = [(n.toNat, if c.kind = 3 then (clampLaunch raw).1 else raw)]
          ∧ (t.queue q).prod = c.prod ∧ others t)
        ∧ (s.launchesStopped q = true → exec (.queueDescriptorTake q) s = .next s))

/-- A sampler not held with fewer than 4 descriptors, its share of admissions not used up, takes the next queue in turn: a descriptor
that passes its checks is in progress with all its hops to come and its header written, one that fails leaves with its status in SMP_ERR.
While its island is ON: an expansion of the next known parent takes a free slot, where no change of the island's state is under way and
the share is not used up; when its reads return, none of them and none of its records' places of a stack that is not ON, the slot frees,
the records drawn, or as many void ones where a read failed, stand at their positions of the trace, 16 bytes each, and nothing else of the
memory changes but host memory; so many fewer are to land of its hop. A hop whose records have all landed is complete, the header tells
so, and with the last one the descriptor leaves. GDINV empties the graph-descriptor cache. -/
def Obligations.SamplersWorkThroughTheirDescriptors : Prop :=
  ∀ (n : ClusterId) (s : State),
    (∀ (t seq : Nat) (d : List Byte), s.flag (bCluster n) Fld.SMP_CTRL_HOLD = false → (s.sampler n).active.length < 4 →
      s.throttled n 2 = false → s.smpNext n = some (t, seq, d) → ∃ u, exec (.samplerStart n) s = .next u ∧ (u.sampler n).turnQ = t
        ∧ (u.queue (State.tileQueue (16 * n + t) 0)).taken = []
        ∧ ((s.smpCheck n seq d).1 = 0 → ∃ k : SmpDesc, (u.sampler n).active = (s.sampler n).active ++ [k] ∧ k.tile = 16 * n + t
            ∧ k.seq = seq ∧ k.desc = d ∧ k.left = smpHops d ∧ k.hops = 0 ∧ k.next = 0
            ∧ u.mem = { (s.setDevBytes (smpTrace d) (smpHeader d 0 0 0 0)).mem with host := u.mem.host })
        ∧ ((s.smpCheck n seq d).1 ≠ 0 → u.flag (bCluster n) Fld.SMP_STATUS_ERR_SEEN = true
            ∧ (u.sampler n).active = (s.sampler n).active.filter fun k => k.id != (s.sampler n).nextId))
    ∧ (∀ (k : SmpDesc) (slot : Nat), s.flag (bCluster n) Fld.SMP_CTRL_HOLD = false → (s.sampler n).exps.length < 32 →
      (∀ j ∈ (s.sampler n).active, State.nextParent j ≠ some none) → s.expNext n = some (k, slot) → s.takesWork n = true →
      s.throttled n 2 = false →
      ∃ u, exec (.samplerExpansion n) s = .next u
        ∧ (u.sampler n).exps = (s.sampler n).exps ++ [((s.sampler n).nextId, k.id, slot)] ∧ (u.sampler n).turnD = k.id
        ∧ (∀ j ∈ (s.sampler n).active, { j with next := if j.id = k.id then j.next + 1 else j.next } ∈ (u.sampler n).active)
        ∧ u.mem = s.mem ∧ u.regs = s.regs)
    ∧ (∀ (exp id slot : Nat) (order : List Nat) (k : SmpDesc), (s.sampler n).exps.find? (fun e => e.1 == exp) = some (exp, id, slot) →
      s.smpJob n id = some k → s.runs n = true → s.expHeld k slot order = false → ∃ u, exec (.samplerReadReturn n exp order) s = .next u
        ∧ (u.sampler n).exps = ((s.sampler n).exps.filter fun e => e.1 != exp)
        ∧ (u.sampler n).active.map SmpDesc.id = (s.sampler n).active.map SmpDesc.id
        ∧ (let h := State.hopOf k.desc slot
           let recs : List Rec := match ((s.drawSlot k slot order).run.run Tally.none).1 with
             | .ok rs => rs
             | .error _ => List.replicate (smpF k.desc h) none
           let place (i : Nat) : Nat := smpTrace k.desc + 64 + 16 * (State.firstPos k.desc slot + i)
           let dest := if smpMode k.desc = 4 then slot / smpFan k.desc 1 else slot
           u.mem = { ((recs.zip (List.range recs.length)).foldl (fun v e => v.setDevBytes (place e.2) (State.recordBytes dest h e.1)) s).mem
             with host := u.mem.host }
           ∧ ∀ k' : SmpDesc, u.smpJob n id = some k' → k'.left = k.left.set (h - 1) (k.left.getD (h - 1) 0 - recs.length)
               ∧ k'.voids = k.voids + (recs.filter Option.isNone).length ∧ k'.hops = k.hops))
    ∧ (∀ (id : Nat) (k : SmpDesc), s.smpJob n id = some k → k.left.getD k.hops 0 = 0 → k.hops < smpDepth k.desc → s.runs n = true →
      s.memRuns (smpTrace k.desc) 64 = true → ∃ u, exec (.hopComplete n id) s = .next u
        ∧ (k.hops + 1 < smpDepth k.desc → u.smpJob n id = some { k with hops := k.hops + 1 }
            ∧ u.mem = { (s.setDevBytes (smpTrace k.desc) (smpHeader k.desc 0 (k.hops + 1) 0 0)).mem with host := u.mem.host })
        ∧ (k.hops + 1 = smpDepth k.desc → u.smpJob n id = none
            ∧ (k.err = true → u.flag (bCluster n) Fld.SMP_STATUS_ERR_SEEN = true)))
    ∧ (s.blkHeld (bCluster n) = false → ∃ u, exec (.gdinv n .control) s = .next u ∧ (u.sampler n).cache = []
        ∧ (u.sampler n).active = (s.sampler n).active ∧ u.mem = s.mem ∧ u.regs = s.regs)

/-- A gather/scatter engine not held with fewer than 4 descriptors, its share of admissions not used up, takes the next queue in turn: a
descriptor with entries that passes its checks is in progress with nothing admitted, one that fails leaves with its status reported.
While the engine's island is ON: the only descriptor in progress, if it can admit, no change of the island's state is under way and the
share is not used up, admits its next entry. A descriptor whose flush is due has it made. A chunk of entries that has
landed is signalled. A descriptor with nothing left to do leaves, and its completion counter is 1 higher. -/
def Obligations.GatherScatterDescriptorsRunToCompletion : Prop :=
  ∀ (n : ClusterId) (s : State),
    (∀ (t seq : Nat) (d : List Byte), s.flag (bCluster n) Fld.GS_CTRL_HOLD = false → (s.gather n).active.length < 4 →
      s.throttled n 2 = false → s.gsNext n = some (t, seq, d) → ∃ u, exec (.gsDescriptorStart n) s = .next u ∧ (u.gather n).turnQ = t
        ∧ (u.queue (State.tileQueue (16 * n + t) 1)).taken = []
        ∧ (s.gsCheck (gsOf d) = 0 → 0 < (gsOf d).count →
            (u.gather n).active.map (fun k => (k.id, k.tile, k.seq, k.d, k.admitted, k.waiting))
              = ((s.gather n).active.map fun k => (k.id, k.tile, k.seq, k.d, k.admitted, k.waiting))
                ++ [((s.gather n).nextId, 16 * n + t, seq, gsOf d, 0, [])])
        ∧ (s.gsCheck (gsOf d) ≠ 0 → u.flag (bCluster n) Fld.GS_STATUS_ERR_SEEN = true
            ∧ (u.gather n).active = (s.gather n).active.filter fun k => k.id != (s.gather n).nextId))
    ∧ (∀ (k : GsDesc) (wo wp : Nat), s.flag (bCluster n) Fld.GS_CTRL_HOLD = false → (s.gather n).active = [k] →
      s.canAdmit n k = true → s.takesWork n = true → s.throttled n 2 = false → ∃ u, exec (.gsAdmit n wo wp) s = .next u
        ∧ (∃ k' : GsDesc, (u.gather n).active = [k'] ∧ k'.admitted = k.admitted + 1 ∧ k'.d = k.d ∧ k'.id = k.id)
        ∧ (u.gather n).turnD = k.id ∧ u.mem.dev = s.mem.dev)
    ∧ (∀ (id : Nat) (k : GsDesc), s.gsDesc n id = some k → k.d.flush = true → k.admitted = k.d.count → k.flushed = false → s.runs n = true →
      ∃ u, exec (.gsFlushEnd n id) s = .next u ∧ (∃ k' : GsDesc, u.gsDesc n id = some k' ∧ k'.flushed = true ∧ k'.admitted = k.admitted)
        ∧ u.mem = s.mem ∧ u.regs = s.regs)
    ∧ (∀ (id : Nat) (k : GsDesc), s.gsDesc n id = some k → k.sent < State.gsChunks k.d →
      min k.d.count ((k.sent + 1) * k.d.chunk) ≤ k.admitted → (∀ p ∈ k.waiting, min k.d.count ((k.sent + 1) * k.d.chunk) ≤ p) → s.runs n = true →
      ∃ u, exec (.gsProgress n id) s = .next u ∧ (∃ k' : GsDesc, u.gsDesc n id = some k' ∧ k'.sent = k.sent + 1)
        ∧ (∀ c : Nat, k.d.progress = some c → c ≤ 2818047 → (s.counterOf c).abandoned = false →
            (s.counterOf c).value < 2 ^ 32 - 1 → (u.counterOf c).value = (s.counterOf c).value + 1))
    ∧ ∀ (id : Nat) (k : GsDesc), s.gsDesc n id = some k → State.gsOver k = true → s.runs n = true → ∃ u, exec (.gsDone n id) s = .next u
        ∧ (u.gather n).active = ((s.gather n).active.filter fun j => j.id != id)
        ∧ (∀ c : Nat, k.d.done = some c → k.d.progress = none → c ≤ 2818047 → (s.counterOf c).abandoned = false →
            (s.counterOf c).value < 2 ^ 32 - 1 → (u.counterOf c).value = (s.counterOf c).value + 1)

/-- While the engine's island is ON: where a slot is free and an entry can issue (no earlier entry of the other kind that overlaps it,
its scratch served, its bank below the quota), exactly one more entry is issued and no memory changes but for the event records of
scratch words that fail their check. A gather read that returns, unharmed and served, its stacks ON, leaves the row's bytes at the scratch address
of its only reference, leaves device memory, and frees its entry. A granule of an issued scatter entry is added element by element
at memory, each element being the rounded sum of what stood there and the entry's sum. An entry with no granule left and no line of
its own being filled frees; what joins the window as one frees are flushes that were due. Of an engine whose island is not in HOLD: At the end of a count window the counts of
the candidate rows are zero and the threshold and window of GS_HOT are in force. A flush is due of every hot entry that holds a
contribution, with an entry of the window that waits to be issued where the window has room, a fresh one where none was due before.
HOT_EN at 0 does so and clears the candidate table, so that no hot entry takes another contribution; HOT_EN at 1 only sets the
bit. -/
def Obligations.WindowAndHotEntriesIssueLandAndFlush : Prop :=
  (∀ (n : ClusterId) (s : State), s.runs n = true →
      let freed (u : State) (id : Nat) : Prop := ∃ fl : List GsEntry, (∀ x ∈ fl, x.hot ≠ none ∧ x.issued = false)
        ∧ (u.gather n).window = ((s.gather n).window.filter fun x => x.id != id) ++ fl
      (∀ wo wp : Nat, (s.flag (bCluster n) Fld.GS_CTRL_HOLD = false) → ((s.gather n).window.map GsEntry.id).Nodup →
        ((s.gather n).window.filter GsEntry.issued).length < 1024 →
        (∃ e ∈ (s.gather n).window, e.issued = false ∧ State.behind (s.gather n) e = false ∧ s.issueServed n e = true
          ∧ s.bankSlots (s.gather n) (s.sortKey e.addr).2 < clampTo 1 1024 (s.getF (bCluster n) Fld.GS_QUOTA_QUOTA)) →
        ∃ u, exec (.gsIssue ⟨n, wo, wp⟩) s = .next u ∧ u.mem = { s.mem with host := u.mem.host }
          ∧ (s.mem.badScratch = [] → u.mem = s.mem)
          ∧ (u.gather n).window.map GsEntry.id = (s.gather n).window.map GsEntry.id
          ∧ ((u.gather n).window.filter GsEntry.issued).length = ((s.gather n).window.filter GsEntry.issued).length + 1)
      ∧ (∀ (e : GsEntry) (r : GsRef) (wo wp : Nat), (s.gather n).window.find? (fun x => x.id == e.id && x.issued && !x.scatter) = some e →
        e.refs = [r] → e.scSize = 0 → s.badIn e.addr e.size = [] → e.data = none → r.rowIn = [] → r.row + e.size ≤ 0x40000 →
        s.memRuns e.addr e.size = true → s.memRuns e.scAddr 0 = true →
        (∃ k : GsDesc, s.gsDesc n r.desc = some k ∧ s.banksServe r.tile r.row e.size 4 0 (State.gsTok k) = true) →
        ∃ u, exec (.gatherReadReturn n e.id wo wp) s = .next u
          ∧ Memory.readBytes u.mem.scratch (State.scratchKey r.tile r.row) e.size = s.devBytes e.addr e.size
          ∧ (∀ k : Nat, (k < State.scratchKey r.tile r.row ∨ State.scratchKey r.tile r.row + e.size ≤ k) →
              Memory.read u.mem.scratch k = Memory.read s.mem.scratch k)
          ∧ u.mem.dev = s.mem.dev ∧ freed u e.id)
      ∧ (∀ (e : GsEntry) (g : BitVec 52) (k o i : Nat), (s.gather n).window.find? (fun x => x.id == e.id && x.issued && x.scatter) = some e →
        g.toNat ∈ e.todo → s.memRuns g.toNat 64 = true → s.target g.toNat = .fast k o → s.badIn g.toNat 64 = [] → g.toNat % 64 = 0 → e.addr % 4 = 0 →
        (hi : i < e.sum.length) → (e.addr + 4 * i) / 64 * 64 = g.toNat →
        ∃ u, exec (.memoryAdd n e.id g) s = .next u
          ∧ u.devNat (e.addr + 4 * i) 4 = (fadd (BitVec.ofNat 32 (s.devNat (e.addr + 4 * i) 4)) e.sum[i]).toNat
          ∧ u.mem.scratch = s.mem.scratch
          ∧ ∀ x ∈ (u.gather n).window, x.id = e.id → g.toNat ∉ x.todo)
      ∧ ∀ e : GsEntry, (s.gather n).window.find? (fun x => x.id == e.id && x.issued && x.scatter) = some e → s.addApplied e = true →
        ∃ u, exec (.scatterAddApplied n e.id) s = .next u ∧ u.mem = s.mem ∧ freed u e.id)
    ∧ (∀ (n : ClusterId) (s : State),
      let g := s.gather n
      let flushed (u : State) : Prop := ∀ h ∈ g.hot, h.used = true → ∃ id : Nat,
        (∃ h' ∈ (u.gather n).hot, h'.id = h.id ∧ h'.due = some id ∧ h'.sum = h.sum ∧ h'.used = true)
        ∧ (g.window.length + g.hot.length ≤ 4096 → (∃ e ∈ (u.gather n).window, e.id = id)
          ∧ ((∀ x ∈ g.window, x.id < g.nextId) → (∀ x ∈ g.hot, ∀ d ∈ x.due, d < g.nextId) → h.due = none →
            ∃ e ∈ (u.gather n).window, e.id = id ∧ e.hot = some h.id ∧ e.issued = false ∧ e.addr = h.addr ∧ e.size = h.size))
      (2 ^ (s.gather n).log ≤ (s.gather n).counted → ∃ u, exec (.hotCountWindowEnd n) s = .next u ∧ (u.gather n).counted = 0
          ∧ (∀ c ∈ (u.gather n).cand, c.2.2 = 0) ∧ (u.gather n).thresh = s.getF (bCluster n) Fld.GS_HOT_THRESH
          ∧ (u.gather n).log = s.getF (bCluster n) Fld.GS_HOT_WINDOW_LOG ∧ (u.gather n).window = (s.gather n).window ∧ u.mem = s.mem)
      ∧ (s.blkHeld (bCluster n) = false → ∃ u, exec (.hotFlushWrite n .control) s = .next u ∧ flushed u ∧ u.mem = s.mem ∧ u.regs = s.regs
          ∧ (u.gather n).hot.map (fun h => { h with due := none }) = g.hot.map fun h => { h with due := none })
      ∧ (s.blkHeld (bCluster n) = false → ∃ u, exec (.hotEnWrite n .control false) s = .next u ∧ flushed u ∧ u.flag (bCluster n) Fld.GS_CTRL_HOT_EN = false
          ∧ (u.gather n).cand = [] ∧ (∀ h ∈ (u.gather n).hot, h.closed = true) ∧ u.mem = s.mem)
      ∧ (s.blkHeld (bCluster n) = false → ∃ u, exec (.hotEnWrite n .control true) s = .next u
          ∧ u.flag (bCluster n) Fld.GS_CTRL_HOT_EN = true ∧ u.gs = s.gs ∧ u.mem = s.mem))

/-- A region's owner logic not held with fewer than 16 descriptors takes the next queue in turn: a descriptor with bags that
passes its checks is in progress, one that fails is reported in EMB_STATUS. While the region's island is ON: a request pooled at an
owner of this module whose island is ON leaves one partial of its bag and part; one without an owner leaves an empty partial and an
error; for one that another module serves its reply is taken and is the partial (what a reply holds is the model's choice, log entry
102), and until a reply has come it waits. A partial combined leaves the list; the last one of a bag, while the tile's banks serve the
write, finishes the bag and leaves device memory. A request of a gradient descriptor that no update holds and whose gradients the
tile's banks serve is summed where the owner is of this module, and is else sent and waits for its reply; scratch memory stays. A
request held by an update waits. A descriptor with nothing left to do leaves. A request of another module is taken off the region's
arrivals, or, a contribution that an update holds, waits; it leaves the region's own descriptors and scratch memory. -/
def Obligations.LookupDescriptorsRunToCompletion : Prop :=
  ∀ (n : RegionId) (s : State),
    (∀ (t seq : Nat) (b : List Byte), s.flag (bRegion n) Fld.EMB_CTRL_HOLD = false → (s.embReg n).active.length < 16 →
      s.throttled (672 + n) 2 = false → s.embNext n = some (t, seq, b) → ∃ u, exec (.lookupStart n) s = .next u ∧ (u.embReg n).turnQ = t
        ∧ (u.queue (State.tileQueue (896 * n + t) 2)).taken = []
        ∧ (let read (on : Bool) (a : Nat) : TableD := tableOf (if on && s.tableNamed a then s.devBytes a 128 else [])
           let tb := read true (embOf b).table
           let part (a : Nat) : TableD := read (tb.map == 2) a
           (s.embCheck (embOf b) tb (part tb.rowBase) (part tb.slowBase) = 0 → 0 < (embOf b).bags →
              ((u.embReg n).active.map fun k => (k.tile, k.seq)) = ((s.embReg n).active.map fun k => (k.tile, k.seq)) ++ [(896 * n + t, seq)])
            ∧ (s.embCheck (embOf b) tb (part tb.rowBase) (part tb.slowBase) ≠ 0 →
              u.flag (bRegion n) Fld.EMB_STATUS_ERR_SEEN = true)))
    ∧ (s.runs (672 + n) = true →
      let arrivals (u : State) (m : Nat) : Prop := (u.embReg n).inbox = (s.embReg n).inbox.eraseIdx m
      (∀ (job i : Nat) (order : List Nat) (answer positions : List Half) (count : Nat) (failed : Bool) (k : EmbJob) (q : EmbReq),
        s.embJob n job = some k → k.d.backward = false → k.todo[i]? = some q →
        let pool := Instr.ownerPool n job i order answer positions count failed none
        let reply := s.mailOf n ((q.owner - 16) / 16) (order.headD 0)
        let tabs := State.tabsOf k
        let needs := s.poolNeeds tabs.1 tabs.2.1 tabs.2.2 k.d.pool (q.entries.map fun e => e.2.2)
        let here := s.rowsHere q.owner tabs.1.slowBase needs
        let unasked := needs.filter fun x => (s.fetchOf q.owner tabs.1.slowBase x.1).isNone
        let pooled (u : State) (holds : EmbPartial → EmbJob → Prop) : Prop :=
          ∃ (k' : EmbJob) (p : EmbPartial), u.embJob n job = some k' ∧ k'.todo = k.todo.eraseIdx i ∧ k'.ready = k.ready ++ [p]
            ∧ p.bag = q.bag ∧ p.part = q.part ∧ k'.bags = k.bags ∧ k'.left = k.left ∧ holds p k'
        (q.owner < 12 → s.runs (672 + q.owner) = true → here = true → ∃ u, exec pool s = .next u ∧ pooled u fun _ _ => True)
        ∧ (q.owner < 12 → s.runs (672 + q.owner) = true → here = false → unasked ≠ [] → ∃ u, exec pool s = .next u
            ∧ (u.embReg q.owner).fetches = (s.embReg q.owner).fetches ++ unasked.map (fun x => ⟨tabs.1.slowBase, x.1, x.2.1, false, none⟩)
            ∧ u.embJob n job = some k ∧ u.mem = s.mem)
        ∧ (12 ≤ q.owner → q.owner < 16 → ∃ u, exec pool s = .next u
            ∧ pooled u fun p k' => p = ⟨q.bag, q.part, [], [], 0⟩ ∧ k'.status = 2)
        ∧ (16 ≤ q.owner → ∀ m : Nat, reply = some m → ∃ u, exec pool s = .next u ∧ arrivals u m
            ∧ pooled u fun p k' => p = ⟨q.bag, q.part, answer, positions, count⟩ ∧ k'.status = if failed then 2 else k.status)
        ∧ (16 ≤ q.owner → reply = none → exec pool s = .next s))
      ∧ (∀ (job i wo wp : Nat) (k : EmbJob) (p : EmbPartial), s.embJob n job = some k → k.ready[i]? = some p → p.part < 2 →
        let left (part : Nat) : Nat := (Tbl.get (fun _ => BagAcc.reset) k.bags (2 * p.bag + part)).left
        (2 ≤ left p.part → ∃ u, exec (.partialCombine n job i wo wp) s = .next u ∧ u.mem = s.mem ∧ u.regs = s.regs
          ∧ ∃ k' : EmbJob, u.embJob n job = some k' ∧ k'.ready = k.ready.eraseIdx i ∧ k'.todo = k.todo
            ∧ (Tbl.get (fun _ => BagAcc.reset) k'.bags (2 * p.bag + p.part)).left + 1 = left p.part)
        ∧ (left p.part ≤ 1 → left (1 - p.part) = 0 →
          (∀ b : Nat, b < 4 → s.bankServes k.tile b 4 0 (State.embTok k) = true) →
          ∃ u, exec (.partialCombine n job i wo wp) s = .next u ∧ u.mem.dev = s.mem.dev
            ∧ ∃ k' : EmbJob, u.embJob n job = some k' ∧ k'.ready = k.ready.eraseIdx i ∧ p.bag ∉ k'.left ∧ k'.todo = k.todo))
      ∧ (∀ (job : Nat) (e : EmbBeat) (order : List Nat) (k : EmbJob) (q : EmbReq), s.embJob n job = some k → k.d.backward = true →
        k.todo[e.index]? = some q →
        let row := Instr.gradientContribution n job e order none
        let tabs := State.tabsOf k
        let here := s.rowsHere q.owner tabs.1.slowBase (s.gradNeeds tabs.1 tabs.2.1 tabs.2.2 q.part (q.entries.map fun e => e.2.2))
        let becomes (u : State) (todo : List EmbReq) : Prop :=
          ∃ k' : EmbJob, u.embJob n job = some k' ∧ k'.todo = todo ∧ k'.ready = k.ready ∧ k'.left = k.left
        (q.sent = false → s.tableHeld q.owner (State.reqTable k q.part) = false → (q.owner < 12 → s.runs (672 + q.owner) = true ∧ here = true) →
          (∀ b : Nat, b < 4 → s.bankServes k.tile b 4 0 (State.embTok k) = true) →
          ∃ u, exec row s = .next u ∧ u.mem.scratch = s.mem.scratch
            ∧ becomes u (if q.owner < 16 then k.todo.eraseIdx e.index else k.todo.set e.index { q with sent := true }))
        ∧ (q.sent = false → s.tableHeld q.owner (State.reqTable k q.part) = true → exec row s = .next s)
        ∧ (q.sent = true → ∀ m : Nat, s.mailOf n ((q.owner - 16) / 16) (order.headD 0) = some m →
          ∃ u, exec row s = .next u ∧ arrivals u m ∧ u.mem = s.mem ∧ becomes u (k.todo.eraseIdx e.index))
        ∧ (q.sent = true → s.mailOf n ((q.owner - 16) / 16) (order.headD 0) = none → exec row s = .next s))
      ∧ (∀ (job : Nat) (e : EmbBeat) (order : List Nat) (answer positions : List Half) (count : Nat) (failed : Bool) (q : EmbRemote),
        let pool := Instr.ownerPool n job e.index order answer positions count failed (some q)
        let row := Instr.gradientContribution n job e order (some q)
        let tabs := s.tablesAt q.table.toNat
        let is := q.entries.map fun e => e.2.1
        let pools := s.rowsHere n tabs.1.slowBase (s.poolNeeds tabs.1 tabs.2.1 tabs.2.2 q.pool is)
        let adds := s.rowsHere n tabs.1.slowBase (s.gradNeeds tabs.1 tabs.2.1 tabs.2.2 q.part is)
        let held := s.tableHeld n (State.partAt (s.tablesAt q.table.toNat).1 q.table.toNat q.part)
        let served (c : Instr) : Prop := ∃ u, exec c s = .next u ∧ arrivals u e.index ∧ (u.embReg n).active = (s.embReg n).active
          ∧ u.mem.scratch = s.mem.scratch
        (e.index < (s.embReg n).inbox.length → (pools = true → served pool) ∧ (held = false → adds = true → served row) ∧ (held = true → exec row s = .next s))
        ∧ ((s.embReg n).inbox.length ≤ e.index → exec pool s = .next s ∧ exec row s = .next s))
      ∧ ∀ (job : Nat) (k : EmbJob), s.embJob n job = some k → k.todo = [] → k.ready = [] → k.left = [] →
        ∃ u, exec (.lookupDone n job) s = .next u ∧ (u.embReg n).active = ((s.embReg n).active.filter fun j => j.id != job)
          ∧ (∀ c : Nat, k.d.done = some c → c ≤ 2818047 → (s.counterOf c).abandoned = false →
              (s.counterOf c).value < 2 ^ 32 - 1 → (u.counterOf c).value = (s.counterOf c).value + 1)
          ∧ (k.status ≠ 0 → u.flag (bRegion n) Fld.EMB_STATUS_ERR_SEEN = true))

/-- While the stack's island is ON: a write within one line at a fast-tier address leaves its bytes in memory, and every other byte of the
tiers, of scratch and of the host as before; a read of good granules changes no memory, and none is served before the tiers have been
cleared (R557). An access that neither finds its line nor writes it whole, with no fill of the line in flight, puts one fill in flight. An
add adds. A fill that lands leaves the list and its line is present; no stored byte changes, and no memory where no word of a dirty line
fails its check. A stream's next line is put in flight as a prefetch. -/
def Obligations.StackAccessesReachMemory : Prop :=
  ∀ s : State,
    (∀ (addr : BitVec 52) (data : List Byte) (len r o : Nat), s.target addr.toNat = .fast r o → data ≠ [] →
      o % 128 + data.length ≤ 128 → s.runs (672 + r) = true → ∃ u, exec (.stackAccess addr .write data len) s = .next u
        ∧ Memory.readBytes u.mem.dev (r * 2 ^ 35 + o) data.length = data
        ∧ (∀ k : Nat, (k < r * 2 ^ 35 + o ∨ r * 2 ^ 35 + o + data.length ≤ k) → Memory.read u.mem.dev k = Memory.read s.mem.dev k)
        ∧ u.mem.scratch = s.mem.scratch ∧ u.mem.host = s.mem.host ∧ u.emb = s.emb ∧ u.tile = s.tile)
    ∧ (∀ (addr : BitVec 52) (data : List Byte) (len r o : Nat), s.target addr.toNat = .fast r o → 0 < len → o % 128 + len ≤ 128 →
      (s.rot.cleared = false → exec (.stackAccess addr .read data len) s = .next s)
      ∧ (s.rot.cleared = true → s.badIn addr.toNat len = [] → s.runs (672 + r) = true →
        ∃ u, exec (.stackAccess addr .read data len) s = .next u ∧ u.mem = s.mem
        ∧ (State.findWay (s.ctl r) o = none → (∀ f ∈ (s.ctl r).fills, f.line ≠ o / 128) →
            (u.ctl r).fills = (s.ctl r).fills ++ [⟨o / 128, s.classAt r addr.toNat, false, false, true, false,
              s.darOf r (s.classAt r addr.toNat)⟩])))
    ∧ (∀ (addr : BitVec 52) (v : Half) (len r o : Nat), s.target addr.toNat = .fast r o → o % 4 = 0 → s.badIn addr.toNat 4 = [] →
      s.runs (672 + r) = true → ∃ u, exec (.stackAccess addr .add (leBytes 4 v.toNat) len) s = .next u
        ∧ Memory.readLE u.mem.dev (r * 2 ^ 35 + o) 4 = (fadd (BitVec.ofNat 32 (Memory.readLE s.mem.dev (r * 2 ^ 35 + o) 4)) v).toNat)
    ∧ (∀ (r : RegionId) (f : Fill),
      let landed (u : State) (f : Fill) : Prop := (u.ctl r).fills = ((s.ctl r).fills.filter fun g => g.line != f.line)
        ∧ (State.findWay (u.ctl r) (f.line * 128)).isSome ∧ u.mem.dev = s.mem.dev ∧ u.mem.scratch = s.mem.scratch
        ∧ (s.mem.badWords = [] → u.mem = s.mem)
      s.runs (672 + r) = true → State.victim (s.ctl r) (setOf (f.line * 128)) ≠ none →
      ((s.ctl r).fills.find? (fun g => g.line == f.line && !g.pre) = some f →
        ∃ u, exec (.cacheFill r f.line) s = .next u ∧ landed u f)
      ∧ ((s.ctl r).fills.find? (fun g => g.line == f.line && g.pre) = some f →
        ∃ u, exec (.prefetchFill r f.line) s = .next u ∧ landed u f))
    ∧ ∀ (r : RegionId) (i l : Nat) (t : Stream), (s.ctl r).streams[i]? = some t → s.streamNext r t = some l →
      s.flag (bSc r) Fld.SC_CTRL_PF_EN = true → s.runs (672 + r) = true →
      (∃ u, exec (.prefetchIssue r i false) s = .next u ∧ u.mem = s.mem
        ∧ (u.ctl r).fills = (s.ctl r).fills ++ [⟨l, t.cls, false, true, false, false, false⟩])
      ∧ ∃ u, exec (.prefetchIssue r i true) s = .next u ∧ u.mem = s.mem ∧ u.ms = s.ms

/-- A slow-tier write within one granule leaves its bytes in memory, its granule in the controller's write buffer, and every
other byte as before; a read of good granules changes no memory, nor does one before the tiers have been cleared (R557). With the host
link up a host-window write leaves its bytes in host memory; while it is down they wait, in their order (the model's choice, log entry
119). A host-window read is in flight under a tag of its own, until it completes: with data nothing else changes, with an error or
timeout an error is recorded; while 768 are in flight the next one waits (R513). MEM_MAP is written only by the control complex and while
no job is open, clamped to 32 GiB. PF_EN and SC_PIN, of a block that is not in HOLD, take the values the control complex writes; clearing
PF_EN closes the streams; while no job is open the pin is in force at once, else a change of it waits for the step boundary (R37). -/
def Obligations.SlowTierAndHostWindowAccessesTakeEffect : Prop :=
  ∀ s : State,
    (∀ (addr : BitVec 52) (data : List Byte) (len drained o : Nat), s.target addr.toNat = .slow o →
      (data ≠ [] → addr.toNat % 64 + data.length ≤ 64 → ∃ u, exec (.slowTierAccess addr true data len drained) s = .next u
        ∧ Memory.readBytes u.mem.dev addr.toNat data.length = data
        ∧ (∀ k : Nat, (k < addr.toNat ∨ addr.toNat + data.length ≤ k) → Memory.read u.mem.dev k = Memory.read s.mem.dev k)
        ∧ addr.toNat / 64 ∈ Tbl.get (fun _ => []) u.ms.slow (o / 4096 % 6) ∧ u.mem.scratch = s.mem.scratch ∧ u.mem.host = s.mem.host
        ∧ u.regs = s.regs)
      ∧ (s.badIn addr.toNat len = [] ∨ s.rot.cleared = false → ∃ u, exec (.slowTierAccess addr false data len drained) s = .next u
        ∧ u.mem = s.mem ∧ u.regs = s.regs ∧ u.err = s.err))
    ∧ (∀ (addr : BitVec 52) (data : List Byte) (o : Nat), s.target addr.toNat = .host o →
      (State.inHost addr.toNat data.length = true → s.hostAddr o + data.length ≤ 2 ^ 64 → s.hostUp = true →
        ∃ u, exec (.hostWindowAccess addr true data) s = .next u ∧ Memory.readBytes u.mem.host (s.hostAddr o) data.length = data
        ∧ (∀ k : Nat, (k < s.hostAddr o ∨ s.hostAddr o + data.length ≤ k) → Memory.read u.mem.host k = Memory.read s.mem.host k)
        ∧ u.mem.dev = s.mem.dev ∧ u.mem.scratch = s.mem.scratch ∧ u.ms = s.ms)
      ∧ (State.inHost addr.toNat data.length = true → s.hostUp = false →
        ∃ u, exec (.hostWindowAccess addr true data) s = .next u ∧ u.mem = s.mem ∧ u.ms = s.ms
          ∧ u.hl.posted = s.hl.posted ++ (data.zip (upFrom 0 data.length)).map fun e => (s.hostAddr (o + e.2), [e.1], none))
      ∧ (s.ms.hostReads.length < 768 → ∃ (u : State) (tag : Nat), exec (.hostWindowAccess addr false data) s = .next u
        ∧ u.ms.hostReads = s.ms.hostReads ++ [(tag, o)] ∧ (∀ x ∈ s.ms.hostReads, x.1 ≠ tag) ∧ u.mem = s.mem ∧ u.regs = s.regs)
      ∧ (768 ≤ s.ms.hostReads.length → exec (.hostWindowAccess addr false data) s = .next s))
    ∧ (∀ (tag : Nat) (how : Fin 3), tag ∈ s.ms.hostReads.map Prod.fst → ∃ u, exec (.hostReadCompletion tag how) s = .next u
      ∧ u.ms.hostReads = (s.ms.hostReads.filter fun t => t.1 != tag) ∧ u.mem.dev = s.mem.dev
      ∧ (how = 0 → s.hostUp = true → u.regs = s.regs ∧ u.err = s.err) ∧ (how ≠ 0 ∨ s.hostUp = false → u.err.lastUe ≠ none))
    ∧ (∀ (w : Writer) (v : BitVec 32), (s.job.phase ≠ 0 ∨ s.controls w = false → exec (.memMapWrite w v) s = .next s)
      ∧ (s.job.phase = 0 → s.controls w = true → ∃ u, exec (.memMapWrite w v) s = .next u
        ∧ u.getF bPackage Fld.MEM_MAP_IL_GIB = min 32 (v.toNat % 64) ∧ s.sameRegs u (oneReg bPackage .MEM_MAP) ∧ u.mem = s.mem))
    ∧ ∀ (r : RegionId) (w : Writer) (en : Bool),
      (s.controls w = true → s.blkHeld (bSc r) = false →
        (∃ u, exec (.pfEnWrite r w en) s = .next u ∧ u.flag (bSc r) Fld.SC_CTRL_PF_EN = en ∧ u.mem = s.mem
          ∧ (u.ctl r).streams = (if en then (s.ctl r).streams else []) ∧ (u.ctl r).lines = (s.ctl r).lines)
        ∧ ∃ u, exec (.scPinWrite r w en) s = .next u ∧ u.flag (bSc r) Fld.SC_PIN_EN = en
          ∧ u.mem.dev = s.mem.dev ∧ u.mem.scratch = s.mem.scratch ∧ u.mem.host = s.mem.host
          ∧ (s.job.phase ≠ 0 → u.ms = s.ms ∧ u.mem = s.mem ∧ (en = (s.ctl r).pin → u.job.due = s.job.due.erase (.pin r))
              ∧ (en ≠ (s.ctl r).pin → Due.pin r ∈ u.job.due))
          ∧ (s.job.phase = 0 → (u.ctl r).pin = en))
      ∧ (s.controls w = false ∨ s.blkHeld (bSc r) = true →
        exec (.pfEnWrite r w en) s = .next s ∧ exec (.scPinWrite r w en) s = .next s)

/-- An engine not held, nor throttled (R532), with fewer than two descriptors in progress takes the head of its FIFO or of the queue whose
turn it is: a descriptor that passes its checks and has something to move is in progress, one that fails is reported in DMA_STATUS. While
the region's island and the stacks it reads and writes are ON, the end of a descriptor whose banks serve it takes it off the list and
signals its counter; a descriptor that writes scratch leaves the tiers and one that writes device memory leaves scratch. A copy of one row
from device memory to scratch leaves exactly the source bytes as they are read at the destination and every other byte of scratch as
before. -/
def Obligations.DmaDescriptorsMoveTheirBytes : Prop :=
  ∀ (e : DmaId) (s : State),
    (∀ k : Nat, s.flag (bDma e) Fld.DMA_CTRL_HOLD = false → (s.dmaEng e).active.length < 2 → s.throttled (672 + e / 4) 2 = false →
      s.dmaNext e = some k →
      ∃ u, exec (.dmaStart e) s = .next u ∧ (u.dmaEng e).turn = k
        ∧ (∀ (n : Nat) (b : List Byte) (rest : List (Nat × List Byte)), k = 0 → (s.dmaEng e).fifo = (n, b) :: rest →
            (u.dmaEng e).fifo = rest
            ∧ (s.dmaCheck (e.val / 4) (dmaOf b) = 0 → State.dmaEmpty (dmaOf b) = false →
                (u.dmaEng e).active = (s.dmaEng e).active ++ [⟨(s.dmaEng e).nextId, none, n, dmaOf b, 0⟩])
            ∧ (s.dmaCheck (e.val / 4) (dmaOf b) ≠ 0 → u.flag (bDma e) Fld.DMA_STATUS_ERR_SEEN = true))
        ∧ ∀ (q n : Nat) (b : List Byte), k = q + 1 → s.startable q = some (n, b) → (u.queue q).taken = []
            ∧ (s.dmaCheck (e.val / 4) (dmaOf b) = 0 → State.dmaEmpty (dmaOf b) = false →
                (u.dmaEng e).active = (s.dmaEng e).active ++ [⟨(s.dmaEng e).nextId, some q, n, dmaOf b, 0⟩])
            ∧ (s.dmaCheck (e.val / 4) (dmaOf b) ≠ 0 → u.flag (bDma e) Fld.DMA_STATUS_ERR_SEEN = true))
    ∧ ∀ (job wrote : Nat) (wo wp : Nat × Nat) (hostBad : List (BitVec 52)) (j : DmaJob), s.runs (672 + e.val / 4) = true →
      (s.dmaEng e).active.find? (fun j => j.id == job) = some j →
      s.sideRuns j.d.srcTile (s.dmaReadRuns (e / 4) j.d) = true → s.sideRuns j.d.dstTile (s.dmaDstRuns (e / 4) j.d) = true →
      (∀ b : Nat, b < 4 → ∀ t : Nat, (j.d.srcTile = some t ∨ j.d.dstTile = some t) → s.bankServes (e.val / 4 * 896 + t) b 3 0
        (match j.queue with
          | some q => Token.desc q j.seq
          | none => .fifo e j.seq) = true) →
      ∃ u, exec (.dmaDone e job hostBad wrote wo wp) s = .next u
        ∧ (u.dmaEng e).active = ((s.dmaEng e).active.filter fun k => k.id != job)
        ∧ (j.d.dstTile ≠ none → u.mem.dev = s.mem.dev) ∧ (j.d.dstTile = none → u.mem.scratch = s.mem.scratch)
        ∧ (∀ c : Nat, j.d.done = some c → c ≤ 2818047 → (s.counterOf c).abandoned = false →
            (s.counterOf c).value < 2 ^ 32 - 1 → (u.counterOf c).value = (s.counterOf c).value + 1)
        ∧ ∀ t : Nat, j.d.op = .copy → j.d.rows = 1 → j.d.srcTile = none → j.d.dstTile = some t → hostBad = [] →
            let k := State.scratchKey (e.val / 4 * 896 + t) j.d.dst
            Memory.readBytes u.mem.scratch k j.d.len = s.devBytes j.d.src j.d.len
            ∧ ∀ a : Nat, (a < k ∨ k + j.d.len ≤ a) → Memory.read u.mem.scratch a = Memory.read s.mem.scratch a

/-- While the engine's island is ON: an engine neither held nor throttled that has not reported and whose batch is checked takes the descriptor
at the front of its queue last into its batch; without a wait its check pass ends, and with STEP_LAST the local flag is reported. A descriptor that waits goes on
when its release has come, and not before. With the verdict known the oldest descriptor's next block or row is handled; a
NONFINITE verdict leaves memory for a dense shard. A descriptor all of whose blocks are handled, of whose pass HOLD has not kept the start (R374), leaves, signals its counter,
shows a failure in UPD_STATUS, and ends the step with STEP_LAST. For a dense shard without undo, statistics or working copy,
with the FINITE verdict, all memory good and a count that is not zero: a block whose record bears the step is left alone; one
whose record bears an earlier step and whose group runs MOMENTUM takes the masters of the rule and bears the step, or keeps its
masters where a value is not finite. A write of UPD_GT_DATA replaces 64 bits of the pending entry that UPD_GT_SEL names, brought
into its legal range, and leaves the active table. -/
def Obligations.UpdateBatchesCheckApplyAndComplete : Prop :=
  (∀ (n : UpdId) (s : State),
      let g := s.updEng n
      s.updRuns n = true →
      (∀ (q seq : Nat) (b : List Byte), s.flag (bUpd n) Fld.UPD_CTRL_HOLD = false → g.reported = false →
        (∀ k ∈ g.batch, k.checked = true) → s.updQueue n = some q → s.startable q = some (seq, b) →
        12 ≤ n.val ∨ s.throttled (672 + n) 2 = false →
        ∃ u, exec (.updateCheckPass n) s = .next u ∧ (u.updEng n).batch.map UpdDesc.seq = g.batch.map UpdDesc.seq ++ [seq]
          ∧ (u.queue q).taken = [] ∧ (g.batch = [] → (u.updEng n).step = dStep b)
          ∧ ((updOf b).wait = none → (∀ k ∈ (u.updEng n).batch, k.seq = seq → k.checked = true)
              ∧ ((updOf b).stepLast = true → (u.updEng n).reported = true)))
      ∧ (∀ k : UpdDesc, s.flag (bUpd n) Fld.UPD_CTRL_HOLD = false → g.reported = false →
        g.batch.find? (fun k => !k.checked) = some k →
        (s.takeRelease (.engine (State.updAgent n % 2 ^ 28)) = none → exec (.updateCheckPass n) s = .next s)
        ∧ (s.takeRelease (.engine (State.updAgent n % 2 ^ 28)) ≠ none → ∃ u, exec (.updateCheckPass n) s = .next u
          ∧ (∀ j ∈ (u.updEng n).batch, j.seq = k.seq → j.checked = true) ∧ u.mem.dev = s.mem.dev ∧ u.mem.scratch = s.mem.scratch
          ∧ u.sync.counters = s.sync.counters))
      ∧ (∀ (beat : UpdBeat) (k : UpdDesc) (nf : Bool), s.flag (bUpd n) Fld.UPD_CTRL_HOLD = false → s.verdictOf n = some nf →
        g.batch.head? = some k → k.next < State.updWork k → ∃ u, exec (.updateApplyPass n beat) s = .next u
          ∧ (u.updEng n).applying = true ∧ (u.updEng n).batch.map UpdDesc.seq = g.batch.map UpdDesc.seq
          ∧ (∃ k' : UpdDesc, (u.updEng n).batch.head? = some k' ∧ k'.next = k.next + 1 ∧ k'.count = k.count ∧ k'.shard = k.shard)
          ∧ (nf = true → (shardOf k.shard).kind ≠ 1 → u.mem = s.mem) ∧ u.mem.scratch = s.mem.scratch)
      ∧ ∀ (k : UpdDesc) (nf : Bool) (waited : Nat), s.verdictOf n = some nf → g.batch.head? = some k → State.updWork k ≤ k.next →
        (k.next = 0 → s.flag (bUpd n) Fld.UPD_CTRL_HOLD = true → exec (.updateDone ⟨n, waited⟩) s = .next s)
        ∧ (k.next ≠ 0 ∨ s.flag (bUpd n) Fld.UPD_CTRL_HOLD = false → ∃ u, exec (.updateDone ⟨n, waited⟩) s = .next u ∧ (u.updEng n).batch = (g.batch.filter fun e => e.seq != k.seq)
          ∧ (∀ c : Nat, (updOf k.bytes).done = some c → c ≤ 2818047 → (s.counterOf c).abandoned = false →
              (s.counterOf c).value < 2 ^ 32 - 1 → (u.counterOf c).value = (s.counterOf c).value + 1)
          ∧ (k.status ≠ 0 → u.flag (bUpd n) Fld.UPD_STATUS_ERR_SEEN = true)
          ∧ ((updOf k.bytes).stepLast = true → (u.updEng n).reported = false ∧ (u.updEng n).ended = some g.step)))
    ∧ (∀ (n : UpdId) (s : State),
      (∀ (beat : UpdBeat) (k : UpdDesc) (stack o : Nat), s.updRuns n = true → s.flag (bUpd n) Fld.UPD_CTRL_HOLD = false → s.verdictOf n = some false →
        (s.updEng n).batch.head? = some k → k.next < State.updWork k → k.count ≠ 0 → s.memorySound = true →
        let h := shardOf k.shard
        let d := updOf k.bytes
        let at_ := h.recordAt k.next
        let record := s.devBytes at_ 256
        let stamp := s.devNat (at_ + 196) 4
        let g := groupOf (Tbl.get (fun _ => groupReset) (s.updEng n).act (s.devNat (at_ + 194) 2 % 4096)) d.step
        let f := fmul d.mul (fdiv (fofNat d.nominal) (fofNat k.count))
        let ys := (s.f32s (h.grad + 128 * k.next) 32).map fun y => (clipGrad f g.clip y).1
        let out := ruleBlock g (State.recordVals record []) ys false 0
        h.kind ≠ 1 → h.undoEn = false → h.stats = 0 → h.layout = 3 → s.target at_ = .fast stack o → at_ % 256 = 0 →
        ∃ u, exec (.updateApplyPass n beat) s = .next u
          ∧ (stamp = d.step → u.mem = s.mem)
          ∧ (stamp ≠ d.step → seqBefore (BitVec.ofNat 32 d.step) (BitVec.ofNat 32 stamp) = false → g.frozen = false → g.rule = 0 →
              u.devNat (at_ + 196) 4 = d.step % 2 ^ 32
              ∧ u.f32s at_ 32 = (if blockFinite g ys out false then out.v.x else s.f32s at_ 32)
              ∧ ∀ a : Nat, (a < stack * 2 ^ 35 + o ∨ stack * 2 ^ 35 + o + 256 ≤ a) → Memory.read u.mem.dev a = Memory.read s.mem.dev a))
      ∧ ∀ (r : Writer) (w : Fin 8) (v : Word), s.controls r = true → s.blkHeld (bUpd n) = false →
        ∃ u, exec (.updGtDataWrite n r w v) s = .next u
          ∧ (let i := s.getF (bUpd n) Fld.UPD_GT_SEL_INDEX
             let old (j : Nat) : Nat := Tbl.get (fun _ => groupReset) (s.updEng n).pend j
             ∀ j : Nat, Tbl.get (fun _ => groupReset) (u.updEng n).pend j =
               if j = i then (groupClamp (setBits (old i) (64 * w.val) 64 v.toNat)).1 else old j)
          ∧ (u.updEng n).act = (s.updEng n).act ∧ u.mem = s.mem)

/-- A wait presented again completes where the counter allows it, or is registered where there is room. A remote signal whose
bytes have landed adds 1 and frees its landing entry, another is held while fewer than 256 are. A remote write's bytes land and
raise the tally of their sender, level and data sequence. A signal held past the limit is recorded and reported once and stays
held. SYNC_CMD claims, abandons, clears flags of or sets the selected counter, releasing the waits that each releases; flags and
value of an ABANDONED one stay. A write of SYNC_SEL latches the counter's state. -/
def Obligations.RemoteSignalsWaitForTheirBytes : Prop :=
  ∀ s : State,
    (∀ (i : Nat) (w : Wait), s.sync.retry[i]? = some w →
      ((s.counterOf w.counter).abandoned = false → (s.counterOf w.counter).value < w.n → s.waitRoom (syncMemOf w.counter) = true →
        ∃ u, exec (.waitRetry i) s = .next u ∧ u.sync.retry = s.sync.retry.eraseIdx i
          ∧ u.sync.waits = s.sync.waits ++ [{ w with gone := false }])
      ∧ (((s.counterOf w.counter).abandoned = true ∨ w.n ≤ (s.counterOf w.counter).value) →
        ∃ u, exec (.waitRetry i) s = .next u ∧ u.sync.retry = s.sync.retry.eraseIdx i ∧ u.sync.waits = s.sync.waits))
    ∧ (∀ (module : BitVec 16) (level : Fin 4) (seq bytes : BitVec 32) (c : CounterId),
      let key := State.landingKey module.toNat level seq.toNat
      ((bytes = 0 ∨ bytes.toNat ≤ s.tally key) → (s.counterOf c).abandoned = false → (s.counterOf c).value < 2 ^ 32 - 1 →
        ∃ u, exec (.remoteSignalArrive module level seq c bytes) s = .next u ∧ (u.counterOf c).value = (s.counterOf c).value + 1
          ∧ u.tally key = 0 ∧ u.sync.held = s.sync.held ∧ u.mem.dev = s.mem.dev)
      ∧ (bytes ≠ 0 → s.tally key < bytes.toNat → s.sync.held.length < 256 →
        ∃ u, exec (.remoteSignalArrive module level seq c bytes) s = .next u ∧ u.sync.counters = s.sync.counters
          ∧ u.sync.held = s.sync.held ++ [⟨module.toNat, level, seq.toNat, c, bytes.toNat, s.time, false⟩]))
    ∧ (∀ (module : BitVec 16) (level : Fin 4) (seq : BitVec 32) (addr : BitVec 52) (data : List Byte),
      let key := State.landingKey module.toNat level seq.toNat
      s.landingRoom key = true → (∀ h ∈ s.sync.held, State.landingKey h.module h.level h.seq ≠ key) →
      ∃ u, exec (.remoteWriteLanded module level seq addr data) s = .next u ∧ u.tally key = s.tally key + data.length
        ∧ u.sync.counters = s.sync.counters ∧ u.mem.scratch = s.mem.scratch
        ∧ (State.inSlow addr.toNat data.length = true → Memory.readBytes u.mem.dev addr.toNat data.length = data))
    ∧ (∀ (i : Nat) (h : Held), s.sync.held[i]? = some h → h.late = false →
      s.getF bHub Fld.SYNC_CTRL_HOLD_LIMIT * 1000000 < s.time - h.since → ∃ u, exec (.heldSignalLate i) s = .next u
        ∧ u.sync.held = s.sync.held.set i { h with late := true } ∧ u.flag bHub Fld.SYNC_STATUS_HOLD_LATE = true
        ∧ u.sync.counters = s.sync.counters)
    ∧ ∀ m : SyncMemId,
      let c := s.selected m
      let others (u : State) : Prop := u.sync.waits = s.sync.waits.filter fun w => w.counter != c
      (∀ owner : BitVec 28, s.err.syncDead.contains (c / 64) = false → ∃ u, exec (.syncClaim m .control owner) s = .next u
        ∧ u.counterOf c = { s.counterOf c with value := 0, satHi := false, satLo := false, abandoned := false, owner := owner.toNat }
        ∧ others u)
      ∧ (∃ u, exec (.syncAbandon m .control) s = .next u ∧ u.counterOf c = { s.counterOf c with abandoned := true } ∧ others u)
      ∧ (∃ u, exec (.syncClearFlags m .control) s = .next u
        ∧ u.counterOf c = (if (s.counterOf c).abandoned then s.counterOf c else { s.counterOf c with satHi := false, satLo := false })
        ∧ u.sync.waits = s.sync.waits ∧ u.regs = s.regs)
      ∧ (∀ v : BitVec 32, (s.counterOf c).abandoned = false → ∃ u, exec (.syncSetValue m .control v) s = .next u
        ∧ (∃ agent seq : Nat, u.counterOf c = { s.counterOf c with value := v.toNat, lastSig := agent, lastSeq := seq })
        ∧ (v.toNat = (s.counterOf c).value → u.counterOf c = s.counterOf c)
        ∧ u.sync.waits = s.sync.waits.filter fun w => !(w.counter == c && decide (w.n ≤ v.toNat)))
      ∧ (∀ v : BitVec 32, (s.counterOf c).abandoned = true → ∃ u, exec (.syncSetValue m .control v) s = .next u ∧ u.sync = s.sync)
      ∧ ∀ v : BitVec 16, ∃ u, exec (.syncSelWrite m v) s = .next u ∧ u.sync = s.sync
        ∧ (let d := u.selected m
           (m.val < 672 → d = 4096 * m.val + min v.toNat 4095) ∧ ((u.reg (bSync m) .SYNC_VIEW 0).toNat % 2 ^ 32 = (s.counterOf d).value % 2 ^ 32))

/-- A post at the head of the exchange queue, of a step that is due or that no order places, leaves it, and is accepted where its
bucket is valid, its step is in order and it was not posted; otherwise the exchange is as before. A posted contribution whose wait
is over is used, its count one above the carry-over's. At the deadline an open bucket whose contribution is not ready is decided:
the backup's copy where it has landed, else the contribution is excluded. A contribution ready after the decision is noted, its
record dropped where the step is over, and changes no memory unless it is carried over. A bucket whose quarters are done completes,
at a backup without a decision of its own too, and signals REDUCED. A parked partial whose value is known leaves the park. The exchange
queue is not throttled (R532), and the ring engines' dies are ON (R521). -/
def Obligations.BucketsAreContributedDecidedAndCompleted : Prop :=
  ∀ s : State,
    (∀ (q n : Nat) (b : List Byte), s.job.exq = some q → s.startable q = some (n, b) → s.exStarts = true → s.throttled 688 2 = false →
      (seqBefore (BitVec.ofNat 32 (State.nextStep s.oldestStep)) (BitVec.ofNat 32 (dStep b)) = false
        ∨ seqUnordered (BitVec.ofNat 32 s.oldestStep) (BitVec.ofNat 32 (dStep b)) = true) →
      let i := dbits b 0 8
      let wait := if dbits b 30 1 = 1 then some (dbits b 8 22, dbits b 32 32) else none
      let accepted := !(seqUnordered (BitVec.ofNat 32 s.oldestStep) (BitVec.ofNat 32 (dStep b))) && (s.bucketD i).valid
        && !(s.exBuf (dStep b) i).posted && !(seqBefore (BitVec.ofNat 32 (dStep b)) (BitVec.ofNat 32 s.oldestStep))
        && counterFieldOk (wait.map Prod.fst)
      ∃ u, exec .bucketPost s = .next u ∧ (u.queue q).taken = [] ∧ u.mem = s.mem
        ∧ (accepted = true → (u.exBuf (dStep b) i).posted = true ∧ (u.exBuf (dStep b) i).wait = wait)
        ∧ (accepted = false → u.ex = s.ex))
    ∧ ∀ (step : BitVec 32) (i : Fin 256),
      let b := s.exBuf step.toNat i
      let d := s.bucketD i
      (s.exStarts = true → s.inWindow step.toNat = true → b.decision = 0 → b.posted = true → b.ready = false → b.registered = false →
        (s.isBackup = true → ∀ q : Nat, q < 4 → s.dieHeld q = false) →
        ∃ u, exec (.contributionReady step i) s = .next u ∧ (u.exBuf step.toNat i).ready = true ∧ (u.exBuf step.toNat i).decision = 1
          ∧ (u.exBuf step.toNat i).count = 1 + s.devNat d.carryBase 4 ∧ u.mem.scratch = s.mem.scratch)
      ∧ (b.registered = true → s.takeRelease (postWaiter step.toNat i) = none → exec (.contributionReady step i) s = .next s)
      ∧ (∀ t : Nat, s.exStarts = true → b.since = some t → b.decision = 0 →
        s.postReady step.toNat i = none → t + s.getF bHub Fld.FR_CTRL_DEADLINE_US * 1000 ≤ s.time →
        ∃ u, exec (.bucketDeadline step i) s = .next u ∧ u.mem.scratch = s.mem.scratch
          ∧ ((s.myBackup ≠ none ∧ ∀ q : Nat, q < 4 → Tbl.get (fun _ => 0) b.backup q = (d.quarter q).2) →
              (u.exBuf step.toNat i).decision = 2 ∧ (u.exBuf step.toNat i).count = 1)
          ∧ ((s.myBackup = none ∨ ∃ q : Nat, q < 4 ∧ Tbl.get (fun _ => 0) b.backup q ≠ (d.quarter q).2) →
              (u.exBuf step.toNat i).decision = 3 ∧ (u.exBuf step.toNat i).count = 0))
      ∧ (s.exStarts = true → (b.decision = 2 ∨ b.decision = 3) → b.posted = true → b.ready = false → b.registered = false →
        ∃ u, exec (.lateContribution step i) s = .next u
          ∧ (s.inWindow step.toNat = true → u.exBuf step.toNat i = { b with ready := true })
          ∧ (s.inWindow step.toNat = false → ∀ c ∈ u.ex.bufs, ¬ (c.step = step.toNat ∧ c.bucket = i))
          ∧ ((b.decision = 2 ∨ d.carry = false) → u.mem = s.mem))
      ∧ (s.exRuns = true → s.inWindow step.toNat = true → d.valid = true → b.complete = false → (s.isBackup = true ∨ b.decision ≠ 0) →
        (∀ q : Nat, q < 4 → s.quarterDone b d q = true) →
        ∃ u, exec (.bucketComplete step i) s = .next u ∧ (u.exBuf step.toNat i) = { b with complete := true }
          ∧ (∀ c : Nat, d.reduced = some c → c ≤ 2818047 → (s.counterOf c).abandoned = false →
              (s.counterOf c).value < 2 ^ 32 - 1 → (u.counterOf c).value = (s.counterOf c).value + 1)
          ∧ (b.nf = true → u.flag bHub Fld.FR_STATUS_NF_SEEN = true))
      ∧ ∀ (j : Nat) (k : Parked), s.exStarts = true → b.park[j]? = some k → s.dieRuns k.quarter = true → s.valueKnown step.toNat i k.quarter k.level = true →
        ∃ u, exec (.partialUnpark step i j) s = .next u ∧ (u.exBuf step.toNat i).park = b.park.eraseIdx j
          ∧ (u.exBuf step.toNat i).decision = b.decision

/-- The oldest bucket packet of a port, of the phase the command deals with, leaves its buffer while its die is ON, once its step is in the
window and its bucket's slot is free: until then it waits and nothing changes but the beats waited and the note that it has been compared
(R28). A packet of a step outside the window is dropped. A packet that is not its chunk's last joins what has arrived of the chunk. The
last packet of a partial whose value is not known yet parks the partial; of one that is known and is not this module's own chunk, the
partial with the member's value added goes on to the successor. The last packet of an all-gather chunk makes its elements final, is
written to the result, and goes on unless the ring has had it. That of a backup's copy marks the elements landed; that of a result quarter
marks them final. A break notice is taken and changes nothing else. -/
def Obligations.ExchangePacketsAreTakenInOrder : Prop :=
  ∀ (port : PortId) (waited : Nat) (s t : State) (k : Packet),
    let step := State.pkStep k
    let b := State.pkBucket k
    let key := chunkKey (State.pkQuarter k) (State.pkLevel k) (State.pkPhase k) (State.pkChunk k)
    let cmd : Instr := match State.pkPhase k with
      | 0 => .rsPartialReceive port waited
      | 1 => .agChunkReceive port waited
      | 2 => .backupCopyReceive port waited
      | _ => .backupResultReceive port waited
    let got := (chunks 4 (min 4096 ((s.pkRange k).2 - k.bits 160 28)) k.payload).map fun x => BitVec.ofNat 32 (leNat x)
    let old := Tbl.get (fun _ => ExChunk.reset) (s.exBuf step b).rx key
    let whole : ExChunk := ⟨old.vals ++ got, k.bits 128 32, old.nf || k.bits 110 1 == 1⟩
    let (q, l, c) := (State.pkQuarter k, State.pkLevel k, State.pkChunk k)
    let r := s.pkRange k
    let finite (vs : List Half) : Bool := vs.all ffinite
    -- what meets the member's value, and what goes on from here
    let value := s.valueOf step b q l r
    let sum : List Half := match value.1 with
      | none => whole.vals
      | some v => (whole.vals.zip v).map fun p => fadd p.1 p.2
    let partial_ : ExChunk := ⟨sum, whole.count + value.2.1, whole.nf || value.2.2 || !finite (value.1.getD []) || !finite sum⟩
    let gathered : ExChunk := ⟨whole.vals, whole.count, whole.nf || !finite whole.vals⟩
    let forwards (u : State) (x : ExChunk) : Prop :=
      Tbl.get (fun _ => ExChunk.reset) (u.exBuf step b).sent (chunkKey q l (State.pkPhase k) c) = x
        ∧ (s.diePorts q l 1 ≠ [] → ∃ p ∈ s.diePorts q l 1, ∃ rest : List TxPkt, (u.port p).tx = (s.port p).tx
            ++ ((s.chunkPackets (s.getF (bRing l) Fld.RL_POS_SUCC) step b q l (State.pkPhase k) c x).map fun k => ⟨3, 0, k.encode, 0, none⟩)
            ++ rest)
    (s.exRuns = true → s.dieRuns q = true → s.rxTake port 3 (fun j => State.pkPhase j == State.pkPhase k) = some (k, t) →
      (State.pkPhase k = 3 → s.isBackup = true) →
      (s.packetWaits step b = true → ∃ u, exec cmd s = .next u ∧ u.ex = s.ex ∧ u.mem = s.mem
        ∧ ((u.port port).rxq.map fun x => { x with seen := false }) = (s.port port).rxq.map fun x => { x with seen := false })
      ∧ (s.packetWaits step b = false → s.inWindow step = false → exec cmd s = .next t)
      ∧ (s.packetWaits step b = false → s.inWindow step = true → (State.pkPhase k = 2 → (s.exBuf step b).decision = 0) →
        ∃ u, exec cmd s = .next u ∧ (u.port port).rxq = (t.port port).rxq ∧ u.mem.scratch = s.mem.scratch
          ∧ (k.bits 111 1 = 0 → Tbl.get (fun _ => ExChunk.reset) (u.exBuf step b).rx key = whole ∧ u.mem = s.mem)
          ∧ (k.bits 111 1 = 1 → Tbl.get (fun _ => ExChunk.reset) (u.exBuf step b).rx key = ExChunk.reset
              ∧ (State.pkPhase k = 0 → s.valueKnown step b q l = false →
                  (u.exBuf step b).park = (s.exBuf step b).park ++ [⟨q, l, c, whole.count, whole.nf⟩])
              ∧ (State.pkPhase k = 0 → s.valueKnown step b q l = true → c ≠ s.ringPos l → sum ≠ [] → forwards u partial_ ∧ u.mem.dev = s.mem.dev)
              ∧ (State.pkPhase k = 1 →
                  Tbl.get (fun _ => 0) (u.exBuf step b).final (q * 4 + l) = Tbl.get (fun _ => 0) (s.exBuf step b).final (q * 4 + l) + r.2
                  ∧ (c ≠ s.ringPos l → (s.ringPos l + s.ringSize l - c) % s.ringSize l + 1 < s.ringSize l → whole.vals ≠ [] → forwards u gathered)
                  ∧ (let a := State.resultAt (s.bucketD b) step r.1
                     let n := 4 * whole.vals.length
                     State.inSlow a n = true → State.inSlow s.job.digest 131072 = true → (a + n ≤ s.job.digest ∨ s.job.digest + 131072 ≤ a) →
                       Memory.readBytes u.mem.dev a n = State.wordsLE whole.vals))
              ∧ (State.pkPhase k = 2 → Tbl.get (fun _ => 0) (u.exBuf step b).backup (State.pkQuarter k) = whole.vals.length)
              ∧ (State.pkPhase k = 3 → Tbl.get (fun _ => 0) (u.exBuf step b).final (State.pkQuarter k * 4) = whole.vals.length
                  ∧ (u.exBuf step b).total = whole.count))))
    ∧ (s.dieRuns q = false → s.rxTake port 3 (fun j => State.pkPhase j == State.pkPhase k) = some (k, t) → exec cmd s = .next s)
    ∧ (s.rxTake port 4 (fun j => j.bits 64 8 == 6) = some (k, t) → exec (.breakReceive port) s = .next t)

/-- Once its local flag is known and no verdict is, the module's verdict round starts. A final verdict of a step without one is kept;
the backup's flag joins the flags; a round value of a ring member, or any at a backup, joins those received, in place of one of the
same level and origin; another changes nothing. The oldest unsealed step is sealed here once every bucket is complete, its verdict is
in and the update engines have ended it, and not before. A seal value of a ring member joins those received likewise, or the step is
job-sealed; one of another step changes nothing, but that a round that others have restarted for the step job-sealed last here gets
this module's value again, with nothing repeated (R421, R422). While a break has halted the exchange both kinds of packet are kept. An engine that
waits on its predecessor and has heard nothing for BREAK_MS declares a ring break. FR_HOLD takes its value and remembers when it was
set. -/
def Obligations.RoundsSealTheStep : Prop :=
  ∀ s : State,
    let at_ (k : Packet) (lo c : Nat) : Nat := leNat ((k.payload.drop lo).take c)
    let ofRing (k : Packet) : Prop := s.isBackup = true ∨ ∃ e ∈ s.job.rings.getD (at_ k 4 1) [], e.1 = at_ k 6 2
    let joined (isSeal : Bool) (k : Packet) : List (Nat × Nat × Bool) :=
      ((s.round isSeal (at_ k 0 4)).recv.filter fun v => !(v.1 == at_ k 4 1 && v.2.1 == at_ k 6 2))
        ++ [(at_ k 4 1, at_ k 6 2, at_ k 5 1 == 1)]
    (∀ (step : BitVec 32) (v : Bool), s.exRuns = true → s.dieHeld 0 = false → s.inWindow step.toNat = true → (s.round false step.toNat).started = false →
      s.undecided step.toNat = true → s.localFlag step.toNat = some v → ∃ u, exec (.verdictRoundStart step) s = .next u
        ∧ (u.round false step.toNat).started = true ∧ (s.isBackup = true → (u.round false step.toNat).ended = true) ∧ u.mem = s.mem)
    ∧ (∀ (port : PortId) (k : Packet) (t : State), s.exRuns = true → s.dieHeld 0 = false → s.rxTake port 4 (fun k => k.bits 64 8 == 4) = some (k, t) →
      let n (lo c : Nat) : Nat := leNat ((k.payload.drop lo).take c)
      s.inWindow (n 0 4) = true →
      ∃ u, exec (.verdictReceive port) s = .next u
        ∧ (n 12 1 = 1 → (∀ v ∈ s.ex.verdicts, v.1 ≠ n 0 4) → u.ex.verdicts = s.ex.verdicts ++ [(n 0 4, n 5 1 == 1)])
        ∧ (n 12 1 ≠ 1 → s.myBackup = some k.src → n 6 2 = k.src → u.ex.flags = s.ex.flags ++ [(n 0 4, n 5 1 == 1)])
        ∧ (n 12 1 ≠ 1 → ¬ (s.myBackup = some k.src ∧ n 6 2 = k.src) →
            (ofRing k → (u.round false (n 0 4)).recv = joined false k) ∧ (¬ ofRing k → u = t)))
    ∧ (let step := State.nextStep (s.getF bHub Fld.FR_SEAL_LOCAL)
       (s.exRuns = true → s.dieHeld 0 = false → s.sealReady step = true → ∃ u, exec .localSeal s = .next u ∧ u.getF bHub Fld.FR_SEAL_LOCAL = step)
       ∧ (s.sealReady step = false → exec .localSeal s = .next s))
    ∧ (∀ (port : PortId) (k : Packet) (t : State), s.exRuns = true → s.dieHeld 0 = false → s.rxTake port 4 (fun k => k.bits 64 8 == 5) = some (k, t) →
      let n (lo c : Nat) : Nat := leNat ((k.payload.drop lo).take c)
      (((s.inWindow (n 0 4) = false ∧ (s.isBackup = true ∨ s.sealedStep (n 0 4) = false)) ∨ ¬ ofRing k) → exec (.sealReceive port) s = .next t)
      ∧ (s.inWindow (n 0 4) = false → s.sealedStep (n 0 4) = true → ∃ u, exec (.sealReceive port) s = .next u
        ∧ u.getF bHub Fld.FR_SEAL_JOB = s.getF bHub Fld.FR_SEAL_JOB ∧ u.mem.dev = s.mem.dev ∧ u.sync = s.sync ∧ u.ex.bufs = s.ex.bufs)
      ∧ (s.inWindow (n 0 4) = true → ofRing k → ∃ u, exec (.sealReceive port) s = .next u
        ∧ ((u.round true (n 0 4)).recv = joined true k ∨ u.getF bHub Fld.FR_SEAL_JOB = n 0 4)))
    ∧ (∀ (port : PortId) (k : Packet) (t : State) (sl : Bool), s.job.phase ≠ 0 → s.ex.halted = true → s.dieHeld 0 = false →
      s.rxTake port 4 (fun k => k.bits 64 8 == if sl then 5 else 4) = some (k, t) →
      exec (if sl then .sealReceive port else .verdictReceive port) s = .next { t with ex.mail := t.ex.mail ++ [k.encode] })
    ∧ (∀ (die : DieId) (level : Fin 3), s.exStarts = true → s.dieRuns die = true → level.val < s.levels → 1 < s.ringSize level →
      Tbl.get (fun _ => 0) s.ex.heard (die.val * 4 + level.val) + s.getF bHub Fld.FR_CTRL_BREAK_MS * 1000000 ≤ s.time →
      s.engineWaits die level = true → ∃ u, exec (.ringBreakTimeout die level) s = .next u ∧ u.ex.halted = true
        ∧ u.flag bHub Fld.FR_STATUS_BREAK = true ∧ u.ex.bufs = s.ex.bufs)
    ∧ ∀ on : Bool, ∃ u, exec (.frHold .control on) s = .next u ∧ u.flag bHub Fld.FR_CTRL_HOLD = on
        ∧ (on = true → s.flag bHub Fld.FR_CTRL_HOLD = false → u.ex.holdAt = some s.time ∧ u.ex.bufs = s.ex.bufs)
        ∧ (on = s.flag bHub Fld.FR_CTRL_HOLD → u.ex = s.ex) ∧ u.mem.scratch = s.mem.scratch
        ∧ (on = true ∨ s.flag bHub Fld.FR_CTRL_HOLD = false → u.mem = s.mem)

/-- Loss of light takes a port to OFF; light's return lets it search unless something else holds it OFF (EN, start-up, PARK, its die's rail:
R431, R525, R554, R572), in which case it neither listens nor trains; patterns heard take it from SEARCH to TRAIN;
training with four wavelengths or more takes it to VERIFY with fresh sequences and a fresh challenge, with fewer back to SEARCH.
A failed wavelength waits for the spare where one is good and unused, else leaves, and the port is DEGRADED, or searches with fewer
than four; a spare that fails is good no more. The spare switch replaces the failed wavelength. A link that is lost, or retrained, searches, with nothing left to send.
EN takes its value: 0 takes the port to OFF, 1 lets one that is OFF search where nothing else holds it OFF. A port that was up when it stopped shows
DOWN_SEEN. -/
def Obligations.LightwayPortsTrainRunAndGoDown : Prop :=
  ∀ (p : PortId) (s : State),
    let b := bDie (p.val / 8)
    let seen (u : State) : Prop := s.lwUp p = true → u.flag b Fld.LW_STATUS_DOWN_SEEN (p.val % 8) = true
    let empty (u : State) : Prop := (u.port p).tx = [] ∧ (u.port p).replay = [] ∧ (u.port p).resend = []
    (∃ u, exec (.lwPortLightLoss p) s = .next u ∧ u.lwState p = 0 ∧ (u.port p).dark = true ∧ seen u ∧ empty u)
    ∧ ((s.port p).dark = true → ∃ u, exec (.laserLightReturn p) s = .next u ∧ (u.port p).dark = false
        ∧ u.lwState p = (if u.lwReady p then 1 else s.lwState p))
    ∧ (s.lwState p = 1 → s.lwReady p = true → ∃ u, exec (.lwSearchListen p true) s = .next u ∧ u.lwState p = 2 ∧ u.lw = s.lw)
    ∧ (∀ (good : BitVec 9) (nonce : BitVec 256), s.lwState p = 2 → s.lwReady p = true →
      (4 ≤ bitCount 9 good.toNat → ∃ u, exec (.lwTrainingDone p good nonce) s = .next u ∧ u.lwState p = 3
        ∧ u.lwWaves p = (if good.toNat % 256 = 255 then 255 else good.toNat) ∧ (u.port p).txSeq = 0 ∧ (u.port p).rxSeq = 0
        ∧ (u.port p).nonce = leBytes 32 nonce.toNat ∧ (u.port p).answered = false ∧ (u.port p).spareOk = good.getLsbD 8)
      ∧ (bitCount 9 good.toNat < 4 → ∃ u, exec (.lwTrainingDone p good nonce) s = .next u ∧ u.lwState p = 1 ∧ u.lw = s.lw))
    ∧ (∀ w : Fin 9, s.lwUp p = true → (s.lwWaves p).testBit w = true → (s.port p).failed ≠ some w.val →
      let spare := s.flag b Fld.LW_CTRL_SPARE_AUTO (p.val % 8) && (s.port p).spareOk && !(s.lwWaves p).testBit 8
        && (s.port p).failed.isNone
      let rest := setBits (s.lwWaves p) w 1 0
      ∃ u, exec (.lwWavelengthFail p w) s = .next u
        ∧ (spare = true → (u.port p).failed = some w.val ∧ u.regs = s.regs)
        ∧ (spare = false → 4 ≤ bitCount 9 rest → u.lwState p = 5 ∧ u.lwWaves p = rest ∧ (w.val ≠ 8 → u.lw = s.lw)
            ∧ (w.val = 8 → (u.port p).spareOk = false))
        ∧ (spare = false → bitCount 9 rest < 4 → u.lwState p = 1 ∧ seen u))
    ∧ (∀ w : Nat, (s.port p).failed = some w → ∃ u, exec (.lwSpareSwitch p) s = .next u ∧ (u.port p).failed = none
        ∧ u.lwWaves p = setBits (setBits (s.lwWaves p) w 1 0) 8 1 1 ∧ u.lwState p = s.lwState p)
    ∧ ((s.lwTalks p = true ∨ s.lwState p = 2) → ∃ u, exec (.lwPortDown p) s = .next u ∧ u.lwState p = 1 ∧ seen u ∧ empty u)
    ∧ (∀ on : Bool, ∃ u, exec (.lwEnWrite p .control on) s = .next u ∧ u.flag b Fld.LW_CTRL_EN (p.val % 8) = on
        ∧ (on = false → u.lwState p = 0 ∧ seen u ∧ empty u)
        ∧ (on = true → u.lwState p = if s.lwState p = 0 ∧ u.lwReady p = true then 1 else s.lwState p))
    ∧ (s.lwUp p = true → ∃ u, exec (.lwRetrain p .control) s = .next u ∧ u.lwState p = 1 ∧ seen u ∧ empty u)

/-- A port that talks and awaits no spare sends a flit under replay first, then the next flit of a packet of a class with
credit, which joins the replay buffer with the next sequence, else an idle frame. A received frame whose CRC fails, or that a lost
codeword carried, asks for a replay where it carried a flit; a good one frees what it acknowledges and notes a NAK; a data flit in
order that the port carries advances the receive sequence, another asks for a replay (a flit that the port does not carry: the
model's choice, log entry 109). A NAK replays everything unacknowledged. After 16 replays of a flit or
100 µs without progress the port searches. -/
def Obligations.LightwayFramesCarryAndRepeatFlits : Prop :=
  ∀ (p : PortId) (s : State),
    let q := s.port p
    (∀ (turn : Fin 5) (credit : Fin 10), s.lwTalks p = true → q.failed = none →
      ∃ (u : State) (o : Frame), exec (.lwFrameSend p turn credit) s = .next u ∧ (u.port p).out = some o ∧ (u.port p).nak = false
        ∧ u.mem = s.mem
        ∧ (∀ (f : Flit) (r : List Flit), q.resend = f :: r → o.flit = f.bytes ∧ (u.port p).resend = r ∧ (u.port p).txSeq = q.txSeq
            ∧ (u.port p).tx = q.tx)
        ∧ (q.resend = [] →
            let heads := ((upFrom 0 5).map fun i => (turn.val + i) % 5).filterMap fun c => s.txHead p c
            (∀ k : TxPkt, q.replay.length < 8192 → heads.find? (fun k => State.creditOf q k != 0) = some k →
              o.flit = cut k.bytes (256 * k.sent) 256 ∧ (u.port p).txSeq = (q.txSeq + 1) % 2 ^ 32
              ∧ (u.port p).replay.map Flit.seq = q.replay.map Flit.seq ++ [q.txSeq])
            ∧ ((8192 ≤ q.replay.length ∨ ∀ k ∈ heads, State.creditOf q k = 0) →
              o.flit = List.replicate 256 0 ∧ (u.port p).txSeq = q.txSeq ∧ (u.port p).replay = q.replay ∧ (u.port p).tx = q.tx)))
    ∧ (∀ (flit : List Byte) (t : BitVec 128) (corrected lost : Nat), s.lwTalks p = true →
      let good := decide (lost = 0) && decide (trailerOf (fit 256 flit) (t.toNat % 2 ^ 96) = t.toNat)
      let cls := bitsOf t.toNat 65 3
      let taken := s.carries p cls (t.toNat.testBit 68) (fit 256 flit)
      ∃ u, exec (.lwFrameReceive p flit t corrected lost) s = .next u ∧ u.mem = s.mem
        ∧ (good = false → (u.port p).rxSeq = q.rxSeq ∧ (u.port p).replay = q.replay ∧ (u.port p).nak = (q.nak || decide (cls ≤ 4)))
        ∧ (good = true → (u.port p).nakIn = (q.nakIn || t.toNat.testBit 64)
          ∧ (u.port p).replay = (q.replay.filter fun f => seqBefore (BitVec.ofNat 32 (bitsOf t.toNat 32 32)) (BitVec.ofNat 32 f.seq))
          ∧ (u.port p).rxSeq = (if cls ≤ 4 ∧ bitsOf t.toNat 0 32 = q.rxSeq ∧ taken = true then (q.rxSeq + 1) % 2 ^ 32 else q.rxSeq)
          ∧ (cls ≤ 4 → (bitsOf t.toNat 0 32 ≠ q.rxSeq ∨ taken = false) → (u.port p).nak = true)))
    ∧ (q.nakIn = true → ∃ u, exec (.lwReplay p) s = .next u ∧ (u.port p).resend = q.replay ∧ (u.port p).nakIn = false
        ∧ u.regs = s.regs ∧ u.mem = s.mem)
    ∧ (s.lwTalks p = true → q.replay ≠ [] → ((∃ f ∈ q.replay, 16 ≤ f.times) ∨ q.progress + 100000 ≤ s.time) →
        ∃ u, exec (.lwRetryTimeout p) s = .next u ∧ u.lwState p = 1 ∧ (u.port p).replay = [])

/-- The packet that leaves a port's buffer is dropped where its type is reserved; sent on along its route where it names another module; a
write of a mapped slow-tier range lands there and is tallied under its sender, level and data sequence, one within a fast-tier line lands
there and leaves every other byte; one that names an embedding owner
waits at it as an arrival and changes no memory; a signal without bytes to wait
for adds 1. A read request whose stacks are ON is answered with the data of its range, with status 2 where some of it fails its check, or
with status 1 where it is unmapped. A response reaches the
control complex. A remote-write descriptor that passes its check starts once its banks serve it, or the stacks it reads are ON, and changes no memory, one that
fails or has no bytes completes; it is done once no port holds a packet of it, and signals. -/
def Obligations.LightwayPacketsReachTheirTargets : Prop :=
  (∀ (p : PortId) (cls : Fin 5) (s t : State) (k : Packet), s.rxTake p cls s.packetGoes = some (k, t) →
      let mine := decide (k.dst = s.selfModule) && s.lw.map.isSome
      ∃ u, exec (.lwPacketReceive p cls) s = .next u ∧ (u.port p).rxq = (t.port p).rxq
        ∧ (State.reservedPacket k = true → u.mem = s.mem ∧ u.lw = t.lw ∧ u.sync = s.sync)
        ∧ (State.reservedPacket k = false → mine = false → u.mem = s.mem ∧ u.sync = s.sync
            ∧ u = t.routePacket k (some ((((s.port p).rxq.find? fun k => k.cls == cls.val).map fun k => k.half % 2).getD 0,
                t.getF (bDie (p / 8)) Fld.LW_STATUS_LEVEL (p % 8), p)))
        ∧ (∀ r o : Nat, State.reservedPacket k = false → mine = true → k.typ = 0 → k.bits 180 2 ≠ 1 →
            s.inFast (k.bits 128 52) (k.bits 96 32) = true → s.target (k.bits 128 52) = .fast r o → o % 128 + k.bits 96 32 ≤ 128 →
            Memory.readBytes u.mem.dev (r * 2 ^ 35 + o) (k.payload.take (k.bits 96 32)).length = k.payload.take (k.bits 96 32)
            ∧ ∀ a : Nat, (a < r * 2 ^ 35 + o ∨ r * 2 ^ 35 + o + k.bits 96 32 ≤ a) → Memory.read u.mem.dev a = Memory.read s.mem.dev a)
        ∧ (State.reservedPacket k = false → mine = true → k.typ = 0 → k.bits 180 2 ≠ 1 →
            State.inSlow (k.bits 128 52) (k.bits 96 32) = true →
            let data := k.payload.take (k.bits 96 32)
            let key := State.landingKey k.src k.level (k.bits 64 32)
            Memory.readBytes u.mem.dev (k.bits 128 52) data.length = data
            ∧ ((∀ h ∈ s.sync.held, State.landingKey h.module h.level h.seq ≠ key) → u.tally key = s.tally key + k.bits 96 32))
        ∧ (State.reservedPacket k = false → mine = true → k.typ = 0 → k.bits 180 2 = 1 → bitsOf (k.bits 128 52) 0 4 < 12 →
            (u.embReg (bitsOf (k.bits 128 52) 0 4)).inbox
              = (s.embReg (bitsOf (k.bits 128 52) 0 4)).inbox ++ [(k.src, k.payload.take (k.bits 96 32))] ∧ u.mem = s.mem)
        ∧ (State.reservedPacket k = false → mine = true → k.typ = 3 → k.bits 96 32 = 0 → k.bits 182 22 ≤ 2818047 →
            (s.counterOf (k.bits 182 22)).abandoned = false → (s.counterOf (k.bits 182 22)).value < 2 ^ 32 - 1 →
            (u.counterOf (k.bits 182 22)).value = (s.counterOf (k.bits 182 22)).value + 1))
    ∧ (∀ (p : PortId) (s t : State) (k : Packet),
      (s.rxTake p 0 (fun k => k.typ == 1 && k.dst == s.selfModule && s.lw.map.isSome && s.memRuns (k.bits 128 52) (k.bits 96 32)) = some (k, t) →
        let a := k.bits 128 52
        let n := k.bits 96 32
        let reply (status : Nat) (data : List Byte) : Packet :=
          ⟨2, k.level, k.src, s.selfModule, k.bits 64 32 + data.length * 2 ^ 32 + status * 2 ^ 116, data⟩
        (s.mapped a n = true → s.badIn a n = [] → exec (.lwReadRequest p) s = .next (t.routePacket (reply 0 (s.devBytes a n)) none))
        ∧ (s.mapped a n = true → s.badIn a n ≠ [] → exec (.lwReadRequest p) s = .next
            ((t.readBad (s.badIn a n) (agentRemote k.level k.src) (k.bits 64 32) 0).routePacket (reply 2 (s.devBytes a n)) none))
        ∧ (s.mapped a n = false → exec (.lwReadRequest p) s = .next (t.routePacket (reply 1 []) none)))
      ∧ (s.rxTake p 1 (fun k => k.typ == 2 && k.dst == s.selfModule && s.lw.map.isSome) = some (k, t) →
        ∃ u, exec (.lwReadResponse p) s = .next u ∧ (u.port p).rxq = (t.port p).rxq ∧ u.mem = s.mem
          ∧ u.lw.reads = s.lw.reads ++ [(k.bits 64 32, k.bits 180 2, k.payload.take (k.bits 96 32))]))
    ∧ ∀ (die : DieId) (s : State) (q : Nat), s.lwQueue die = some q →
      (∀ (n wo wp : Nat) (b : List Byte), s.startable q = some (n, b) →
        ((s.rwOk die b = false ∨ dbits b 192 24 = 0) → ∃ u, exec (.remoteWriteDescriptor die wo wp) s = .next u ∧ (u.queue q).taken = []
          ∧ (∀ e ∈ (u.queue q).running, e.1 ≠ n) ∧ u.mem.dev = s.mem.dev)
        ∧ (s.rwOk die b = true → dbits b 192 24 ≠ 0 → (∀ t r, rwRun die b = some (t, r) → ∀ x : Nat, x < 4 → s.bankServes t x 3 0 (.desc q n) = true) →
          (rwRun die b = none → s.memRuns (dbits b 0 52) (dbits b 192 24) = true) →
          ∃ u, exec (.remoteWriteDescriptor die wo wp) s = .next u ∧ (u.queue q).taken = [] ∧ (n, b) ∈ (u.queue q).running
            ∧ u.mem.dev = s.mem.dev ∧ u.mem.scratch = s.mem.scratch))
      ∧ ∀ (seq : BitVec 32) (n : Nat) (b : List Byte), (s.queue q).running.find? (fun e => e.1 == seq.toNat) = some (n, b) →
        (∀ p : PortId, ∀ k ∈ (s.port p).tx, k.desc ≠ some (q, n)) →
        ∃ u, exec (.remoteWriteDone die seq) s = .next u ∧ (∀ e ∈ (u.queue q).running, e.1 ≠ n) ∧ u.mem.dev = s.mem.dev
          ∧ (∀ c : Nat, counterField b 238 216 = some c → c ≤ 2818047 → (s.counterOf c).abandoned = false →
              (s.counterOf c).value < 2 ^ 32 - 1 → (u.counterOf c).value = (s.counterOf c).value + 1)

/-- A challenge is answered. A response that verifies marks the peer attested, and a port in VERIFY that has answered and that its peer
has verified goes up (with no map, or no MAP_ID received, to compare at once), and otherwise stays; one that does not verify takes a
port that is not there to QUARANTINE. A port quarantined for attestation sends its report and a fresh
challenge. An up port's MAP_ID is kept until there is a map; one that fits the port entry matches the port, one that does not
takes it to QUARANTINE. The map check ends when every mapped port is up and has matched or 10 s have passed, with an error where one
is not up. A timing frame of a matched port on an upstream link that awaits no spare carries the departure stamp; a received one leaves its stamps, and from the upstream port with valid stamps the measured offset. Position 0
of a level that is ready sends attempt 1, and the validate token once its check token has returned; another member sends on the
token it holds once it is ready. A validate token makes the level valid. A returned check token of the latest attempt that has
made every hop is held by position 0; one that reaches a member not ready is held there. After 1 s without return position 0,
the check pass not over, sends the next attempt; 10 s after the level was ready it has failed. -/
def Obligations.PeersAreVerifiedAndTokensFormTheRings : Prop :=
  (∀ (p : PortId) (s : State),
      let b := bDie (p.val / 8)
      let i := p.val % 8
      (∀ (k : Packet) (t : State) (peerOk : Bool), s.lwTalks p = true → s.rxTake p 4 (fun k => k.bits 64 8 == 1) = some (k, t) →
        let verified := (s.port p).verified || peerOk
        ∃ u, exec (.identReceive ⟨p, peerOk⟩) s = .next u
          ∧ (leNat (cut k.payload 36 1) = 0 → (u.port p).answered = true ∧ (u.port p).peerNonce = cut k.payload 40 32)
          ∧ (leNat (cut k.payload 36 1) ≠ 0 → identOk (s.port p).nonce k.payload = true → (s.lw.map = none ∨ (s.port p).peerId = none) →
              u.flag b Fld.LW_PEER_ATTESTED i = true
              ∧ (s.lwState p = 3 → (s.port p).answered = true →
                  u.lwState p = if verified then (if bitCount 9 (s.lwWaves p) = 8 then 4 else 5) else 3))
          ∧ (leNat (cut k.payload 36 1) ≠ 0 → identOk (s.port p).nonce k.payload = false → s.lwState p ≠ 6 →
              u.lwState p = 6 ∧ u.lwCause p = 1 ∧ u.flag b Fld.LW_PEER_ATTESTED i = false))
      ∧ (∀ nonce : BitVec 256, s.lwState p = 6 → s.lwCause p = 1 → ∃ u, exec (.attestRetry p nonce) s = .next u
          ∧ (u.port p).nonce = leBytes 32 nonce.toNat ∧ (u.port p).tx.length = (s.port p).tx.length + 2 ∧ u.regs = s.regs)
      ∧ (∀ (k : Packet) (t : State), s.lwUp p = true → s.rxTake p 4 (fun k => k.bits 64 8 == 2) = some (k, t) →
        let n (lo c : Nat) : Nat := leNat (cut k.payload lo c)
        ∃ u, exec (.mapIdReceive p) s = .next u
          ∧ (s.lw.map = none → (u.port p).peerId = some (n 0 2, n 2 1, n 3 1 % 4, n 4 1) ∧ u.flag b Fld.LW_PEER_VALID i = true)
          ∧ ∀ m : LwMap, s.lw.map = some m → State.mapRole m p ≠ 0 →
              let fits := n 0 2 = State.mapPeer m p ∧ n 2 1 = State.mapPeerPort m p ∧ n 4 1 = State.mapLevel m p
                ∧ n 3 1 % 4 = (if State.mapRole m p = 3 then 3 else 3 - State.mapRole m p)
              (fits → (u.port p).matched = true) ∧ (¬ fits → u.lwState p = 6 ∧ u.lwCause p = 2))
      ∧ (∀ m : LwMap, s.lw.map = some m → s.lw.checked = false →
        let mapped := (upFrom 0 32).filter fun p => State.mapRole m p != 0
        ((∀ p ∈ mapped, s.lwUp p = true ∧ (s.port p).matched = true) ∨ s.lw.mapAt + 10000000000 ≤ s.time) →
        ∃ u, exec .mapCheckEnd s = .next u ∧ u.lw.checked = true
          ∧ ((∃ p ∈ mapped, s.lwUp p = false) → u.flag bHub Fld.LW_DISC_MAP_ERR = true) ∧ u.lw.map = s.lw.map)
      ∧ (∀ (m : LwMap) (frac : Fin 16), s.lw.map = some m → s.lwUp p = true → (s.port p).matched = true →
        (s.port p).failed = none → s.upstreamLink m p = true → ∃ (u : State) (f : Frame), exec (.timingFrameSend p frac) s = .next u
          ∧ (u.port p).out = some f ∧ f.flit.take 8 = leBytes 8 (s.stamp frac) ∧ u.time = s.time ∧ u.regs = s.regs)
      ∧ ∀ (t1 t3 t4 : BitVec 64) (flags hops : BitVec 8) (frac : Fin 16), s.lwUp p = true → (s.port p).matched = true →
        let off := (toSigned 64 (s.stamp frac + 2 ^ 64 - t1.toNat) - toSigned 64 (t4.toNat + 2 ^ 64 - t3.toNat)) / 2
        let used := s.upstream = some p.val ∧ flags.getLsbD 0 = true
        ∃ u, exec (.timingFrameReceive p t1 t3 t4 flags hops frac) s = .next u
          ∧ (u.port p).stamps = some (t1.toNat, s.stamp frac)
          ∧ (¬ used → u.time = s.time ∧ u.regs = s.regs)
          ∧ (used → u.getF bHub Fld.LW_TIME_OFFSET = ofSigned 32 off ∧ u.getF bHub Fld.LW_TIME_HOPS = min 255 (hops.toNat + 1)
              ∧ u.flag bHub Fld.LW_TIME_LOCKED = decide (off.natAbs < 160)
              ∧ (s.lw.stepped = true → u.time = s.time ∧ u.lw.slew = -(off / 16))
              ∧ (s.lw.stepped = false → u.time = ((s.time : Int) - off / 16).toNat % 2 ^ 64)))
    ∧ (∀ (level : Fin 3) (s : State) (m : LwMap), s.lw.map = some m → s.forming level.val = true →
      let l := level.val
      let v := s.lwLevel l
      let first := State.position m m.module l = 0
      (first → v.held = none → v.sentAt = none → s.levelReady l = true → ∃ u, exec (.tokenSend level) s = .next u
          ∧ (u.lwLevel l).attempt = 1 ∧ (u.lwLevel l).sentAt = some s.time ∧ u.mem = s.mem)
      ∧ (v.held ≠ none → (first ∨ s.levelReady l = true) → ∃ u, exec (.tokenSend level) s = .next u
          ∧ (u.lwLevel l).held = none ∧ (u.lwLevel l).valid = false)
      ∧ (∀ (p : PortId) (k : Packet) (t : State), s.rxTake p 4 (fun k => k.bits 64 8 == 3) = some (k, t) →
        let n (lo c : Nat) : Nat := leNat (cut k.payload lo c)
        n 1 1 = l → ∃ u, exec (.tokenReceive p) s = .next u ∧ (u.port p).rxq = (t.port p).rxq
          ∧ (n 0 1 ≠ 1 → (u.lwLevel l).valid = true)
          ∧ (n 0 1 = 1 → first → n 4 4 = v.attempt → v.sentAt ≠ none → n 8 4 = m.n.getD l 1 →
              (u.lwLevel l).held = some (n 4 4, n 8 4, p.val, n 2 2))
          ∧ (n 0 1 = 1 → ¬ first → v.attempt ≤ n 4 4 → s.levelReady l = false →
              (u.lwLevel l).held = some (n 4 4, n 8 4, p.val, n 2 2))
          ∧ (n 0 1 = 1 → (u.lwLevel l).valid = false))
      ∧ (∀ at_ : Nat, first → v.held = none → v.passed = false → v.sentAt = some at_ → at_ + 1000000000 ≤ s.time →
        ∃ u, exec (.tokenRetry level) s = .next u ∧ (u.lwLevel l).attempt = v.attempt + 1 ∧ (u.lwLevel l).sentAt = some s.time)
      ∧ ∀ at_ : Nat, v.readyAt = some at_ → at_ + 10000000000 ≤ s.time → ∃ u, exec (.ringFormTimeout level) s = .next u
          ∧ (u.lwLevel l).failed = true ∧ (u.lwLevel l).held = none ∧ u.flag bHub Fld.LW_DISC_RING_ERR = true)

/-- While BAR0 decodes, GO submits a mailbox's command, or marks it lost while the mailbox is BUSY; the response of an answered command writes its
status and payload. A command that is taken in a job state it does not allow is refused with STATE. PING answers the firmware
version and the job state. EVENT_RING_SET sets the ring. QUEUE_BIND binds an empty queue as its specification has it in force.
COUNTER_OP performs its entries, COUNTER_WAIT registers a host wait, RANGE_SET and GROUP_WRITE write their entries, REG_READ and
REG_WRITE access a register, BANK_MODE and BANK_CLEAR act on counter banks, none of whose islands is in HOLD, CAPTURE begins a capture. The
consumed count takes what is written while BAR0 decodes, Q_SEL and Q_VIEW of a die that is not in HOLD what the control complex writes. -/
def Obligations.MailboxCommandsAreRunAndAnswered : Prop :=
  ∀ (m : MailboxId) (s : State),
    (∀ irq : Bool, (s.barsDecode = false → exec (.mailboxGo m irq) s = .next s)
      ∧ (s.barsDecode = true → ∃ u, exec (.mailboxGo m irq) s = .next u ∧ (u.mb m).irq = irq
        ∧ ((s.mb m).state ≠ 1 → (u.mb m).state = 1 ∧ u.job.accepted = s.job.accepted ++ [m.val])
        ∧ ((s.mb m).state = 1 → (u.mb m).lost = true ∧ u.job.accepted = s.job.accepted)))
    ∧ (∀ (st : Nat) (p : List Byte) (status : BitVec 16) (payload : List Byte), (s.mb m).state = 1 → s.answered m st p →
      ∃ u, exec (.mailboxResponse m status payload) s = .next u ∧ (u.mb m).state = 2 ∧ (u.mb m).status = st
        ∧ (u.mb m).rlength = (p.take 4032).length ∧ (u.mb m).rseq = (s.mb m).seq
        ∧ Memory.readBytes (u.mb m).payload 0 (p.take 4032).length = p.take 4032)
    ∧ (∀ e ∈ [(Instr.eventRingSet m, 0x02, [0]), (.mapLoad m, 0x10, [0]), (.jobOpen m, 0x20, [0]), (.jobResume m, 0x22, [2]),
        (.jobClose m, 0x23, [1, 2]), (.reseed m, 0x24, [1]), (.reflectAdd m, 0x52, [1]), (.reflectRemove m, 0x53, [1])],
      s.kciTakes m e.2.1 = true → 6 ≤ s.stage → s.job.busy = none → s.job.phase ∉ e.2.2 → exec e.1 s = .next (s.answer m 2 []))
    ∧ (s.takes m 0x01 [0, 1, 2] → ∃ u, exec (.ping m) s = .next u ∧ u.answered m 0 (leBytes 8 s.fwVersion ++ leBytes 4 s.job.phase)
        ∧ u.mem = s.mem ∧ u.regs = s.regs)
    ∧ (s.takes m 0x02 [0] → ∃ u, exec (.eventRingSet m) s = .next u
        ∧ (s.req m 0 8 % 4096 = 0 → u.ev.ring.base = some (s.req m 0 8) ∧ u.ev.ring.log2 = State.ringLog (s.req m 8 4)
            ∧ u.ev.ring.consumed = 0 ∧ u.answered m 0 (leBytes 8 (s.req m 0 8) ++ leBytes 4 (2 ^ State.ringLog (s.req m 8 4))))
        ∧ (s.req m 0 8 % 4096 ≠ 0 → u.ev = s.ev ∧ u.answered m 4 []))
    ∧ (∀ count : BitVec 32, let r := (s.irq 3203).ev.ring
      s.barsDecode = true → ∃ u, exec (.eventConsumedWrite count) s = .next u ∧ u.ev.ring.base = r.base
        ∧ u.ev.ring.consumed = (if r.produced - r.consumed < (count - BitVec.ofNat 32 r.consumed).toNat then r.produced
            else r.consumed + (count - BitVec.ofNat 32 r.consumed).toNat))
    ∧ (s.takes m 0x30 [0, 1, 2] →
      let d := s.req m 0 16
      let q := bitsOf d 0 18
      let log := State.ringLog2 (bitsOf d 18 5)
      let base := if log = 0 then 0 else bitsOf d 64 52
      let free := s.queueEmpty q = true ∧ (s.queue q).job = false
      let placed := log = 0 ∨ (base % 4096 = 0 ∧ s.mapped base (64 * 2 ^ log) = true)
      ∃ u, exec (.queueBind m) s = .next u ∧ (¬ free → u.answered m 7 [] ∧ u.queues = s.queues)
        ∧ (free → ¬ placed → u.answered m 4 [] ∧ u.queues = s.queues)
        ∧ (free → placed → (u.queue q).base = base ∧ (u.queue q).log2 = log ∧ (u.queue q).mode = bitsOf d 23 1
            ∧ (u.queue q).prod = 0 ∧ (u.queue q).cons = 0
            ∧ ((u.queue q).kind, (u.queue q).unit) = State.bindKind q (bitsOf d 32 4) (bitsOf d 36 24)))
    ∧ (s.takes m 0x40 [0, 1, 2] → s.reqCount m 0 16 252 = 1 → ∃ u, exec (.counterOp m) s = .next u
      ∧ (counterOk (bitsOf (s.req m 0 16) 0 22) = false → u.answered m 4 [] ∧ u.sync = s.sync)
      ∧ (counterOk (bitsOf (s.req m 0 16) 0 22) = true → u.sync = (s.counterOp m (s.req m 0 16)).2.sync
          ∧ u.answered m 0 (leBytes 8 (s.counterOp m (s.req m 0 16)).1)))
    ∧ (s.takes m 0x41 [0, 1, 2] → counterOk (s.req m 0 4) = true → (s.sync.waits ++ s.sync.retry).length < 1920 →
      (s.counterOf (s.req m 0 4)).abandoned = false → (s.counterOf (s.req m 0 4)).value < s.req m 4 4 →
      s.waitRoom (syncMemOf (s.req m 0 4)) = true → ∃ u, exec (.counterWait m) s = .next u
        ∧ u.sync.waits = s.sync.waits ++ [⟨s.req m 0 4, s.req m 4 4, .host m (clampTo 128 2047 (s.req m 8 4)) (s.req m 12 8), false⟩])
    ∧ (s.takes m 0x50 [0, 1, 2] →
      let r := clampTo 0 11 (s.req m 0 4)
      let j := clampTo 0 63 (s.req m 4 4)
      ∃ u, exec (.rangeSet m) s = .next u ∧ ∀ k : Nat, k < clampTo 0 (64 - j) (s.reqCount m 8 16 64) →
        (u.reg (bSc r) .SC_RANGE_LO (j + k)).toNat = (s.req m (8 + 16 * k) 8 &&& 0x807FFFFFFFFFF000)
        ∧ (u.reg (bSc r) .SC_RANGE_HI (j + k)).toNat = (s.req m (16 + 16 * k) 8 &&& 0x000FFFFFFFFFF000))
    ∧ (s.takes m 0x51 [0, 1, 2] →
      let g := clampTo 0 17 (s.req m 0 4)
      let i := clampTo 0 4095 (s.req m 4 4)
      ∃ u, exec (.groupWrite m) s = .next u ∧ (u.updEng g).act = (s.updEng g).act
        ∧ ∀ k : Nat, k < clampTo 0 (4096 - i) (s.reqCount m 8 64 62) →
          Tbl.get (fun _ => groupReset) (u.updEng g).pend (i + k) = (groupClamp (s.req m (8 + 64 * k) 64)).1)
    ∧ (∀ off : Nat, s.req m 0 8 = regBase + off → off < 2 ^ 48 → blockAt (off / 2 ^ 40) (off % 2 ^ 40 / 2 ^ 16) = true → s.regHeld off = false →
      let n := if (regBase + off) % 8 = 0 then 8 else 4
      (s.takes m 0x60 [0, 1, 2] → s.reqCount m 0 8 504 = 1 → ∃ u, exec (.regRead m) s = .next u
        ∧ u.answered m 0 (leBytes 8 (s.regRead off n).1) ∧ u.regs = (s.regRead off n).2.regs)
      ∧ (s.takes m 0x61 [0, 1, 2] → s.reqCount m 0 16 252 = 1 → ∃ u, exec (.regWrite m) s = .next u
        ∧ (denied off = true → u.answered m 8 [] ∧ u.regs = s.regs)
        ∧ (denied off = false → u.regs = (s.regWrite .control off (if off % 8 = 0 then 8 else 4) (s.req m 8 8)).2.regs)))
    ∧ (∀ first : Nat, s.req m 0 4 = first → first ≤ 12234 →
      (s.takes m 0xA2 [0, 1, 2] → s.banksHeld m 0 = false → ∃ u, exec (.bankClear m) s = .next u ∧ (∃ p, u.answered m 0 p)
        ∧ ∀ b i : Nat, first ≤ b → b < first + clampTo 0 (12235 - first) (s.req m 4 4) → i < 16 → u.reg (bBank b) .CB_CNT i = 0)
      ∧ (s.takes m 0xA1 [0, 1, 2] → s.banksHeld m 1 = false → ∃ u, exec (.bankMode m) s = .next u ∧ (∃ p, u.answered m 0 p)
        ∧ ∀ b : Nat, first ≤ b → b < first + clampTo 1 (12235 - first) (s.req m 4 4) →
          u.getF (bBank b) Fld.CB_CTRL_MODE = (s.bankMode b (s.req m 8 4)).1))
    ∧ (s.takes m 0xA0 [0, 1, 2] → ∃ u, exec (.capture m) s = .next u
      ∧ (2 ≤ s.snap.state → u.answered m 1 [] ∧ u.snap = s.snap)
      ∧ (s.snap.state < 2 → u.snap.state = (if u.capCount = 0 then 3 else 2) ∧ u.snap.seq = s.req m 4 4 ∧ u.snap.mailbox = m.val ∧ u.snap.done = [] ∧ u.snap.injected = s.time))
    ∧ ∀ (die : DieId) (r : Writer), (s.controls r = false ∨ s.blkHeld (bDie die) = true →
        (∀ v : BitVec 16, exec (.qSelWrite die r v) s = .next s) ∧ ∀ (w : Fin 6) (v : BitVec 64), exec (.qViewWrite die r w v) s = .next s)
      ∧ (s.controls r = true → s.blkHeld (bDie die) = false →
      (∀ v : BitVec 16, ∃ u, exec (.qSelWrite die r v) s = .next u ∧ u.getF (bDie die) Fld.Q_SEL_LOCAL = v.toNat
        ∧ ∀ w : Nat, w < 6 → (u.reg (bDie die) .Q_VIEW w).toNat = s.qWord (die.val * 65536 + v.toNat) w % 2 ^ 64)
      ∧ ∀ (w : Fin 6) (v : BitVec 64), ∃ u, exec (.qViewWrite die r w v) s = .next u
        ∧ (2 ≤ w.val → u = s)
        ∧ (w = 0 → (u.queue (die.val * 65536 + s.getF (bDie die) Fld.Q_SEL_LOCAL)).log2 = State.ringLog2 (bitsOf v.toNat 52 5)
            ∧ (u.queue (die.val * 65536 + s.getF (bDie die) Fld.Q_SEL_LOCAL)).mode = bitsOf v.toNat 57 1)
        ∧ (w = 1 → ((u.queue (die.val * 65536 + s.getF (bDie die) Fld.Q_SEL_LOCAL)).kind, (u.queue (die.val * 65536 + s.getF (bDie die) Fld.Q_SEL_LOCAL)).unit)
            = State.bindKind (die.val * 65536 + s.getF (bDie die) Fld.Q_SEL_LOCAL) (bitsOf v.toNat 0 4) (bitsOf v.toNat 4 24)))

/-- MAP_LOAD puts a map that passes its checks in force and starts discovery's checks over. JOB_OPEN refuses a payload with the
status of the first failing check, and otherwise opens the job with its seed, first step and queue, every generator at zero,
both seals one before the first step. JOB_SUSPEND sets every hold and answers once all report held. JOB_RESUME clears the holds
that suspension set. JOB_CLOSE closes the job, with the exchange, samplers and update engines at reset, and the fast and the slow tier
cleared where its flags name them. RESEED takes effect at once at the open boundary, else waits for its step; RING_REFORM puts valid rings in
force; reflections wait for the next boundary, of tables whose addresses are aligned and in the tiers. -/
def Obligations.JobsOpenRunAndClose : Prop :=
  ∀ (m : MailboxId) (s : State),
    (s.takes m 0x10 [0] →
      let a := s.req m 0 8
      let b := s.devBytes a mapBytes
      let placed := a % 64 = 0 ∧ s.inTiers a mapBytes = true
      ∃ u, exec (.mapLoad m) s = .next u ∧ (¬ placed → u.answered m 4 [] ∧ u.lw = s.lw)
        ∧ (placed → mapOk b = false → u.answered m 5 [] ∧ u.lw = s.lw)
        ∧ (placed → mapOk b = true → u.answered m 0 (leBytes 8 a) ∧ u.lw.map = some (mapOf b) ∧ u.lw.checked = false
            ∧ u.lw.mapAt = s.time ∧ u.selfModule = (mapOf b).module))
    ∧ (s.takes m 0x20 [0] →
      let p := (s.openPayload m).1
      let n (lo w : Nat) : Nat := leNat (cut p lo w)
      let rings := s.ringTable (n 0x18 8) ((upFrom 0 (n 0x0C 4 % 8)).map fun l => ((s.lw.map.map LwMap.n).getD []).getD l 1)
      let claims := (upFrom 0 (n 0x38 4)).map fun k => s.devNat (n 0x30 8 + 8 * k) 8
      let last := (BitVec.ofNat 32 (n 8 4) - 1).toNat
      ∃ u, exec (.jobOpen m) s = .next u
        ∧ (∀ st : Nat, s.openRefusal p rings claims = some st → u.answered m st [] ∧ u.job.phase = 0 ∧ u.mem = s.mem)
        ∧ (s.openRefusal p rings claims = none → u.answered m 0 p ∧ u.job.phase = 1 ∧ u.job.seed = BitVec.ofNat 64 (n 0 8)
            ∧ u.job.firstStep = n 8 4 ∧ u.tile.gens = [] ∧ u.job.exq = some (n 0x40 4) ∧ u.job.rings = rings
            ∧ u.getF bHub Fld.FR_SEAL_LOCAL = last ∧ u.getF bHub Fld.FR_SEAL_JOB = last ∧ u.mem.dev = s.mem.dev))
    ∧ (s.takes m 0x21 [1] → ∃ u, exec (.jobSuspend m) s = .next u
      ∧ (∀ e ∈ State.holdFields, u.flag e.1 e.2 = true) ∧ u.flag bHub Fld.FR_CTRL_HOLD = true ∧ u.mem = s.mem
      ∧ ((u.allHeld = true ∧ u.job.phase = 2 ∧ u.job.busy = none ∧ u.answered m 0 [])
        ∨ (u.allHeld = false ∧ u.job.phase = 1 ∧ u.job.busy = some m.val)))
    ∧ (s.job.busy = some m.val → (s.mb m).opcode = 0x21 → s.allHeld = true → ∃ u, exec (.jobSuspend m) s = .next u
      ∧ u.job.phase = 2 ∧ u.job.busy = none ∧ u.answered m 0 [] ∧ u.regs = s.regs)
    ∧ (s.takes m 0x22 [2] → ∃ u, exec (.jobResume m) s = .next u ∧ u.job.phase = 1 ∧ u.job.holds = [] ∧ u.answered m 0 []
      ∧ ∀ e ∈ State.holdFields, u.flag e.1 e.2 = (s.flag e.1 e.2 && s.job.holds.contains (rkey e.1 e.2.reg 0)))
    ∧ (s.takes m 0x23 [1, 2] → ∃ u, exec (.jobClose m) s = .next u ∧ u.job.phase = 0 ∧ u.ex = Exch.reset ∧ u.smp = [] ∧ u.ms.upd = []
      ∧ u.answered m 0 (leBytes 4 (s.req m 0 4 % 4))
      ∧ ((s.req m 0 4).testBit 0 = true → ∀ k : Nat, k < 12 * 2 ^ 35 → Memory.read u.mem.dev k = 0)
      ∧ ((s.req m 0 4).testBit 1 = true → ∀ k : Nat, slowBase ≤ k → k < slowTop → Memory.read u.mem.dev k = 0))
    ∧ (s.takes m 0x24 [1] →
      let seed := BitVec.ofNat 64 (s.req m 0 8)
      let step := s.req m 8 4
      let before := BitVec.ofNat 32 step - 1
      let here := BitVec.ofNat 32 (s.getF bHub Fld.FR_SEAL_LOCAL)
      ∃ u, exec (.reseed m) s = .next u
        ∧ (seqBefore before here = true → u.answered m 2 [] ∧ u.job.seed = s.job.seed ∧ u.tile = s.tile)
        ∧ (before = here → seqBefore before here = false → u.job.seed = seed ∧ u.tile.gens = []
            ∧ u.answered m 0 (leBytes 8 seed.toNat ++ leBytes 4 step))
        ∧ (before ≠ here → seqBefore before here = false → u.job.due = s.job.due ++ [.reseed seed step m] ∧ u.job.seed = s.job.seed))
    ∧ (∀ order : Reform, s.takes m 0x25 [1, 2] →
      let a := s.req m 0 8
      let sizes := order.sizes
      let rings := s.ringTable a (sizes.take s.levels)
      let placed := a % 64 = 0 ∧ s.inTiers a (8 * (sizes.take s.levels).foldl (· + ·) 0) = true
      ∃ u, exec (.ringReform m order) s = .next u ∧ (¬ placed → u.answered m 4 [] ∧ u.ex = s.ex)
        ∧ (placed → s.reformOk rings = false → u.answered m 5 [] ∧ u.ex = s.ex)
        ∧ (placed → s.reformOk rings = true → u.answered m 0 (leBytes 8 a) ∧ u.job.rings = rings ∧ u.ex.halted = false))
    ∧ (s.takes m 0x52 [1] →
      let r := clampTo 0 11 (s.req m 0 4)
      let es := s.reflEntries m
      let named := ∀ e ∈ es, s.tableNamed e.1 = true
      let elsewhere := ∃ e ∈ es, 12 ≤ s.ownerOf (s.tableAt e.1) e.2.2
      let room := (s.embReg r).dir.length + s.reflWaiting r + es.length ≤ 16384
      ∃ u, exec (.reflectAdd m) s = .next u ∧ (¬ named → u.answered m 4 [] ∧ u.job.due = s.job.due)
        ∧ (named → elsewhere → u.answered m 8 [] ∧ u.job.due = s.job.due)
        ∧ (named → ¬ elsewhere → ¬ room → u.answered m 1 [] ∧ u.job.due = s.job.due)
        ∧ (named → ¬ elsewhere → room → u.job.due = s.job.due ++ [.reflect true r es m]))
    ∧ (s.takes m 0x53 [1] →
      let named := ∀ e ∈ s.reflEntries m, s.tableNamed e.1 = true
      ∃ u, exec (.reflectRemove m) s = .next u ∧ (¬ named → u.answered m 4 [] ∧ u.job.due = s.job.due)
        ∧ (named → u.job.due = s.job.due ++ [.reflect false (clampTo 0 11 (s.req m 0 4)) (s.reflEntries m) m]))

/-- A scheduler command writes its status, and acts where it is admitted: CREATE makes a FREE thread READY with its priority, in
the list of the core that serves its home, EXIT frees a thread, DELAY and BLOCK make it wait for its time or counter, WAKE makes a waiting thread READY with RESULT
1, SUSPEND and RESUME leave and restore its state, SET notes a priority and home, YIELD puts it back in its list. A tick makes
due delayed threads READY. A free core runs the first of its list, which preempts one of lower priority; after a wake none runs
before the source that woke the complex has been delivered. A release makes a blocked thread READY with its word. A core that
has ready threads and for 100 ms neither switched nor went idle is replaced by the spare or retired; a faulting extension is
unloaded, for its run time too; the tick takes its clamped value. That a command denied is answered DENIED whatever its thread's
state, and that a thread suspended while RUNNING is READY again where its core cannot run it at once, are the model's choice (log
entry 128). -/
def Obligations.SchedulerCommandsMoveThreads : Prop :=
  ∀ (core : CoreId) (t : SchedThr) (s : State),
    let ok (l : List Nat) : Prop := s.tsStatus core t l = 0
    let rsp (u : State) : Nat := u.getF (bFn 1) Fld.TS_RSP_STATUS core
    (∀ (p : Fin 32) (h : CoreId), ok [0] → ∃ u, exec (.tsCreate core t p h) s = .next u ∧ rsp u = 0 ∧ u.tstate t = 1
        ∧ u.tprio t = s.extPrio t p ∧ u.thome t = s.servedBy h ∧ t.val ∈ u.readyList (s.servedBy h))
    ∧ (ok [1, 2, 3, 4, 5] → ∃ u, exec (.tsExit core t) s = .next u ∧ rsp u = 0 ∧ u.tstate t = 0)
    ∧ (∀ arg : BitVec 64, ok [1, 2] → ∃ u, exec (.tsDelay core t arg) s = .next u ∧ rsp u = 0 ∧ u.tstate t = 3
        ∧ (u.sthr t).wake = some arg.toNat)
    ∧ (∀ (arg : BitVec 64) (timeout : BitVec 11),
      let c := bitsOf arg.toNat 0 22
      let n := bitsOf arg.toNat 22 32
      let wake := if timeout = 0 then none else some ((s.time / s.tickNs + timeout.toNat) * s.tickNs)
      (ok [2] → arg.toNat = 2 ^ 64 - 1 → ∃ u, exec (.tsBlock core t arg timeout) s = .next u ∧ rsp u = 0 ∧ u.tstate t = 4
          ∧ (u.sthr t).wake = wake ∧ u.sync = s.sync)
      ∧ (ok [2] → arg.toNat ≠ 2 ^ 64 - 1 → c ≤ 2818047 → (s.counterOf c).abandoned = false → (s.counterOf c).value < n →
          s.waitRoom (syncMemOf c) = true → ∃ u, exec (.tsBlock core t arg timeout) s = .next u ∧ rsp u = 0 ∧ u.tstate t = 4
            ∧ (u.sthr t).wake = wake ∧ ∃ k : Nat, u.sync.waits = s.sync.waits ++ [⟨c, n, .control t k, false⟩])
      ∧ (arg.toNat ≠ 2 ^ 64 - 1 → 2818047 < c → ∃ u, exec (.tsBlock core t arg timeout) s = .next u ∧ rsp u = 2 ∧ u.tstate t = s.tstate t
          ∧ u.sync = s.sync))
    ∧ (ok [3, 4] → ∃ u, exec (.tsWake core t) s = .next u ∧ rsp u = 0 ∧ u.tstate t = 1 ∧ u.getF (bFn 1) Fld.TS_THR0_RESULT (4 * t) = 1)
    ∧ (ok [1, 2, 3, 4, 5] → s.tstate t ≠ 5 → ∃ u, exec (.tsSuspend core t) s = .next u ∧ rsp u = 0 ∧ u.tstate t = 5
        ∧ (u.sthr t).left = s.tstate t)
    ∧ (ok [5] → (s.sthr t).left < 8 → ∃ u, exec (.tsResume core t) s = .next u ∧ rsp u = 0
        ∧ u.tstate t = (if (s.sthr t).left = 2 ∧ ¬ (s.runningOn (s.thome t) = none ∧ s.coreFree (s.thome t) = true) then 1
            else (s.sthr t).left))
    ∧ (∀ (p : Fin 32) (h : CoreId), ok [1, 2, 3, 4, 5] → ∃ u, exec (.tsSet core t p h) s = .next u ∧ rsp u = 0
        ∧ (u.sthr t).next = some (s.extPrio t p, h.val) ∧ u.tstate t = s.tstate t)
    ∧ (ok [2] → ∃ u, exec (.tsYield core t) s = .next u ∧ rsp u = 0 ∧ u.tstate t = 1)
    ∧ (∀ e ∈ [(Instr.tsExit core t, [1, 2, 3, 4, 5]), (.tsWake core t, [3, 4]), (.tsSuspend core t, [1, 2, 3, 4, 5]),
        (.tsResume core t, [5]), (.tsYield core t, [2])], s.tsStatus core t e.2 ≠ 0 →
      ∃ u, exec e.1 s = .next u ∧ rsp u = s.tsStatus core t e.2 ∧ u.sched = s.sched ∧ u.sync = s.sync ∧ u.tstate t = s.tstate t)
    ∧ (s.time % s.tickNs = 0 → s.sched.last ≠ some s.time →
      ∃ u, exec .schedTick s = .next u ∧ u.sched.last = some s.time
        ∧ (s.tstate t = 3 → (∃ w : Nat, (s.sthr t).wake = some w ∧ w ≤ s.time) → u.tstate t = 1))
    ∧ (s.wakePending = true → exec (.threadSwitch core) s = .next s)
    ∧ (s.nextThread core = some t.val → s.coreFree core = true →
      (s.runningOn core = none → ∃ u, exec (.threadSwitch core) s = .next u ∧ u.tstate t = 2)
      ∧ ∀ r : SchedThr, s.runningOn core = some r.val → s.tprio r < s.tprio t →
        ∃ u, exec (.threadSwitch core) s = .next u ∧ u.tstate t = 2 ∧ u.tstate r = 1)
    ∧ (∀ k w : Nat, s.sync.released.find? (fun r => match r.1 with
        | .control j _ => j == t.val
        | _ => false) = some (.control t k, w) →
      (s.tstate t = 4 → ∃ u, exec (.schedSyncRelease t) s = .next u ∧ u.tstate t = 1
        ∧ u.getF (bFn 1) Fld.TS_THR0_RESULT (4 * t) = 3 ∧ (u.reg (bFn 1) .TS_THR (4 * t + 1)).toNat = w % 2 ^ 64)
      ∧ (s.tstate t = 5 → (s.sthr t).left = 4 → exec (.schedSyncRelease t) s = .next s))
    ∧ (∀ ms : List MailboxId, s.hung core = true → ∃ u, exec (.coreHung core ms) s = .next u
      ∧ ((∀ k : Nat, k < 16 → s.getF (bFn 0) Fld.CC_CORE_PHYS k ≠ 16) → u.getF (bFn 0) Fld.CC_CORE_PHYS core = 16)
      ∧ ((∃ k : Nat, k < 16 ∧ s.getF (bFn 0) Fld.CC_CORE_PHYS k = 16) → u.getF (bFn 0) Fld.CC_CORE_STATE core = 3)
      ∧ ∀ m ∈ ms, (s.mb m).state = 1 → u.answered m 9 [])
    ∧ (∀ cause : Fin 3, s.rot.ext ≠ none →
      cause ≠ 2 ∨ (224 ≤ t.val ∧ s.tstate t = 2 ∧ (s.sthr t).since + 10000000 ≤ s.time + (s.sthr t).ran) →
      ∃ u, exec (.extensionFault cause) s = .next u ∧ u.rot.ext = none ∧ u.flag (bFn 6) Fld.BOOT_STATUS_EXT_LOADED = false)
    ∧ ∀ us : BitVec 10, ∃ u, exec (.tsTickWrite .control us) s = .next u
        ∧ u.getF (bFn 1) Fld.TS_CTRL_TICK_US = clampTo 1 1000 us.toNat ∧ u.sched = s.sched

/-- An edge source that asserts is pending; a level source is pending from its rise, unless ACTIVE, and not after its fall. A
claim delivers the best deliverable source of the core: it is ACTIVE, no longer pending, and on top of the core's stack; with
none the register reads 0. An EOI of the top ends its handler; one of a source not in the stack changes the stack not. A storm
window's end forgets its counts; a level source high for longer than the limit is STUCK; W1C clears STORM and STUCK, an
extension's of its own sources alone. A software source is set by its command. The complex wakes by a fixed cause or by an enabled entry that covers a pending source. -/
def Obligations.InterruptsArePendedDeliveredAndEnded : Prop :=
  ∀ (core : CoreId) (n : SourceId) (s : State),
    let b := bFn 2
    (sourceOk n = true → s.flag b Fld.IC_SRC_LEVEL n = false → ∃ u, exec (.irqAssert n true) s = .next u
        ∧ u.flag b Fld.IC_SRC_PENDING n = true ∧ u.ev.intr.stk = s.ev.intr.stk)
    ∧ (sourceOk n = true → s.flag b Fld.IC_SRC_LEVEL n = true →
      (s.levelHigh n = false → s.flag b Fld.IC_SRC_ACTIVE n = false → ∃ u, exec (.irqAssert n true) s = .next u
        ∧ u.flag b Fld.IC_SRC_PENDING n = true ∧ u.levelHigh n = true)
      ∧ ∃ u, exec (.irqAssert n false) s = .next u ∧ u.flag b Fld.IC_SRC_PENDING n = false ∧ u.levelHigh n = false)
    ∧ (s.bestSource core = some n.val → ∃ u, exec (.icClaim core) s = .next u ∧ s.claimWord core = n.val + 4096
        ∧ Tbl.get (fun _ => 0) u.ev.claimed core = s.claimWord core
        ∧ u.stackOf core = (n.val, s.getF b Fld.IC_SRC_PRIO n) :: s.stackOf core ∧ u.flag b Fld.IC_SRC_PENDING n = false
        ∧ u.flag b Fld.IC_SRC_ACTIVE n = true ∧ u.getF b Fld.IC_SRC_ON_CORE n = core.val)
    ∧ (s.bestSource core = none → ∃ u, exec (.icClaim core) s = .next u ∧ s.claimWord core = 0
        ∧ Tbl.get (fun _ => 0) u.ev.claimed core = 0 ∧ u.ev.intr = s.ev.intr ∧ u.regs = s.regs)
    ∧ (∀ (p : Nat) (l : List (Nat × Nat)), s.stackOf core = (n.val, p) :: l → ∃ u, exec (.icEoi core n) s = .next u
        ∧ u.stackOf core = l ∧ u.flag b Fld.IC_SRC_ACTIVE n = false
        ∧ (s.flag b Fld.IC_SRC_LEVEL n = true → s.levelHigh n = true → u.flag b Fld.IC_SRC_PENDING n = true))
    ∧ ((∀ e ∈ s.stackOf core, e.1 ≠ n.val) → ∃ u, exec (.icEoi core n) s = .next u ∧ u.ev.intr.stk = s.ev.intr.stk
        ∧ u.flag b Fld.IC_SRC_ACTIVE n = s.flag b Fld.IC_SRC_ACTIVE n)
    ∧ (s.time % (s.getF b Fld.IC_CTRL_STORM_WIN_US * 1000) = 0 → ∃ u, exec .stormWindowEnd s = .next u ∧ u.ev.intr.counts = []
        ∧ u.regs = s.regs ∧ u.mem = s.mem)
    ∧ (∀ t : Nat, Tbl.get (fun _ => none) s.ev.intr.levels n = some t → s.flag b Fld.IC_SRC_STUCK n = false →
      s.getF b Fld.IC_CTRL_STUCK_US * 1000 < s.time - t → ∃ u, exec (.irqStuck n) s = .next u
        ∧ u.flag b Fld.IC_SRC_STUCK n = true ∧ u.ev.intr.stk = s.ev.intr.stk)
    ∧ (∀ storm stuck : Bool, ∃ u, exec (.icSrcUnmask .control n storm stuck) s = .next u
        ∧ u.flag b Fld.IC_SRC_STORM n = (s.flag b Fld.IC_SRC_STORM n && !storm)
        ∧ u.flag b Fld.IC_SRC_STUCK n = (s.flag b Fld.IC_SRC_STUCK n && !stuck) ∧ u.mem = s.mem)
    ∧ (∀ storm stuck : Bool, extSource n = false → exec (.icSrcUnmask .ext n storm stuck) s = .next s)
    ∧ (softSource n = true → (core ≠ 15 ∨ s.rot.ext = none ∨ (3456 ≤ n.val ∧ n.val < 3520)) →
        ∃ u, exec (.icSwset core n) s = .next u ∧ u.flag b Fld.IC_SRC_PENDING n = true)
    ∧ (softSource n = false → exec (.icSwset core n) s = .next s)
    ∧ (s.pwr.cc = 1 →
      (∃ u, exec (.pilotLightWake none) s = .next u ∧ u.pwr.cc = 0 ∧ u.getF (bFn 3) Fld.PL_STATUS_LAST = 32
        ∧ u.flag (bFn 3) Fld.PL_STATUS_ASLEEP = false)
      ∧ ∀ e : Fin 32, (s.wakeCovers e = true → ∃ u, exec (.pilotLightWake (some e)) s = .next u ∧ u.pwr.cc = 0
          ∧ u.getF (bFn 3) Fld.PL_STATUS_LAST = e.val ∧ u.flag (bFn 3) Fld.PL_STATUS_ASLEEP = false)
        ∧ (s.wakeCovers e = false → exec (.pilotLightWake (some e)) s = .next s))

/-- Training sets the speed and width, a link that falls has speed 0; while it is down nothing of the host reaches the function.
D3hot and D0 change the function's power state once configuration space is ready; a covered wake is signalled once. While the
BARs decode and the stack runs, a BAR2 write of a tier lands, a poisoned one changes no memory and is logged, a read returns
good bytes, but none outside the tiers or before they have been cleared; BASE is aligned to the BAR2 size, at a resize too. An
unmasked vector is sent where it was pending. A PTM result sets the offset where it fits, and steps or slews the time unless the
fabric governs it. A BAR0 read returns the word there; a doorbell and a 64-byte append reach their queue. A management request
is answered in a frame while the always-on rail is up; the restart command is kept after a trip. -/
def Obligations.HostLinkAccessesAndEventsTakeEffect : Prop :=
  ∀ s : State,
    let b := bFn 4
    let aligned (v log : Nat) : Nat := v / 2 ^ (log - 30) * 2 ^ (log - 30)
    (∀ rate lanes : Fin 4, s.flag b Fld.HL_STATUS_PERST = false → ∃ u, exec (.hostLinkTrained rate lanes) s = .next u
        ∧ u.getF b Fld.HL_STATUS_SPEED = rate.val + 1 ∧ u.getF b Fld.HL_STATUS_WIDTH = 2 ^ lanes.val)
    ∧ (s.getF b Fld.HL_STATUS_SPEED ≠ 0 → ∃ u, exec .hostLinkDown s = .next u ∧ u.getF b Fld.HL_STATUS_SPEED = 0)
    ∧ (s.hostUp = true → s.hl.ready = true →
      (∀ pme : Bool, exec (.d3hotEntry pme) s = .next { s with hl.d3hot := true, hl.pmeEn := pme, hl.wake := s.hl.wake && pme })
      ∧ exec .d0Return s = .next { s with hl.d3hot := false, hl.wake := false })
    ∧ (∀ e : Fin 32, s.hostUp = true → s.hl.d3hot = true → s.hl.pmeEn = true → s.hl.wake = false → s.wakeCovers e = true →
        exec (.wakePme e) s = .next { s with hl.wake := true, ev.sent := pmeMessage :: s.ev.sent })
    ∧ (s.hostUp = false → ∀ c : Instr, (c ∈ [Instr.d0Return, .ptmRequest] ∨ (∃ e, c = .wakePme e) ∨ (∃ p, c = .d3hotEntry p)
        ∨ (∃ v, c = .msixUnmask v) ∨ (∃ v, c = .hlBar2Write .host v) ∨ (∃ l, c = .bar2Resize l) ∨ (∃ d, c = .ptmResult d)
        ∨ (∃ o w p n d, c = .bar2Access o w p n d) ∨ ∃ o w n d, c = .bar0Access o w n d) → exec c s = .next s)
    ∧ (∀ (off : BitVec 36) (data : List Byte) (len : BitVec 13), s.barsDecode = true →
      let a := s.bar2Addr off.toNat
      (data ≠ [] → off.toNat + data.length ≤ 2 ^ s.hl.bar2 →
        (∃ u, exec (.bar2Access off true true len data) s = .next u ∧ u.mem = s.mem ∧ (s.memRuns a data.length = true → u.hl.aerPoisoned = true))
        ∧ (State.inSlow a data.length = true → s.memRuns a data.length = true → ∃ u, exec (.bar2Access off true false len data) s = .next u
            ∧ Memory.readBytes u.mem.dev a data.length = data ∧ u.regs = s.regs)
        ∧ (s.memRuns a data.length = false → exec (.bar2Access off true false len data) s = .next s)
        ∧ (s.inTiers a data.length = false → ∃ u, exec (.bar2Access off true false len data) s = .next u ∧ u.mem = s.mem))
      ∧ (len ≠ 0 → off.toNat + len.toNat ≤ 2 ^ s.hl.bar2 →
        (s.inTiers a len.toNat = true → s.memRuns a len.toNat = true → s.rot.cleared = true → s.badIn a len.toNat = [] →
          exec (.bar2Access off false false len data) s = .next { s with hl.data := some (s.devBytes a len.toNat) })
        ∧ (s.inTiers a len.toNat = false ∨ s.rot.cleared = false → s.memRuns a len.toNat = true →
            ∃ u, exec (.bar2Access off false false len data) s = .next u ∧ u.hl.data = none ∧ u.mem = s.mem)))
    ∧ (∀ (w : Writer) (v : BitVec 64), (w = .host ∧ s.barsDecode = true) ∨ s.controls w = true → ∃ u, exec (.hlBar2Write w v) s = .next u
        ∧ u.getF b Fld.HL_BAR2_BASE = aligned (bitsOf v.toNat 30 22) s.hl.bar2 ∧ u.hl = s.hl)
    ∧ (∀ log : Fin 7, s.hostUp = true → s.hl.ready = true → ∃ u, exec (.bar2Resize log) s = .next u ∧ u.hl.bar2 = 30 + log.val
        ∧ u.getF b Fld.HL_BAR2_BASE = aligned (s.getF b Fld.HL_BAR2_BASE) (30 + log.val))
    ∧ (∀ v : Fin 2048, s.barsDecode = true → ∃ u, exec (.msixUnmask v) s = .next u ∧ (u.msixEntry v).masked = false
        ∧ Tbl.get (fun _ => false) u.ev.pba v = false
        ∧ u.ev.sent = (if Tbl.get (fun _ => false) s.ev.pba v then v.val :: s.ev.sent else s.ev.sent))
    ∧ (s.hostUp = true → s.hl.ptmOn = true → exec .ptmRequest s = .next { s with hl.asked := true })
    ∧ (∀ off : BitVec 72, s.hostUp = true → s.hl.asked = true → ∃ u, exec (.ptmResult off) s = .next u ∧ u.hl.asked = false ∧ u.hl.stepped = true
        ∧ u.flag b Fld.HL_PTM_VALID = true
        ∧ (-(2 ^ 31) ≤ off.toInt → off.toInt < 2 ^ 31 → u.getF b Fld.HL_PTM_OFFSET = ofSigned 32 off.toInt)
        ∧ (s.locked = true → u.time = s.time ∧ u.lw = s.lw)
        ∧ (s.locked = false → s.hl.stepped = false → u.time = ((s.time : Int) + off.toInt / 16).toNat % 2 ^ 64)
        ∧ (s.locked = false → s.hl.stepped = true → u.time = s.time ∧ u.lw.slew = off.toInt / 16))
    ∧ (∀ (off : BitVec 28) (data : List Byte) (len : BitVec 7), s.barsDecode = true →
      (len = 8 → off.toNat % 8 = 0 → exec (.bar0Access off false len data) s = .next { s with
        hl.data := some (leBytes 8 (bitsOf (s.bar0Word off.toNat) 0 64)) })
      ∧ ∀ q : QueueId, (off.toNat = 0x01000000 + 64 * q.val →
        (data.length = 8 → exec (.bar0Access off true len data) s = .next (s.doorbell q (BitVec.ofNat 32 (leNat data))))
        ∧ (data.length = 64 → exec (.bar0Access off true len data) s = .next (s.hostAppend q data))))
    ∧ (∀ (seq : BitVec 32) (r : MeterReading), s.alwaysOn = true →
      let request (op : Nat) : List Byte := leBytes 8 (op + seq.toNat * 2 ^ 32)
      let reply (u : State) (status : Nat) (p : List Byte) : Prop :=
        u.rot.frames = (leBytes 8 (status + p.length * 2 ^ 16 + seq.toNat * 2 ^ 32) ++ p) :: s.rot.frames
      (∃ u, exec (.mgmtFrame (request 1) r) s = .next u
        ∧ reply u 0 (leBytes 8 (s.regView (bFn 6) .BOOT_STATUS 0) ++ leBytes 4 s.job.phase))
      ∧ ∃ u, exec (.mgmtFrame (request 0xB0) r) s = .next u ∧ reply u (if s.pwr.tripped then 0 else 2) []
        ∧ (s.pwr.tripped = true → u.pwr.restart = true))
    ∧ (s.alwaysOn = true → s.pwr.tripped = true → exec .trayRestart s = .next { s with pwr.restart := true })

/-- ISLAND_SET and DEVICE_STATE begin changes of state, refused where a rule forbids them, and answer once every change has
completed; a change to HOLD or OFF completes when nothing is in flight, one of a cluster from OFF to ON once its zero-fill is
over. OPP_WRITE, PHASE_MAP and POWER_LIMIT put their clamped values in force, POWER_READ answers the power manager's state. A
marked descriptor at its consumer has its operating point applied: its cluster's ISL_STATUS.OPP is the entry of a phase in the
island, that of the descriptor among them, with the highest target, toward which the voltage ramps. A faulty phase is counted,
up to three; a rail with three is shut, its islands cannot leave OFF, and its dies' stacks are lost. -/
def Obligations.IslandsDevicesAndRailsChangeState : Prop :=
  ∀ (m : MailboxId) (s : State),
    (s.takes m 0x72 [0, 1, 2] → s.reqCount m 0 8 250 = 1 →
      let e := State.islEntry (s.req m 0 8)
      ∃ u, exec (.islandSet m) s = .next u ∧ (e.2.2.2 = true → u.answered m 4 [] ∧ u.pwr = s.pwr)
        ∧ (e.2.2.2 = false → s.islRefused [(e.1, e.2.1)] = true → u.answered m 2 [] ∧ u.pwr = s.pwr)
        ∧ (e.2.2.2 = false → s.railShut e.1 = true → e.1 < 689 → e.2.1 ≠ 2 → u.answered m 2 [])
        ∧ (e.2.2.2 = false → s.islRefused [(e.1, e.2.1)] = false → (u.isl e.1).cmd = e.2.1
            ∧ u.job.accepted = s.job.accepted.erase m
            ∧ (u.isl e.1).goal = if s.domainState e.1 = e.2.1 ∧ ¬ ((s.isl e.1).rising = true ∧ e.2.1 = 0) then none else some e.2.1))
    ∧ (s.kciBegun m 0x72 = true → (∀ e ∈ s.islEntries m, s.settled (State.islEntry e).1 = true) →
      ∃ u, exec (.islandSet m) s = .next u ∧ (∃ p, u.answered m 0 p) ∧ u.pwr = s.pwr ∧ u.regs = s.regs)
    ∧ (∀ (i : Fin 714) (g : Nat), (s.isl i).goal = some g →
      (i.val < 689 → (g = 1 ∨ g = 2) → (s.islState i = 0 → s.islandQuiet i = true) → ∃ u, exec (.islandStateChange i) s = .next u
        ∧ u.islState i = g ∧ (u.isl i).goal = none)
      ∧ (i.val < 689 → g = 0 → ∃ u, exec (.islandStateChange i) s = .next u ∧ u.islState i = 0
        ∧ (i.val < 672 → s.islState i = 2 → (u.isl i).goal = some 0 ∧ (u.isl i).rising = true
            ∧ ∀ t : Nat, 16 * i.val ≤ t → t < 16 * i.val + 16 → u.flag (bTile t) Fld.BANK_STATUS_CLEARING = true)
        ∧ (672 ≤ i.val ∨ s.islState i ≠ 2 → ¬ ((s.isl i).rising = true ∧ s.filling i = true) →
            (u.isl i).goal = none ∧ (u.isl i).rising = false))
      ∧ (i.val < 689 → (g = 1 ∨ g = 2) → s.islState i = 0 → s.islandQuiet i = false → exec (.islandStateChange i) s = .next s)
      ∧ (i.val = 689 → ∃ u, exec (.islandStateChange i) s = .next u ∧ u.pwr.cc = g ∧ (u.isl i).goal = none)
      ∧ (689 < i.val → ∃ u, exec (.islandStateChange i) s = .next u ∧ Tbl.get (fun _ => 0) u.pwr.pairs (i.val - 690) = g
          ∧ (u.isl i).goal = none))
    ∧ (s.takes m 0x73 [0, 1, 2] →
      let d := clampTo 0 2 (s.req m 0 4)
      let refused := (d = 1 ∧ s.job.phase = 1) ∨ (d = 2 ∧ s.job.phase ≠ 0)
      ∃ u, exec (.deviceState m) s = .next u ∧ (refused → u.answered m 2 [] ∧ u.pwr = s.pwr)
        ∧ (¬ refused → u.job.accepted = s.job.accepted.erase m
            ∧ ∀ i : Nat, i < 688 → s.railShut i = false → u.islGoal i = if d = 0 then (s.isl i).cmd else d))
    ∧ (s.kciBegun m 0x73 = true → (∀ i : Nat, i < 714 → s.settled i = true) → ∃ u, exec (.deviceState m) s = .next u
      ∧ u.getF (bFn 5) Fld.PM_STATUS_DEVICE = clampTo 0 2 (s.req m 0 4) ∧ u.answered m 0 (leBytes 4 (clampTo 0 2 (s.req m 0 4))))
    ∧ (s.takes m 0x70 [0, 1, 2] → ∃ u, exec (.oppWrite m) s = .next u ∧ ∀ k : Nat, k < clampTo 1 16 (s.req m 4 4) →
        s.req m 0 4 + k < 16 → (u.reg (bFn 5) .PM_OPP (s.req m 0 4 + k)).toNat = (State.oppClamp (s.req m (8 + 8 * k) 8)).1)
    ∧ (s.takes m 0x71 [0, 1, 2] → ∃ u, exec (.phaseMap m) s = .next u
      ∧ ∀ p : Nat, p < 8 → bitsOf (u.reg (bFn 5) .PM_PHASEMAP 0).toNat (4 * p) 4 = s.req m p 1 % 16)
    ∧ (s.takes m 0x74 [0, 1, 2] → ∃ u, exec (.powerLimit m) s = .next u
      ∧ u.getF (bFn 5) Fld.PM_LIMIT_WATTS = clampTo 1800 4400 (s.req m 0 4) ∧ u.answered m 0 (leBytes 4 (clampTo 1800 4400 (s.req m 0 4))))
    ∧ (s.takes m 0x75 [0, 1, 2] → ∃ u, exec (.powerRead m) s = .next u ∧ u.regs = s.regs
      ∧ u.answered m 0 (leBytes 8 s.pmStatus ++ leBytes 8 (s.reg (bFn 5) .PM_EST).toNat ++ leBytes 4 (s.reg (bFn 5) .PM_TRIP).toNat))
    ∧ (∀ (q : QueueId) (n : Nat) (d : List Byte) (r : List (Nat × List Byte)), (s.queue q).taken = (n, d) :: r → dMark d = true →
      (s.queue q).marked = false → s.pwr.cc = 0 → ∃ u, exec (.phaseMarker q) s = .next u ∧ (u.queue q).marked = true
        ∧ (u.queue q).taken = (s.queue q).taken ∧ u.mem = s.mem
        ∧ ∀ k : Nat, State.queueCluster q = some k →
          let phases := (State.clusterQueues k).flatMap fun p => State.phasesIn (u.queue p)
          dPhase d ∈ phases ∧ (∃ p ∈ phases, u.getF (bCluster k) Fld.ISL_STATUS_OPP = s.phaseEntry p)
            ∧ (∀ p ∈ phases, s.entryMv (s.phaseEntry p) ≤ u.targetMv k)
            ∧ (s.vcore k ≠ u.targetMv k → s.flag (bCluster k) Fld.ISL_STATUS_DROOP_HOLD = false → s.islState k = 0 →
                u.flag (bCluster k) Fld.ISL_STATUS_RAMPING = true))
    ∧ ∀ rail : Nat,
      (s.lostPhases rail < 3 → ∃ u, exec (.regulatorPhaseSpare rail) s = .next u ∧ u.lostPhases rail = s.lostPhases rail + 1)
      ∧ ∀ feeds : List (Fin 689), 3 ≤ s.lostPhases rail → s.pwr.shut.contains rail = false →
        ∃ u, exec (.railShutdown rail feeds) s = .next u ∧ u.pwr.shut = rail :: s.pwr.shut
          ∧ (∀ i ∈ State.railFeeds rail (feeds.map fun i => i.val), u.railShut i = true)
          ∧ (rail < 4 → ∀ k : Nat, 3 * rail ≤ k → k < 3 * rail + 3 → k ∈ u.mem.dead)

/-- A droop holds the island for 50 ns; its end clears the hold. A ramp step that has reached the target ends the ramp, another
moves the voltage by at most 10 mV toward it. An estimate enters ISL_STATUS and the history. The module share T falls in
proportion above 5,500 W, by 1 above the limit, and rises by 1 below 98 % of it, never below 8. An island's share follows its
cap, its thermal share its temperature; the gain moves toward the ratio of the core rails' telemetry to their summed estimate over the
millisecond by at most 2 % within its bounds (it stays where nothing was estimated: log entry 124). A slowing above the warning is marked
once. The interlock's warning raises its source, light restored lowers it. -/
def Obligations.VoltagesEstimatesAndSharesMove : Prop :=
  ∀ (i : Fin 689) (s : State),
    let b := State.islBlk i
    let near (v t : Nat) : Nat := if v < t then min (v + 10) t else max (v - 10) t
    (∃ u, exec (.droopDetect i) s = .next u ∧ u.flag b Fld.ISL_STATUS_DROOP_HOLD = true ∧ (u.isl i).holdTo = some (s.time + 50)
        ∧ u.vcore i = s.vcore i)
    ∧ (∀ t : Nat, (s.isl i).holdTo = some t → t ≤ s.time → ∃ u, exec (.droopHoldEnd i) s = .next u
        ∧ u.flag b Fld.ISL_STATUS_DROOP_HOLD = false ∧ (u.isl i).holdTo = none)
    ∧ (s.flag b Fld.ISL_STATUS_RAMPING = true →
      (s.vcore i = s.targetMv i → ∃ u, exec (.rampStep i) s = .next u ∧ u.flag b Fld.ISL_STATUS_RAMPING = false ∧ u.vcore i = s.vcore i)
      ∧ (s.vcore i ≠ s.targetMv i → s.flag b Fld.ISL_STATUS_DROOP_HOLD = false → ∃ u, exec (.rampStep i) s = .next u
        ∧ u.vcore i = near (s.vcore i) (s.targetMv i) ∧ (u.isl i).stepTo = some (near (s.vcore i) (s.targetMv i))
        ∧ u.flag b Fld.ISL_STATUS_RAMPING = true))
    ∧ (∀ counts : List Nat, ∃ u, exec (.powerEstimate i counts) s = .next u
        ∧ u.getF b Fld.ISL_STATUS_EST = min 65535 (s.estimate i counts)
        ∧ (u.isl i).ests = (min 65535 (s.estimate i counts) :: (s.isl i).ests).take 50
        ∧ (u.isl i).energy = (s.isl i).energy + min 65535 (s.estimate i counts)
        ∧ u.pwr.est = if i.val < 688 then s.pwr.est + min 65535 (s.estimate i counts) else s.pwr.est)
    ∧ (let p := s.estSum / 10 + s.pwr.other
       let h := (p :: s.pwr.hist).take 5000
       let a := h.foldl (· + ·) 0 / h.length
       let t := s.getF (bFn 5) Fld.PM_STATUS_T
       let w := s.getF (bFn 5) Fld.PM_LIMIT_WATTS
       ∃ u, exec .moduleShareUpdate s = .next u ∧ u.pwr.hist = h ∧ u.getF (bFn 5) Fld.PM_EST_P = p % 65536
        ∧ u.getF (bFn 5) Fld.PM_STATUS_T =
          if 5500 < p then max 8 (t * 5500 / p) else if w < a then max 8 (t - 1)
          else if 100 * a < 98 * w ∧ t < 64 ∧ (s.pwr.roseAt = 0 ∨ s.pwr.roseAt + 20000 ≤ s.time) then t + 1 else t)
    ∧ (let cap := s.getF (bFn 5) Fld.PM_OPP_ISLAND_CAP (s.getF b Fld.ISL_STATUS_OPP)
       let mean := (s.isl i).ests.foldl (· + ·) 0 / (s.isl i).ests.length
       let c := (s.isl i).capShare
       ∃ u, exec (.islandCapUpdate i) s = .next u ∧ u.regs = s.regs ∧ (u.isl i).capShare =
        if cap = 0 then 64 else if cap < mean then max 8 (c - 1) else if 100 * mean < 98 * cap then min 64 (c + 1) else c)
    ∧ (∀ core other : BitVec 16,
      let g := s.getF (bFn 5) Fld.PM_STATUS_GAIN
      let ratio := if s.pwr.est = 0 then g else core.toNat * 512 * 5000 / s.pwr.est
      ∃ u, exec (.gainTrim core other) s = .next u ∧ u.pwr.other = other.toNat ∧ u.pwr.est = 0
        ∧ u.getF (bFn 5) Fld.PM_STATUS_GAIN =
          clampTo 384 640 (if g < ratio then min ratio (g + g / 50) else max ratio (g - g / 50)))
    ∧ (∀ temp : BitVec 10, ∃ u, exec (.thermalRead i temp) s = .next u ∧ u.getF b Fld.ISL_STATUS_TEMP = temp.toNat
        ∧ temp.toNat ≤ u.getF (bFn 5) Fld.PM_STATUS_TMAX)
    ∧ (let t := s.getF b Fld.ISL_STATUS_TEMP
       let h := s.getF b Fld.ISL_STATUS_THERMAL
       ∃ u, exec (.thermalShareStep i) s = .next u
        ∧ u.getF b Fld.ISL_STATUS_THERMAL = if 420 < t then max 8 (h - 1) else if t < 412 then min 64 (h + 1) else h)
    ∧ (∀ ppm : BitVec 20, ∃ u, exec (.ageingMeasure i ppm) s = .next u ∧ u.getF b Fld.ISL_AGE_PPM = ppm.toNat
        ∧ (s.getF (bFn 5) Fld.PM_CTRL_AGE_WARN_PPM < ppm.toNat → (s.isl i).aged = false →
            u.flag b Fld.ISL_AGE_WARN = true ∧ (u.isl i).aged = true))
    ∧ (s.levelHigh 3207 = false → ∃ u, exec .interlockWarning s = .next u ∧ u.levelHigh 3207 = true)
    ∧ ∃ u, exec .interlockLightRestored s = .next u ∧ u.levelHigh 3207 = false

/-- A new tag closes the open interval into the next record, whose number is answered; the tag in force closes nothing and
answers 0; with 4,096 records unacknowledged no record is formed. METER_READ answers a stored record or ADDRESS. METER_ACK drops
the records up to its number, clamped to the last, and keeps those beyond. METER_IDENT answers the key or the certificate,
METER_AUDIT audit entries, APPORTION_READ figures of the record's energy in J, rounded by a free fraction. The maximum length
closes an interval with MAXLEN, and not before its time. No command reads the meter's state away. A lost input closes the open
interval; its return opens one with OUTAGE under the same tag, and a restart after a long outage is audited. An event that is
not due changes nothing. A service command without Affemar's signature changes nothing; a signed one sets a parameter under a
record with PARAM, loads firmware, or restarts the meter, the first two audited. A failed self-check puts the meter in FAULT
with its cause, raises its source, which stays raised, and is audited; only a restarted meter leaves FAULT as it passes. The
first self-check since power came tells BOOT_STATUS of a fault. The event counter saturates. -/
def Obligations.TheMeterRecordsAnswersAndChecksItself : Prop :=
  (∀ (m : MailboxId) (s : State),
      (∀ r : MeterReading, s.takes m 0x80 [0, 1, 2] →
        ∃ u, exec (.meterTag m r) s = .next u
          ∧ (s.req m 0 8 = s.mtr_ Fld.MTR_TAG_TAG → u.answered m 0 (leBytes 4 0) ∧ u.mtr.recs = s.mtr.recs ∧ u.mtr.cur.tag = s.mtr.cur.tag)
          ∧ (s.req m 0 8 ≠ s.mtr_ Fld.MTR_TAG_TAG → s.formsRecord r → s.closedInterval u r 0 (s.req m 0 8)
              ∧ u.answered m 0 (leBytes 4 (s.mtr_ Fld.MTR_RECORDS_LAST + 1)))
          ∧ (s.req m 0 8 ≠ s.mtr_ Fld.MTR_TAG_TAG → s.mtr.closed ≠ some (s.meterRead r).meterTick → s.meterFull = true →
              u.answered m 0 (leBytes 4 0) ∧ u.mtr.recs = s.mtr.recs ∧ u.mtr.held.isSome = true ∧ u.mtr.cur.tag = s.req m 0 8))
      ∧ (s.takes m 0x81 [0, 1, 2] → ∃ u, exec (.meterRead m) s = .next u ∧ u.mtr = s.mtr
          ∧ (∀ c, s.record? (s.req m 0 4) = some c → u.answered m 0 c.bytes)
          ∧ (s.record? (s.req m 0 4) = none → u.answered m 4 []))
      ∧ (s.takes m 0x82 [0, 1, 2] →
        let k := min (s.req m 0 4) (s.mtr_ Fld.MTR_RECORDS_LAST)
        ∃ u, exec (.meterAck m) s = .next u ∧ u.answered m 0 (leBytes 4 k)
          ∧ u.mtr_ Fld.MTR_RECORDS_ACKED = max k (s.mtr_ Fld.MTR_RECORDS_ACKED)
          ∧ (∀ c ∈ u.mtr.recs, k < c.number) ∧ ∀ c ∈ s.mtr.recs, k < c.number → c ∈ u.mtr.recs)
      ∧ (s.takes m 0x83 [0, 1, 2] → ∃ u, exec (.meterIdent m) s = .next u ∧ u.mtr = s.mtr
          ∧ u.answered m 0 (if s.req m 0 4 = 0 then meterPub else meterCert))
      ∧ (s.takes m 0x84 [0, 1, 2] → ∃ u, exec (.meterAudit m) s = .next u ∧ u.mtr = s.mtr
          ∧ u.answered m 0 (s.auditEntries (s.req m 0 4) (clampTo 1 62 (s.req m 4 4))))
      ∧ (s.takes m 0x85 [0, 1, 2] → ∃ u, exec (.apportionRead m) s = .next u ∧ u.mtr = s.mtr
          ∧ (s.record? (s.req m 0 4) = none → u.answered m 4 [])
          ∧ ∀ c, s.record? (s.req m 0 4) = some c → ∃ theta : Nat,
              u.answered m 0 ((State.apportion c theta).flatMap fun n => leBytes 4 n)
              ∧ ((∃ e ∈ c.span.shares, e.1 < 689 ∧ 0 < e.2) →
                  c.span.energy / 1000 ≤ (State.apportion c theta).sum ∧ (State.apportion c theta).sum ≤ c.span.energy / 1000 + 1))
      ∧ ∀ r : MeterReading, s.mtr.outage = false →
        (r.now.toNat < s.mtr.cur.tStart + s.maxInterval → exec (.meterMaxLength r) s = .next s)
        ∧ (s.mtr.cur.tStart + s.maxInterval ≤ r.now.toNat → s.formsRecord r → ∃ u, exec (.meterMaxLength r) s = .next u
          ∧ s.closedInterval u r (withFlag 0 flagMaxlen) (s.mtr_ Fld.MTR_TAG_TAG)))
    ∧ (∀ (s : State) (r : MeterReading),
      let audited (u : State) : Prop := u.mtr_ Fld.MTR_EVENTS_EVENTS = min (2 ^ 32 - 1) (s.mtr_ Fld.MTR_EVENTS_EVENTS + 1)
      (∀ back far : Bool, back ≠ s.mtr.outage → exec (.meterOutage back far r) s = .next s)
      ∧ (s.mtr.outage = false → ∀ far : Bool, ∃ u, exec (.meterOutage false far r) s = .next u ∧ u.mtr.outage = true
          ∧ (s.formsRecord r → s.closedInterval u r 0 (s.mtr_ Fld.MTR_TAG_TAG)))
      ∧ (s.mtr.outage = true → ∀ far : Bool, ∃ u, exec (.meterOutage true far r) s = .next u ∧ u.mtr.outage = false
          ∧ u.mtr.cur.tag = s.mtr_ Fld.MTR_TAG_TAG ∧ u.mtr.cur.tStart = r.now.toNat ∧ u.mtr.cur.flags.testBit flagOutage = true
          ∧ u.mtr.recs = s.mtr.recs ∧ (far = true → audited u) ∧ (far = false → u.mtr.audit = s.mtr.audit))
      ∧ (∀ (c : MeterService) (g : List Byte),
        let ok := Config.mlDsaVerify (Config.deviceKey 6) (serviceBytes c) g
        (ok = false → exec (.meterServiceCommand c g r) s = .next s)
        ∧ (ok = true → ∃ u, exec (.meterServiceCommand c g r) s = .next u
          ∧ (c.kind = 0 → Tbl.find? u.mtr.params c.param.toNat = some c.value.toNat ∧ audited u
              ∧ (s.formsRecord r → s.closedInterval u r (withFlag 0 flagParam) (s.mtr_ Fld.MTR_TAG_TAG)))
          ∧ (c.kind = 1 → u.mtr_ Fld.MTR_VERSION_FW_CRC = c.value.toNat % 2 ^ 32
              ∧ u.mtr_ Fld.MTR_VERSION_FW_VERSION = c.param.toNat % 2 ^ 16 ∧ audited u)
          ∧ (c.kind = 2 → u.mtr.restarted = true ∧ u.mtr.audit = s.mtr.audit)))
      ∧ ∀ cause : Fin 5, ∃ u, exec (.meterSelfCheck cause r) s = .next u
        ∧ (cause ≠ 0 → s.meterFault = false → u.mtr_ Fld.MTR_STATUS_STATE = 2 ∧ u.mtr_ Fld.MTR_STATUS_CAUSE = cause.val ∧ audited u
            ∧ u.levelHigh 3205 = true)
        ∧ (cause = 0 → s.meterFault = false → u.mtr_ Fld.MTR_STATUS_STATE = 1 ∧ u.mtr.recs = s.mtr.recs)
        ∧ (cause = 0 → s.meterFault = true → s.mtr.restarted = true → u.mtr_ Fld.MTR_STATUS_STATE = 1 ∧ u.mtr_ Fld.MTR_STATUS_CAUSE = 0
            ∧ u.levelHigh 3205 = false)
        ∧ (s.meterFault = true → (cause ≠ 0 ∨ s.mtr.restarted = false) → u.meterFault = true)
        ∧ (s.meterFault = true → cause ≠ 0 → u.levelHigh 3205 = true)
        ∧ u.rot.metered = true
        ∧ u.flag (bFn 6) Fld.BOOT_STATUS_METER_FAULT =
            (if s.rot.metered = true then s.flag (bFn 6) Fld.BOOT_STATUS_METER_FAULT else u.meterFault))

/-- Stage 1 ends with light and 85 °C or less; verification starts the active slot, else the other with SLOT_FALLBACK, else
recovery; core self-test gives a failed core's number to the spare, and at its end the ports that nothing holds OFF search;
memory training clears the tiers once and takes failed stacks and channel pairs out; tile self-test covers failing cells of one
row and one column, the row first, with the array's spares, and swaps or drops failed tiles; READY follows once the
configuration space answers. Loss of input, overvoltage and return of input leave the cold reset state with host memory, keys and
the meter, whose open interval keeps its estimates; a trip is over once the input has been away for 1 s. A trip drops the rails
with its cause, keeps sync memory, is recorded and still to be reported in the 5 ms after a loss of the input, and only recorded
while the rails are off; a restart takes place once its conditions hold. An event that is not due changes nothing. -/
def Obligations.StartUpInputAndTripsMoveTheStages : Prop :=
  ∀ s : State,
    let cold (u : State) : Prop := u.stage = 0 ∧ u.mem.dev = [] ∧ u.mem.scratch = [] ∧ u.mem.host = s.mem.host
      ∧ u.mtr = { s.mtr with cur := { s.mtr.cur with shares := s.sharesNow } } ∧ u.rot.keys = s.rot.keys ∧ u.rot.slots = s.rot.slots ∧ u.job.phase = 0 ∧ u.queues = [] ∧ u.kci = []
    (∀ (light : Bool) (hot : BitVec 10),
      let due := s.powered = true ∧ s.stage = 0 ∧ light = true ∧ hot.toNat ≤ temp85
      (due → ∃ u, exec (.coldStart light hot) s = .next u ∧ u.stage = 2 ∧ u = { s with regs := u.regs })
      ∧ (¬ due → exec (.coldStart light hot) s = .next s))
    ∧ (s.powered = true → s.stage = 2 →
      let a := s.rot.active
      ∃ u, exec .rootOfTrustVerify s = .next u ∧ u.mem = s.mem
        ∧ (s.imageOk (s.slotImage a) 0 = true → u.stage = 3 ∧ u.getF (bFn 6) Fld.BOOT_STATUS_SLOT = a % 2
            ∧ u.rot.running = (s.slotImage a).take 256)
        ∧ (s.imageOk (s.slotImage a) 0 = false → s.imageOk (s.slotImage (1 - a)) 0 = true → u.stage = 3
            ∧ u.flag (bFn 6) Fld.BOOT_STATUS_SLOT_FALLBACK = true ∧ u.rot.running = (s.slotImage (1 - a)).take 256)
        ∧ (s.imageOk (s.slotImage a) 0 = false → s.imageOk (s.slotImage (1 - a)) 0 = false → u.stage = 7 ∧ u.rot = s.rot))
    ∧ (s.powered = true → s.stage = 3 →
      (∃ u, exec (.controlCoreSelfTest []) s = .next u ∧ u.stage = 4
        ∧ s.sameRegs u (fun b r => oneReg (bFn 6) .BOOT_STATUS b r || decide (r = .LW_STATUS))
        ∧ ∀ p : Nat, p < 32 → u.lwReady p = true → s.lwState p = 0 → u.lwState p = 1)
      ∧ ∀ c : CoreId, ∃ u, exec (.controlCoreSelfTest [c]) s = .next u ∧ u.stage = 4
        ∧ ((∀ k : Nat, k < 16 → s.getF (bFn 0) Fld.CC_CORE_PHYS k ≠ 16) → u.getF (bFn 0) Fld.CC_CORE_PHYS c = 16)
        ∧ ((∃ k : Nat, k < 16 ∧ s.getF (bFn 0) Fld.CC_CORE_PHYS k = 16) → u.getF (bFn 0) Fld.CC_CORE_STATE c = 3))
    ∧ (∀ (rs : List RegionId) (ps : List (Fin 24)), s.powered = true → s.stage = 4 →
      ∃ u, exec (.memoryTraining rs ps) s = .next u ∧ u.stage = 5 ∧ u.rot.cleared = true
        ∧ (∀ r ∈ rs, r.val ∈ u.mem.dead) ∧ (∀ p ∈ ps, p.val ∈ u.mem.deadPairs)
        ∧ (s.rot.cleared = true → u.mem.dev = s.mem.dev)
        ∧ (s.rot.cleared = false → ∀ k : Nat, k < 12 * 2 ^ 35 → Memory.read u.mem.dev k = 0))
    ∧ (s.powered = true → s.stage = 5 → s.rot.tested = false →
      (∀ (bad : List FuseUnit) (cells : List BadCells) (f : List TileId), ∃ u, exec (.tileSelfTest bad cells f) s = .next u
        ∧ u.rot.tested = true ∧ u.stage = if s.hl.ready then 6 else 5)
      ∧ (s.err.dueLater = [] → ∀ (a : ArrayId) (cells : List (Fin 32 × Fin 32)) (v : Nat), s.fuseRowBad a = false →
          State.coverCells (s.reg (bArray a) .ARR_REMAP).toNat cells = some v → v < 2 ^ 64 →
          ∃ u, exec (.tileSelfTest [] [(a, cells)] []) s = .next u ∧ (u.reg (bArray a) .ARR_REMAP).toNat = v)
      ∧ (s.err.dueLater = [] → ∀ t : TileId, ∃ u, exec (.tileSelfTest [] [] [t]) s = .next u
        ∧ (s.spareFree (clusterOfTile t) = true → u.flag (bCluster (clusterOfTile t)) Fld.CL_SPARE_EN = true
            ∧ u.getF (bCluster (clusterOfTile t)) Fld.CL_SPARE_FOR = t.val % 16)
        ∧ (s.spareFree (clusterOfTile t) = false → (u.reg (bCluster (clusterOfTile t)) .UD 4).toNat.testBit (t.val % 16) = false)))
    ∧ (∀ (v w : Nat) (cells : List (Fin 32 × Fin 32)), State.coverCells v cells = some w →
      (∀ c ∈ cells, (w.testBit 5 = true ∧ c.1.val = bitsOf w 0 5) ∨ (w.testBit 11 = true ∧ c.2.val = bitsOf w 6 5))
      ∧ (v.testBit 5 = false → v.testBit 11 = false → (∃ r, ∀ c ∈ cells, c.1 = r) → w.testBit 11 = false))
    ∧ (s.powered = true → s.flag (bFn 4) Fld.HL_STATUS_PERST = false → ∃ u, exec .pcieConfigReady s = .next u ∧ u.hl.ready = true
        ∧ u.stage = (if s.rot.tested = true ∧ s.stage = 5 then 6 else s.stage) ∧ u.mem = s.mem)
    ∧ (∀ c ∈ [Instr.inputLoss, .inputOvervoltage],
      (s.rot.input = true → ∃ u, exec c s = .next u ∧ u.rot.input = false ∧ u.pwr.tripped = s.pwr.tripped ∧ cold u)
      ∧ (s.rot.input = false → exec c s = .next s))
    ∧ (s.rot.input = false → ∃ u, exec .inputRestored s = .next u ∧ u.rot.input = true ∧ cold u
        ∧ u.pwr.tripped = (s.pwr.tripped && decide (s.lw.ticks < s.rot.began + 1000000000)))
    ∧ (s.rot.input = true → exec .inputRestored s = .next s)
    ∧ (∀ (temp : BitVec 10), ∀ e ∈ [(Instr.interlockTrip, Fld.PM_TRIP_INTERLOCK), (.thermalTrip temp, Fld.PM_TRIP_THERMAL)],
      (e.2 = Fld.PM_TRIP_INTERLOCK ∨ temp115 ≤ temp.toNat) →
      let recorded (u : State) : Prop := exec e.1 s = .next u ∧ u.flag (bFn 5) e.2 = true ∧ s.sameRegs u (oneReg (bFn 5) .PM_TRIP)
      (s.rot.input = false → s.rot.began + 5000000 < s.lw.ticks → exec e.1 s = .next s)
      ∧ (s.rot.input = false → s.lw.ticks ≤ s.rot.began + 5000000 →
          ∃ u, recorded u ∧ u = { s with regs := u.regs, pwr.tripped := true, pwr.unreported := true })
      ∧ (s.rot.input = true → s.pwr.tripped = false → s.stage = 0 → exec e.1 s = .next s)
      ∧ (s.rot.input = true → s.pwr.tripped = false → s.stage ≠ 0 → ∃ u, exec e.1 s = .next u ∧ u.pwr.tripped = true
          ∧ u.pwr.unreported = true ∧ u.flag (bFn 5) e.2 = true ∧ u.sync = s.sync ∧ cold u)
      ∧ (s.rot.input = true → s.pwr.tripped = true → ∃ u, recorded u ∧ u = { s with regs := u.regs }))
    ∧ (∀ temp : BitVec 10, (temp.toNat < temp115 → exec (.thermalTrip temp) s = .next s)
      ∧ (temp115 ≤ temp.toNat → s.rot.input = true → s.pwr.tripped = true → ∃ u, exec (.thermalTrip temp) s = .next u
        ∧ u.getF (bFn 5) Fld.PM_TRIP_TEMP = temp.toNat))
    ∧ ∀ (light : Bool) (hot : BitVec 10),
      let due := s.rot.input = true ∧ s.pwr.tripped = true ∧ s.pwr.restart = true ∧ light = true ∧ hot.toNat ≤ temp85
      (due → ∃ u, exec (.tripRestart light hot) s = .next u ∧ u.pwr.tripped = false ∧ u.stage = 2 ∧ u.rot.input = true
        ∧ u.mtr = { s.mtr with cur := { s.mtr.cur with shares := s.sharesNow }, restarted := true })
      ∧ (¬ due → exec (.tripRestart light hot) s = .next s)

/-- PERST# takes the host link down, ends host-window reads and starts a warm reset where none of a higher or equal level is in
progress. RESET clamps its level, refuses a bad unit with ADDRESS, is absorbed as ABORTED into a reset of a higher or equal
level, else is in progress. A warm reset ends commands with ABORTED and closes the job; function-level reset leaves mailboxes
idle and no queue, and comes by a Configuration Request only while the function answers it; a job reset closes the job and answers
its command; a unit reset clears the unit's contexts and scratch. After a warm reset every island whose rail is up is ON. Each
enters its level in LAST_RESET. -/
def Obligations.ResetsOfEachLevelTakeEffect : Prop :=
  ∀ s : State,
    let last (u : State) : Nat := u.getF (bFn 6) Fld.BOOT_STATUS_LAST_RESET
    (s.flag (bFn 4) Fld.HL_STATUS_PERST = true → exec .perstAssert s = .next s)
    ∧ (s.flag (bFn 4) Fld.HL_STATUS_PERST = false → exec .perstDeassert s = .next s ∧ ∃ u, exec .perstAssert s = .next u
        ∧ u.flag (bFn 4) Fld.HL_STATUS_PERST = true ∧ u.getF (bFn 4) Fld.HL_STATUS_SPEED = 0 ∧ u.hl.ready = false ∧ u.ms.hostReads = []
        ∧ u.ev.msix = [] ∧ u.pwr.cc = (if s.pwr.cc = 1 then 0 else s.pwr.cc)
        ∧ (s.rot.resets = [] ∨ (∃ h r, s.rot.resets = h :: r ∧ 1 < h.level) → u.rot.resets = [⟨1, 0, 0, none⟩])
        ∧ ((∃ h r, s.rot.resets = h :: r ∧ h.level ≤ 1) → u.rot.resets = s.rot.resets))
    ∧ (s.flag (bFn 4) Fld.HL_STATUS_PERST = true → ∃ u, exec .perstDeassert s = .next u
        ∧ u.flag (bFn 4) Fld.HL_STATUS_PERST = false ∧ u.pwr.cc = (if s.pwr.cc = 1 then 0 else s.pwr.cc) ∧ u.mem = s.mem)
    ∧ (s.hostUp = false ∨ s.hl.ready = false → (∀ h r, s.rot.resets = h :: r → h.level ≠ 2) → exec .functionLevelReset s = .next s)
    ∧ ((s.hostUp = true ∧ s.hl.ready = true ∧ (s.rot.resets = [] ∨ ∃ h r, s.rot.resets = h :: r ∧ 2 ≤ h.level))
        ∨ (∃ h r, s.rot.resets = h :: r ∧ h.level = 2) → ∃ u, exec .functionLevelReset s = .next u
        ∧ last u = 2 ∧ u.rot.resets = [] ∧ u.job.phase = 0 ∧ u.queues = [] ∧ u.ev.msix = [] ∧ u.ev.ring.base = none
        ∧ u.mem.scratch = [] ∧ u.stage = s.stage ∧ ∀ k : Nat, (u.mb k).state = 0)
    ∧ ((∃ h r, s.rot.resets = h :: r ∧ h.level < 2) → ∃ u, exec .functionLevelReset s = .next u ∧ u.rot = s.rot ∧ u.job = s.job
        ∧ u.mem = s.mem)
    ∧ (∀ m : MailboxId, s.takes m 0x97 [0, 1, 2] →
      let l := clampTo 1 4 (s.req m 0 4)
      let unit := s.req m 4 4 % 2 ^ 28
      ∃ u, exec (.reset m) s = .next u
        ∧ (s.rot.resets = [] → (l ≠ 4 ∨ ∃ n : ClusterId, unit = udCluster n) →
            u.rot.resets = [⟨l, unit, s.req m 8 4 % 4, some m.val⟩] ∧ u.job.accepted = s.job.accepted.erase m)
        ∧ (s.rot.resets = [] → l = 4 → unit % 8 < 2 → u.answered m 4 [] ∧ u.rot.resets = [])
        ∧ (∀ h r, s.rot.resets = h :: r → h.level ≤ l → ¬ (h.level = 4 ∧ l = 4) → u.answered m 9 [] ∧ u.rot.resets = s.rot.resets))
    ∧ ∀ (h : ResetReq) (r : List ResetReq), s.rot.resets = h :: r →
      (h.level = 1 → ∃ u, exec .warmReset s = .next u ∧ last u = 1 ∧ u.rot.resets = [] ∧ u.job.phase = 0 ∧ u.queues = [] ∧ u.rot.ext = none
          ∧ u.mem.scratch = [] ∧ (s.powered = true → s.stage ≠ 0 → u.stage = 2)
          ∧ ((∀ i ∈ s.pwr.dark, i < 689) → ∀ i : Fin 689, u.islState i = if s.railShut i = true then 2 else 0)
          ∧ ∀ k : Nat, k < 64 → (s.mb k).state = 1 → h.mailbox ≠ some k → (u.mb k).state = 2 ∧ (u.mb k).status = 9)
      ∧ (h.level ≠ 1 → exec .warmReset s = .next s)
      ∧ (h.level = 3 → ∃ u, exec .jobReset s = .next u ∧ last u = 3 ∧ u.rot.resets = r ∧ u.job.phase = 0 ∧ u.ex = Exch.reset
          ∧ ∀ m : Nat, h.mailbox = some m → u.answered m 0 (leBytes 4 3 ++ leBytes 4 h.unit ++ leBytes 4 h.flags))
      ∧ (h.level ≠ 3 → exec .jobReset s = .next s)
      ∧ (h.level = 4 → ∃ u, exec .unitReset s = .next u ∧ last u = 4 ∧ u.rot.resets = r
          ∧ (∀ m : Nat, h.mailbox = some m → u.answered m 0 (leBytes 4 4 ++ leBytes 4 h.unit))
          ∧ ∀ t : TileId, h.unit = udTile t → (∀ c : Nat, c < 128 → (u.thr t c).run = .free)
            ∧ ∀ a : Nat, a < 2 ^ 18 → Memory.read u.mem.scratch (State.scratchKey t a) = 0)
      ∧ (h.level ≠ 4 → exec .unitReset s = .next s)

/-- ATTEST answers the signed report over the nonce, IDENT_READ the public key or the certificate, BOOT_QUERY the register.
FW_LOAD places verified firmware in the slot not running, loads a verified extension in place of any other, and refuses what
fails its checks. FW_COMMIT raises a rollback counter to the running image's level and never lowers it. A key request that
passes its checks enrols or removes its slot's key and keeps its number; removing the key of the loaded extension unloads it.
EXT_UNLOAD leaves no extension. -/
def Obligations.IdentityImagesAndKeysAreKept : Prop :=
  ∀ (m : MailboxId) (s : State),
    (s.takes m 0x90 [0, 1, 2] → ∃ u, exec (.attest m) s = .next u ∧ u.regs = s.regs
        ∧ u.answered m 0 (s.attestation ((upFrom 0 32).map fun k => BitVec.ofNat 8 (s.req m k 1))))
    ∧ (s.takes m 0x91 [0, 1, 2] → ∃ u, exec (.identRead m) s = .next u ∧ u.regs = s.regs
        ∧ u.answered m 0 (if s.req m 0 4 = 0 then devicePub else deviceCert))
    ∧ (s.takes m 0x98 [0, 1, 2] → ∃ u, exec (.bootQuery m) s = .next u ∧ u.regs = s.regs
        ∧ u.answered m 0 (leBytes 8 (s.reg (bFn 6) .BOOT_STATUS).toNat))
    ∧ (s.takes m 0x92 [0] →
      let a := s.req m 0 8
      let n := s.req m 8 4
      let img := s.devBytes a n
      let ok := leBytes 8 a ++ leBytes 4 n
      let k := 1 - s.getF (bFn 6) Fld.BOOT_STATUS_SLOT
      ∃ u, exec (.fwLoad m) s = .next u
        ∧ (s.inTiers a n = false → u.answered m 4 [] ∧ u.rot = s.rot)
        ∧ (s.inTiers a n = true → s.imageOk img 0 = true → u.answered m 0 ok ∧ u.rot.slots = s.rot.slots.set k img ∧ u.rot.active = k
            ∧ u.rot.running = s.rot.running)
        ∧ (s.inTiers a n = true → s.imageOk img 0 = false → s.imageOk img 1 = true → s.stage ≠ 7 → u.answered m 0 ok
            ∧ u.rot.ext = some img ∧ u.flag (bFn 6) Fld.BOOT_STATUS_EXT_LOADED = true ∧ u.flag (bFn 0) Fld.CC_CORE_EXT 15 = true)
        ∧ (s.inTiers a n = true → s.imageOk img 0 = false → s.imageOk img 1 = false → u.answered m 8 [] ∧ u.rot = s.rot))
    ∧ (s.takes m 0x93 [0] →
      let rb := s.getF (bFn 6) Fld.BOOT_STATUS_FW_RB
      let xb := s.getF (bFn 6) Fld.BOOT_STATUS_EXT_RB
      ∃ u, exec (.fwCommit m) s = .next u
        ∧ u.getF (bFn 6) Fld.BOOT_STATUS_FW_RB = (if s.req m 0 4 = 0 then max rb (min 63 (imgRollback s.rot.running)) else rb)
        ∧ u.getF (bFn 6) Fld.BOOT_STATUS_EXT_RB =
            (if s.req m 0 4 = 0 then xb else max xb (min 63 ((s.rot.ext.map imgRollback).getD 0))))
    ∧ (∀ e ∈ [(Instr.keyEnrol m, 0x94, 0), (.keyRemove m, 0x95, 1)], s.takes m e.2.1 [0] →
      let a := s.req m 0 8
      let b := s.devBytes a 5325
      let slot := leNat (cut b 4 4)
      let placed := a % 64 = 0 ∧ s.inTiers a 5325 = true
      ∃ u, exec e.1 s = .next u
        ∧ (¬ placed → u.answered m 4 [] ∧ u.rot = s.rot)
        ∧ (placed → s.keyOk b e.2.2 = false → u.answered m 8 [] ∧ u.rot = s.rot)
        ∧ (placed → s.keyOk b e.2.2 = true → u.answered m 0 (leBytes 8 a) ∧ u.rot.request = leNat (cut b 8 8)
            ∧ Tbl.find? u.rot.keys slot = (if e.2.2 = 0 then some (cut b 64 1952) else none)
            ∧ u.getF (bFn 6) Fld.BOOT_STATUS_KEYS = u.keyBits
            ∧ (e.2.2 = 1 → s.rot.ext.map imgSlot = some slot → u.rot.ext = none)))
    ∧ (s.takes m 0x96 [0] → ∃ u, exec (.extUnload m) s = .next u ∧ u.rot.ext = none ∧ u.answered m 0 []
        ∧ (s.rot.ext.isSome = true → u.flag (bFn 6) Fld.BOOT_STATUS_EXT_LOADED = false ∧ ∀ n : Nat, 3456 ≤ n → n < 3520 →
            u.flag (bFn 2) Fld.IC_SRC_EN n = false))

/-- A corrected error is counted package-wide and at its location, where counts of the last 24 h stand (at most 1,024 of one
report, which is the model's bound: log entry 121); patrol scrub counts what a pass finds as such errors. An uncorrectable error
outside a clean cache line is recorded, counted, and fails its word, that of a dirty line among them, or its granule; one in
control memory starts a warm reset. A tile with a word due frees its contexts in an open job, or waits for a quiescent point;
one due from ageing alone waits for job close. A due lane, row or way takes a spare while one is left; without one the region
fails, or a row stays. A sync row is remapped and its counters abandoned. What is not due changes nothing. -/
def Obligations.ErrorsAreCountedAndRepaired : Prop :=
  ∀ s : State,
    (∀ (l : ErrLoc) (n : Nat), ∃ u, exec (.correctedError l n) s = .next u ∧ u.mem = s.mem
      ∧ (n = 0 → u = s)
      ∧ (0 < n → u.regs = (s.count (bFn 7) .ERR_CE n).regs ∧ ∀ k, locKey l = some k →
          u.errsAt k = s.errsAt k ++ List.replicate (min n 1024) (s.time * 64 + locSub l)))
    ∧ (∀ (r : RegionId) (w : Fin 16),
      (s.getF (bFn 7) Fld.ERR_CTRL_SCRUB_H = 0 → exec (.patrolScrub r [.way r w]) s = .next s)
      ∧ (s.getF (bFn 7) Fld.ERR_CTRL_SCRUB_H ≠ 0 → ∃ u, exec (.patrolScrub r [.way r w]) s = .next u
        ∧ u.regs = (s.count (bFn 7) .ERR_CE 1).regs ∧ ∀ k, locKey (.way r w) = some k → u.errsAt k = s.errsAt k ++ [s.time * 64]))
    ∧ (∃ u, exec .errorCountExpiry s = .next u ∧ u.regs = s.regs ∧ u.mem = s.mem
      ∧ (Tbl.wf (fun _ => []) s.err.counts = true → ∀ k : Nat, u.errsAt k = s.errsAt k
        ∧ ∀ e ∈ (Tbl.get (fun _ => []) u.err.counts k : List Nat), s.time ≤ e / 64 + day))
    ∧ (∀ (unit : BitVec 28) (st : Fin 13) (a : BitVec 52) (acc : Fin 6) (ag seq step : BitVec 32) (dirty : Bool),
      ∃ u, exec (.uncorrectableError unit st a acc ag seq step dirty) s = .next u
        ∧ (st = 4 → dirty = false → u.mem = s.mem ∧ u.err.lastUe = s.err.lastUe ∧ u.regs = (s.count (bFn 7) .ERR_CE).regs)
        ∧ (s.err.lastUe = none → ¬ (st = 4 ∧ dirty = false) → (∃ n, u.err.lastUe = some (n, s.time))
            ∧ u.reg (bFn 7) .ERR_UE 0 = (s.count (bFn 7) .ERR_UE).reg (bFn 7) .ERR_UE 0)
        ∧ (st = 0 → State.scratchKey (State.unitTile unit.toNat) a.toNat / 8 ∈ u.mem.badScratch)
        ∧ (st = 1 → (1, State.unitTile unit.toNat * 24576 + a.toNat / 8 % 24576) ∈ u.mem.badWords)
        ∧ (st = 2 → (2, State.unitTile unit.toNat * 512 + a.toNat / 8 % 512) ∈ u.mem.badWords)
        ∧ (∀ k o, s.target a.toNat = .fast k o → st = 4 → dirty = true → (4, (k * 2 ^ 35 + o) / 8) ∈ u.mem.badWords)
        ∧ (∀ k, tierKey (s.target a.toNat) = some k → st = 5 ∨ st = 6 → k / 64 ∈ u.mem.bad)
        ∧ (st = 10 → ∃ r ∈ u.rot.resets, r.level ≤ 1))
    ∧ (∀ t : TileId,
      let due := s.tileIsDue t = true ∧ s.tileWaits t = false
      (¬ due → exec (.tileDue ⟨t, none⟩) s = .next s)
      ∧ (due → s.jobOpen = true → ∃ u, exec (.tileDue ⟨t, none⟩) s = .next u ∧ u.job.due = s.job.due ++ [.tile t]
          ∧ (∀ c : Nat, c < 128 → (u.thr t c).run = .free) ∧ (u.tileOf t).ops = [])
      ∧ (due → s.jobOpen = false → exec (.tileDue ⟨t, none⟩) s = .next { s with err.dueLater := s.err.dueLater ++ [t.val] })
      ∧ ∀ slow median : Nat,
        let aged := (s.isl (clusterOfTile t)).aged = true ∧ (s.tileOf t).reelOn = true ∧ slow * 100 < median * 90
          ∧ s.tileWaits t = false ∧ State.agedTile t ∉ s.err.dueLater
        exec (.tileDue ⟨t, some (slow, median)⟩) s =
          .next (if aged then { s with err.dueLater := s.err.dueLater ++ [State.agedTile t] } else s))
    ∧ (∀ (k : RegionId) (g : BitVec 10),
      let n := Tbl.get (fun _ => 0) s.err.lanes (k.val * 1024 + g.toNat)
      let due := (∃ l : Nat, l < 64 ∧ 1000 < ((s.errsAt (State.laneKey k g.toNat l)).filter fun e => decide (s.time ≤ e / 64 + 1000000000)).length)
        ∨ s.stage = 4
      (¬ due → exec (.laneRepair k g) s = .next s)
      ∧ (due → ∃ u, exec (.laneRepair k g) s = .next u
        ∧ (n < 2 → Tbl.get (fun _ => 0) u.err.lanes (k.val * 1024 + g.toNat) = n + 1
            ∧ u.getF (bSc k) Fld.SC_REPAIR_LANES_USED = min 255 (s.getF (bSc k) Fld.SC_REPAIR_LANES_USED + 1))
        ∧ (2 ≤ n → k.val ∈ u.mem.dead)))
    ∧ (∀ (k : RegionId) (b row : BitVec 32),
      let n := Tbl.get (fun _ => 0) s.err.rows (k.val * 2 ^ 32 + b.toNat)
      let due := 3 ≤ s.granulesAt (2 ^ 72 + (k.val * 2 ^ 32 + b.toNat) * 2 ^ 32 + row.toNat)
      (¬ due ∨ 2 ≤ n → exec (.dramRowRepair k b row) s = .next s)
      ∧ (due → n < 2 → ∃ u, exec (.dramRowRepair k b row) s = .next u
        ∧ Tbl.get (fun _ => 0) u.err.rows (k.val * 2 ^ 32 + b.toNat) = n + 1
        ∧ u.getF (bSc k) Fld.SC_REPAIR_ROWS_USED = min 65535 (s.getF (bSc k) Fld.SC_REPAIR_ROWS_USED + 1)))
    ∧ (∀ (k : RegionId) (w : Fin 16),
      let off := (s.ctl k).off
      let due := 16 ≤ s.wayErrs k w 0 ∨ 2 ≤ s.wayErrs k w 1
      (¬ due → exec (.cacheWayDisable k w) s = .next s)
      ∧ (due → ∃ u, exec (.cacheWayDisable k w) s = .next u
        ∧ (w.val ∉ off → off.length < 8 → (u.ctl k).off = w.val :: off ∧ (∀ e ∈ (u.ctl k).lines, e.1 % 16 ≠ w.val)
            ∧ u.getF (bSc k) Fld.SC_STATUS_WAYS = 15 - off.length)
        ∧ (w.val ∉ off → 8 ≤ off.length → k.val ∈ u.mem.dead)))
    ∧ ∀ c : CounterId, ∃ u, exec (.syncRowRemap c) s = .next u
      ∧ ∀ k : Nat, 64 * (c.val / 64) ≤ k → k < 64 * (c.val / 64) + 64 → (u.counterOf k).abandoned = true

/-- While the cluster's island is not in HOLD, CL_SPARE takes a write by the control complex, or sets REJECT in an open job; a
field that a blown fuse backs, or a row whose parity failed, stays. CL_SPARE_PROG begins programming, or sets REJECT in an open
job, while programming, or for a fuse that is blown or whose row failed; other writers change nothing. An injection, or a marker
of the capture's sequence once an engine has captured, copies an awake bank's counters into its shadow, a queue context's counts
into the gathered buffer, a statistics unit's counters into its shadow copy; it skips a sleeping engine, and does nothing outside
a capture or a second time; a marker of another sequence is discarded. READY answers with the header in the snapshot area. A
register write of 4 or 8 bytes, aligned, by an admitted writer to a register that only stores its fields, or clears counters
besides, leaves each field as its access code says and reserved bits as they were, and, the counters cleared apart, all else; it
changes nothing without a register or a unit, or by a writer that
the register does not admit. IC_CTRL and CL_SPARE_STATUS are written out. -/
def Obligations.SparesCapturesAndRegistersAreWritten : Prop :=
  ∀ s : State,
    (∀ (n : ClusterId) (w : Writer) (v : BitVec 32), s.controls w = false ∨ s.blkHeld (bCluster n) = true →
      exec (.clSpareWrite n w v) s = .next s ∧ exec (.clSpareProg n w v) s = .next s)
    ∧ (∀ (n : ClusterId) (w : Writer) (v : BitVec 32), s.controls w = true → s.blkHeld (bCluster n) = false →
      let b := bCluster n
      let parity := s.flag b Fld.CL_SPARE_STATUS_PARITY_BAD
      let fused := s.flag b Fld.CL_SPARE_FUSE_EN
      let stop := s.jobOpen = true ∨ s.flag b Fld.CL_SPARE_STATUS_PROG_BUSY = true ∨ (v.toNat.testBit 4 = true ∧ (fused = true ∨ parity = true))
      (∃ u, exec (.clSpareWrite n w v) s = .next u
        ∧ (s.jobOpen = true → u.flag b Fld.CL_SPARE_STATUS_REJECT = true ∧ u.reg b .CL_SPARE 0 = s.reg b .CL_SPARE 0)
        ∧ (s.jobOpen = false → parity = false → fused = false → u.getF b Fld.CL_SPARE_FOR = v.toNat % 16
            ∧ u.flag b Fld.CL_SPARE_EN = v.toNat.testBit 4)
        ∧ (s.jobOpen = false → parity = true ∨ fused = true → u.reg b .CL_SPARE 0 = s.reg b .CL_SPARE 0
            ∧ u.flag b Fld.CL_SPARE_STATUS_REJECT = s.flag b Fld.CL_SPARE_STATUS_REJECT))
      ∧ ∃ p, exec (.clSpareProg n w v) s = .next p
        ∧ (stop → p.flag b Fld.CL_SPARE_STATUS_REJECT = true ∧ p.err = s.err)
        ∧ (¬ stop → p.flag b Fld.CL_SPARE_STATUS_PROG_BUSY = true ∧ Tbl.get (fun _ => 0) p.err.fuse n = v.toNat % 32 + 32))
    ∧ (∀ (e : Nat) (mark : Option (BitVec 32)),
      let arrives := ∀ q : BitVec 32, mark = some q → q.toNat = s.snap.seq ∧ s.snap.done ≠ []
      let due := s.snap.state = 2 ∧ s.capIn e = true ∧ e ∉ s.snap.done ∧ e ∉ s.snap.skipped
      (¬ arrives ∨ ¬ due → exec (.captureInjection ⟨e, mark⟩) s = .next s)
      ∧ (arrives → due → ∃ u, exec (.captureInjection ⟨e, mark⟩) s = .next u ∧ u.snap.seq = s.snap.seq ∧ u.mem = s.mem
        ∧ (s.capAsleep e = true → u.regs = s.regs ∧ e ∈ u.snap.skipped ∧ u.snap.done = s.snap.done)
        ∧ (s.capAsleep e = false → e ∈ u.snap.done
            ∧ (e < 2 ^ 20 → u.flag (bBank e) Fld.CB_STATUS_CAPTURED = true ∧ u.getF (bBank e) Fld.CB_STATUS_SEQ = s.snap.seq % 2 ^ 32
                ∧ ∀ i : Nat, i < 16 → u.reg (bBank e) .CB_SHADOW i = s.reg (bBank e) .CB_CNT i)
            ∧ (∀ q : Nat, q < 2 ^ 20 → e = capOfQueue q → u.regs = s.regs ∧ Tbl.get (fun _ => none) u.snap.buf (wQueue q) =
                some ((s.queue q).prod.toNat + (s.queue q).cons.toNat * 2 ^ 32))
            ∧ ∀ g : Nat, e = capOfStat g → u.regs = s.regs ∧ ∀ i : Nat, i < 360 →
                Tbl.get (fun _ => 0) u.snap.stat (512 * g + i) = (s.reg (bConv g) .FMT_STAT i).toNat % 2 ^ 48)))
    ∧ (s.snap.state ≠ 3 → exec .captureReady s = .next s)
    ∧ (s.snap.state = 3 → ∃ u, exec .captureReady s = .next u ∧ u.snap.state = 1 ∧ u.regs = s.regs
      ∧ u.answered s.snap.mailbox 0 (s.capHeader.flatMap fun e => leBytes 8 e.2)
      ∧ Tbl.get (fun _ => 0) u.snap.area 0 = s.snap.seq % 2 ^ 64)
    ∧ (∀ (w : Writer) (a : BitVec 52) (wide : Bool) (v : BitVec 64),
      let n := if wide then 8 else 4
      ((∀ off, s.target a.toNat ≠ .regs off) → exec (.registerWrite w a wide v) s = .next s)
      ∧ ∀ off, s.target a.toNat = .regs off →
        let k := off / 2 ^ 40
        let j := off % 2 ^ 40 / 2 ^ 16
        let lo := off % 2 ^ 16 % 8 * 8
        (off % 2 ^ 16 % n ≠ 0 ∨ regAt k j (off % 2 ^ 16 / 8 * 8) = none ∨ s.unitPresent k j = false ∨ s.regHeld off = true →
            exec (.registerWrite w a wide v) s = .next s)
        ∧ ∀ b r i, regAt k j (off % 2 ^ 16 / 8 * 8) = some (b, r, i) →
          let width := min (8 * n) (r.row.width - lo)
          (s.mayWrite w r i = false ∨ width = 0 → exec (.registerWrite w a wide v) s = .next s)
          ∧ (s.mayWrite w r i = true → width ≠ 0 → off % 2 ^ 16 % n = 0 → s.unitPresent k j = true → s.regHeld off = false →
              storesOnly r = true ∨ clearsOnly r = true →
              ∃ u, exec (.registerWrite w a wide v) s = .next u ∧ u = { s with regs := u.regs } ∧ s.writtenFields u w b r i lo width v.toNat
                ∧ (storesOnly r = true → s.sameRegs u (oneReg b r) ∧ ∀ c : Nat, c < 8192 → c ≠ i → u.reg b r c = s.reg b r c)))
    ∧ (∀ v : BitVec 64, ∃ u, exec (.registerWrite .control (BitVec.ofNat 52 (regBase + 9 * 2 ^ 40 + 2 * 2 ^ 16)) true v) s = .next u
      ∧ u.getF (bFn 2) Fld.IC_CTRL_STORM_WIN_US = clampTo 10 1000 (bitsOf v.toNat 2 10)
      ∧ u.getF (bFn 2) Fld.IC_CTRL_STUCK_US = clampTo 1 65535 (bitsOf v.toNat 12 16))
    ∧ ∀ (n : ClusterId) (v : BitVec 64), s.clusterPresent n = true → s.blkHeld (bCluster n) = false →
      ∃ u, exec (.registerWrite .control (BitVec.ofNat 52 (regBase + 3 * 2 ^ 40 + n.val * 2 ^ 16 + 0xC18)) false v) s = .next u
        ∧ u.flag (bCluster n) Fld.CL_SPARE_STATUS_REJECT = (s.flag (bCluster n) Fld.CL_SPARE_STATUS_REJECT && !v.toNat.testBit 1)
        ∧ u.flag (bCluster n) Fld.CL_SPARE_STATUS_PARITY_BAD = s.flag (bCluster n) Fld.CL_SPARE_STATUS_PARITY_BAD
        ∧ s.sameRegs u (oneReg (bCluster n) .CL_SPARE_STATUS)

/-- CB_MODE_WRITE by the control complex, and BANK_MODE of one bank, leave the bank in mode 0 or 1: the mode asked for in a
stack controller's bank, 0 in any other, where a 1 is clamped, which BANK_MODE counts. Where the mode changes, the 16 counters
are 0; where it does not, every register is as before. By any other writer, or while the engine's island is in HOLD, nothing
changes. -/
def Obligations.BankModeChangesClearTheCounters : Prop :=
  ∀ (b : BankIdx) (s : State),
    let now := s.getF (bBank b) Fld.CB_CTRL_MODE
    let force (mode : Nat) : Nat := if bankIsSc b then min 1 mode else 0
    let inMode (u : State) (mode : Nat) : Prop := u.getF (bBank b) Fld.CB_CTRL_MODE = force mode
      ∧ (now ≠ force mode → ∀ i : Nat, i < 16 → u.reg (bBank b) .CB_CNT i = 0) ∧ (now = force mode → u.regs = s.regs)
    (∀ (w : Writer) (on : Bool), s.controls w = false ∨ s.blkHeld (bBank b) = true → exec (.cbModeWrite b w on) s = .next s)
    ∧ (∀ (w : Writer) (on : Bool), s.controls w = true → s.blkHeld (bBank b) = false →
        ∃ u, exec (.cbModeWrite b w on) s = .next u ∧ inMode u (if on then 1 else 0))
    ∧ ∀ m : MailboxId, s.blkHeld (bBank b) = false → s.takes m 0xA1 [0, 1, 2] → bankOk b = true → s.req m 0 4 = b → s.req m 4 4 = 1 →
      ∃ u, exec (.bankMode m) s = .next u ∧ inMode u (s.req m 8 4) ∧ u.answered m 0 [BitVec.ofNat 8 (force (s.req m 8 4))]
        ∧ (u.mb m).clamps = satAdd (s.mb m).clamps (if s.req m 8 4 = force (s.req m 8 4) then 0 else 1)

/-- While BOOT_STATUS.STAGE is 4 or 5, no job open and no job-state command in progress: PING, IDENT_READ, ATTEST and BOOT_QUERY
are answered OK, EVENT_RING_SET and RESET are answered otherwise than with STATE, or the reset is in progress; every other
command of the command set is answered with STATE. -/
def Obligations.BeforeReadyOnlySixCommandsAreAnswered : Prop :=
  ∀ (m : MailboxId) (r : MeterReading) (form : Reform) (s : State), (s.stage = 4 ∨ s.stage = 5) → s.job.busy = none → s.job.phase = 0 →
    (∀ e ∈ [(Instr.ping m, 0x01), (.identRead m, 0x91), (.attest m, 0x90), (.bootQuery m, 0x98)], s.kciTakes m e.2 = true →
      ∃ u, exec e.1 s = .next u ∧ ∃ p, u.answered m 0 p)
    ∧ (s.kciTakes m 0x02 = true → ∃ u, exec (.eventRingSet m) s = .next u ∧ ∃ st p, st ≠ 2 ∧ u.answered m st p)
    ∧ (s.kciTakes m 0x97 = true → ∃ u, exec (.reset m) s = .next u
      ∧ ((∃ st p, st ≠ 2 ∧ u.answered m st p) ∨ ∃ q ∈ u.rot.resets, q.mailbox = some m.val))
    ∧ ∀ e ∈ [(Instr.mapLoad m, 0x10), (.jobOpen m, 0x20), (.jobSuspend m, 0x21), (.jobResume m, 0x22), (.jobClose m, 0x23), (.reseed m, 0x24),
        (.ringReform m form, 0x25), (.queueBind m, 0x30), (.counterOp m, 0x40), (.counterWait m, 0x41), (.rangeSet m, 0x50),
        (.groupWrite m, 0x51), (.reflectAdd m, 0x52), (.reflectRemove m, 0x53), (.regRead m, 0x60), (.regWrite m, 0x61), (.oppWrite m, 0x70),
        (.phaseMap m, 0x71), (.islandSet m, 0x72), (.deviceState m, 0x73), (.powerLimit m, 0x74), (.powerRead m, 0x75),
        (.meterTag m r, 0x80), (.meterRead m, 0x81), (.meterAck m, 0x82), (.meterIdent m, 0x83), (.meterAudit m, 0x84),
        (.apportionRead m, 0x85), (.fwLoad m, 0x92), (.fwCommit m, 0x93), (.keyEnrol m, 0x94), (.keyRemove m, 0x95), (.extUnload m, 0x96),
        (.capture m, 0xA0), (.bankMode m, 0xA1), (.bankClear m, 0xA2)],
      s.kciTakes m e.2 = true → ∃ u, exec e.1 s = .next u ∧ u.answered m 2 []

/-- After cold reset no command waits, the device time is 0, the memories read as zero, every context is FREE with its registers
zero but p0, every sync counter is 0, LIVE, with its flags clear and owned by the package, no queue holds a descriptor, every
mailbox is IDLE, no job is open, no map is loaded, start-up stands at stage 0, and registers hold the reset values of their
tables: quotas, windows, limits, the scrub interval. That host memory reads as zero, and the values of registers and identities
without a stated reset value, are the model's choice (log entries 3 and 4) and not claimed here, the tiers' zero being that of
their clearing at start-up (log entry 4). -/
def Obligations.ResetLeavesTheStatedValues : Prop :=
  let s := State.reset
  s.pending = [] ∧ s.time = 0 ∧ s.job.phase = 0 ∧ s.stage = 0 ∧ s.lw.map = none ∧ s.job.accepted = [] ∧ s.sync.waits = []
    ∧ (∀ a : Nat, Memory.read s.mem.dev a = 0 ∧ Memory.read s.mem.scratch a = 0)
    ∧ (∀ t c : Nat, (s.thr t c).run = .free ∧ (∀ r : Nat, s.x t c r = 0) ∧ ∀ k : Nat, 0 < k → k < 8 → s.p t c k = false)
    ∧ (∀ c : Nat, (s.counterOf c).value = 0 ∧ (s.counterOf c).abandoned = false ∧ (s.counterOf c).satHi = false
        ∧ (s.counterOf c).satLo = false ∧ (s.counterOf c).owner = udPackage)
    ∧ (∀ q : Nat, s.queueEmpty q = true) ∧ (∀ m : Nat, (s.mb m).state = 0)
    ∧ (∀ n : ClusterId, s.getF (bCluster n) Fld.GS_QUOTA_QUOTA = 64)
    ∧ s.getF (bFn 2) Fld.IC_CTRL_STORM_WIN_US = 100 ∧ s.getF (bFn 2) Fld.IC_CTRL_STUCK_US = 1000
    ∧ s.getF (bFn 7) Fld.ERR_CTRL_SCRUB_H = 24
    ∧ ∀ t : TileId, s.flag (bTile t) Fld.SEQ_CTRL_HALT_ISSUE = false ∧ s.getF (bTile t) Fld.SR_CTR_COUNT = 0

/-- The memories, the register file, the sync counters and the tiles' storage of the reset state are in canonical form, and its
counters hold 32-bit values. -/
def Obligations.ResetStateIsCanonical : Prop :=
  State.reset.canonical

/-- From every state in canonical form (memories, register file, sync counters, tile storage: keys strictly rising, nothing
listed that an unlisted key reads as; every counter's value below 2^32), whatever command stands in front of the queue, a step
that answers a next state leaves a state in canonical form. A counter that a command adds to saturates or wraps within its 32
bits. -/
def Obligations.EveryStepKeepsTheStateCanonical : Prop :=
  ∀ s t : State, s.canonical → step s = .next t → t.canonical

/-- Whatever the state, a command that is not one of the meter's ten rows, nor a management frame that carries METER_TAG or
METER_ACK, leaves the meter's stored records, open and held intervals, audit log, service parameters and restart state as they
were, and every MTR_ register as software reads it; so does every reset level. Where the rails drop or come back (a loss or
return of the input, a trip, a restart after one) the open interval takes in what its islands have been estimated at so far, and
a restart is one of the meter too; nothing else of it changes. -/
def Obligations.OnlyMeterRowsChangeTheMeter : Prop :=
  ∀ (c : Instr) (s t : State), c.isMeter = false →
    (∀ (f : List Byte) (r : MeterReading), c = .mgmtFrame f r → bitsOf (leNat (cut f 0 8)) 0 16 ∉ [0x80, 0x82]) →
    exec c s = .next t →
      (∀ (r : Reg) (i : Nat), r.row.cls = .meter → i < 8192 → t.regView bMeter r i = s.regView bMeter r i)
      ∧ (c.movesRails = false → t.mtr = s.mtr)
      ∧ (t.mtr = s.mtr ∨ ∃ again : Bool,
          t.mtr = { s.mtr with cur := { s.mtr.cur with shares := s.sharesNow }, restarted := s.mtr.restarted || again })
end

