-- ==== Sys2Proof/Laws/Bits.lean ====
section
/-! SUPPORT. Laws of fields of a number: what a replaced field reads as, and that the other bits stay. -/

namespace Sys2Proof

/-- The bits of a number with a field replaced. -/
theorem testBit_setBits (n lo w v i : Nat) :
    (setBits n lo w v).testBit i = if i < lo then n.testBit i else if i < lo + w then v.testBit (i - lo) else n.testBit i := by
  unfold setBits
  have e : n % 2 ^ lo + v % 2 ^ w * 2 ^ lo + n / 2 ^ (lo + w) * 2 ^ (lo + w)
      = 2 ^ lo * (2 ^ w * (n / 2 ^ (lo + w)) + v % 2 ^ w) + n % 2 ^ lo := by
    rw [Nat.pow_add]; ring
  rw [e, Nat.testBit_two_pow_mul_add _ (Nat.mod_lt _ (Nat.two_pow_pos _))]
  split
  · next h => simp [Nat.testBit_mod_two_pow, h]
  · next h =>
    rw [Nat.testBit_two_pow_mul_add _ (Nat.mod_lt _ (Nat.two_pow_pos _))]
    by_cases hw : i - lo < w
    · have h2 : i < lo + w := by omega
      simp [hw, h2, Nat.testBit_mod_two_pow]
    · have h2 : ¬ i < lo + w := by omega
      simp only [hw, h2, if_false]
      rw [Nat.testBit_div_two_pow]
      congr 1; omega

theorem testBit_bitsOf (n lo w i : Nat) : (bitsOf n lo w).testBit i = (decide (i < w) && n.testBit (i + lo)) := by
  simp [bitsOf, Nat.testBit_mod_two_pow, Nat.testBit_div_two_pow]

/-- A field reads as what was put there. -/
@[simp] theorem bitsOf_setBits_same (n lo w v : Nat) : bitsOf (setBits n lo w v) lo w = v % 2 ^ w := by
  apply Nat.eq_of_testBit_eq
  intro i
  rw [testBit_bitsOf, testBit_setBits, Nat.testBit_mod_two_pow]
  by_cases h : i < w
  · have h1 : ¬ i + lo < lo := by omega
    have h2 : i + lo < lo + w := by omega
    simp [h, h1, h2]
  · simp [h]

/-- Bits outside the field stay. -/
theorem bitsOf_setBits_other (n lo w v lo' w' : Nat) (h : lo' + w' ≤ lo ∨ lo + w ≤ lo') :
    bitsOf (setBits n lo w v) lo' w' = bitsOf n lo' w' := by
  apply Nat.eq_of_testBit_eq
  intro i
  rw [testBit_bitsOf, testBit_bitsOf, testBit_setBits]
  by_cases hi : i < w'
  · rcases h with h | h
    · have h1 : i + lo' < lo := by omega
      simp [h1]
    · have h1 : ¬ i + lo' < lo := by omega
      have h2 : ¬ i + lo' < lo + w := by omega
      simp [h1, h2]
  · simp [hi]

/-- A field within k bits keeps a number within k bits. -/
theorem setBits_lt (n lo w v k : Nat) (hn : n < 2 ^ k) (hw : lo + w ≤ k) : setBits n lo w v < 2 ^ k := by
  apply Nat.lt_pow_two_of_testBit
  intro i hi
  rw [testBit_setBits]
  have h1 : ¬ i < lo := by omega
  have h2 : ¬ i < lo + w := by omega
  simp only [h1, h2, if_false]
  exact Nat.testBit_eq_false_of_lt (Nat.lt_of_lt_of_le hn (Nat.pow_le_pow_right (by decide) hi))

theorem satAdd_le (n k : Nat) : satAdd n k ≤ cntMax := Nat.min_le_left ..

@[simp] theorem leBytes_length (n v : Nat) : (leBytes n v).length = n := by
  induction n generalizing v with
  | zero => rfl
  | succ n ih => simp [leBytes, ih]

/-- A number of n bytes written little-endian reads back. -/
theorem leNat_leBytes (n v : Nat) : leNat (leBytes n v) = v % 256 ^ n := by
  induction n generalizing v with
  | zero => simp [leBytes, leNat, Nat.mod_one]
  | succ n ih =>
    simp only [leBytes, leNat, ih, BitVec.toNat_ofNat]
    rw [show (2 : Nat) ^ 8 = 256 from rfl, Nat.pow_succ, Nat.mul_comm (256 ^ n) 256, Nat.mod_mul]

@[simp] theorem upFrom_length (s n : Nat) : (upFrom s n).length = n := by
  induction n generalizing s with
  | zero => rfl
  | succ n ih => simp [upFrom, ih]

theorem mem_upFrom (s n k : Nat) : k ∈ upFrom s n ↔ s ≤ k ∧ k < s + n := by
  induction n generalizing s with
  | zero => simp [upFrom]
  | succ n ih => simp [upFrom, ih]; omega

end Sys2Proof
end

