-- ==== Sys2Proof/Laws/Tbl.lean ====
section
/-! SUPPORT. Laws of the sparse tables: a read after a write gives the value written, a write leaves every other key alone, and
every table operation keeps the canonical form. -/

namespace Sys2Proof.Machine.Tbl
variable {α : Type}

/-! ### Reads after writes -/

theorem find?_insert_same (t : Tbl α) (k : Nat) (v : α) : find? (insert t k v) k = some v := by
  induction t with
  | nil => simp [insert, find?]
  | cons e r ih =>
    obtain ⟨j, w⟩ := e
    simp only [insert]
    split
    · next h => simp [find?, Nat.ne_of_lt h, ih]
    · split <;> simp [find?]

theorem find?_insert_other (t : Tbl α) {k j : Nat} (v : α) (h : j ≠ k) : find? (insert t k v) j = find? t j := by
  induction t with
  | nil => simp [insert, find?, Ne.symm h]
  | cons e r ih =>
    obtain ⟨i, w⟩ := e
    simp only [insert]
    split
    · simp only [find?, ih]
    · split
      · next hk => subst hk; simp [find?, Ne.symm h]
      · simp [find?, Ne.symm h]

theorem find?_erase_same (t : Tbl α) (k : Nat) : find? (erase t k) k = none := by
  induction t with
  | nil => rfl
  | cons e r ih =>
    obtain ⟨j, w⟩ := e
    by_cases hj : j = k <;> simp [erase, find?, hj, ih]

theorem find?_erase_other (t : Tbl α) {k j : Nat} (h : j ≠ k) : find? (erase t k) j = find? t j := by
  induction t with
  | nil => rfl
  | cons e r ih =>
    obtain ⟨i, w⟩ := e
    by_cases hi : i = k
    · subst hi; simp [erase, find?, ih, Ne.symm h]
    · simp [erase, find?, hi, ih]

theorem find?_filter (t : Tbl α) (p : Nat → Bool) (k : Nat) :
    find? (t.filter fun e => p e.1) k = if p k then find? t k else none := by
  induction t with
  | nil => simp [find?]
  | cons e r ih =>
    obtain ⟨j, w⟩ := e
    by_cases hj : j = k
    · subst hj
      by_cases hp : p j <;> simp [List.filter, find?, hp, ih]
    · by_cases hp : p j <;> simp [List.filter, find?, hp, hj, ih]

variable [DecidableEq α]

/-- A read after a write of the same key gives the value written. -/
@[simp] theorem get_put_same (d : Nat → α) (t : Tbl α) (k : Nat) (v : α) : get d (put d t k v) k = v := by
  unfold get put
  split
  · next h => simp [find?_erase_same, h]
  · simp [find?_insert_same]

/-- A write leaves every other key alone. -/
theorem get_put_other (d : Nat → α) (t : Tbl α) {k j : Nat} (v : α) (h : j ≠ k) : get d (put d t k v) j = get d t j := by
  unfold get put
  split
  · rw [find?_erase_other t h]
  · rw [find?_insert_other t v h]

theorem get_put (d : Nat → α) (t : Tbl α) (k j : Nat) (v : α) : get d (put d t k v) j = if j = k then v else get d t j := by
  by_cases h : j = k
  · subst h; simp
  · simp [h, get_put_other d t v h]

omit [DecidableEq α] in
theorem get_dropRange (d : Nat → α) (t : Tbl α) (lo hi k : Nat) :
    get d (dropRange t lo hi) k = if k < lo ∨ hi ≤ k then get d t k else d k := by
  unfold get dropRange
  rw [find?_filter t (fun j => j < lo || hi ≤ j)]
  by_cases h : k < lo ∨ hi ≤ k <;> simp [h]

omit [DecidableEq α] in
@[simp] theorem get_nil (d : Nat → α) (k : Nat) : get d [] k = d k := rfl

/-! ### The canonical form -/

/-- Every key of a table satisfies a bound. -/
def above (n : Nat) (t : Tbl α) : Prop := ∀ e ∈ t, n < e.1

omit [DecidableEq α] in
theorem sorted_cons (j : Nat) (w : α) (r : Tbl α) : sorted ((j, w) :: r) = true ↔ above j r ∧ sorted r = true := by
  induction r generalizing j w with
  | nil => simp [sorted, above]
  | cons e r ih =>
    obtain ⟨k, v⟩ := e
    simp only [sorted, Bool.and_eq_true, decide_eq_true_eq]
    constructor
    · rintro ⟨h, hs⟩
      refine ⟨?_, hs⟩
      intro x hx
      rcases List.mem_cons.1 hx with rfl | hx
      · exact h
      · exact Nat.lt_trans h (((ih k v).1 hs).1 x hx)
    · rintro ⟨h, hs⟩
      exact ⟨h (k, v) (List.mem_cons_self ..), hs⟩

omit [DecidableEq α] in
theorem mem_insert {t : Tbl α} {k : Nat} {v : α} {e : Nat × α} (h : e ∈ insert t k v) : e = (k, v) ∨ e ∈ t := by
  induction t with
  | nil => simpa [insert] using h
  | cons x r ih =>
    obtain ⟨j, w⟩ := x
    simp only [insert] at h
    split at h
    · rcases List.mem_cons.1 h with rfl | h
      · simp
      · rcases ih h with h | h <;> simp [h]
    · split at h
      · rcases List.mem_cons.1 h with rfl | h <;> simp [*]
      · rcases List.mem_cons.1 h with rfl | h <;> simp_all

omit [DecidableEq α] in
theorem sorted_insert {t : Tbl α} (k : Nat) (v : α) (h : sorted t = true) : sorted (insert t k v) = true := by
  induction t with
  | nil => rfl
  | cons e r ih =>
    obtain ⟨j, w⟩ := e
    obtain ⟨ha, hs⟩ := (sorted_cons j w r).1 h
    simp only [insert]
    split
    · next hj =>
      refine (sorted_cons ..).2 ⟨?_, ih hs⟩
      intro x hx
      rcases mem_insert hx with rfl | hx
      · exact hj
      · exact ha x hx
    · split
      · next hjk => subst hjk; exact (sorted_cons ..).2 ⟨ha, hs⟩
      · next h1 h2 =>
        refine (sorted_cons ..).2 ⟨?_, h⟩
        have hk : k < j := by omega
        intro x hx
        rcases List.mem_cons.1 hx with rfl | hx
        · exact hk
        · exact Nat.lt_trans hk (ha x hx)

omit [DecidableEq α] in
theorem erase_eq_filter (t : Tbl α) (k : Nat) : erase t k = t.filter fun e => e.1 ≠ k := by
  induction t with
  | nil => rfl
  | cons e r ih =>
    obtain ⟨j, w⟩ := e
    by_cases h : j = k <;> simp [erase, h, ih]

omit [DecidableEq α] in
theorem sorted_filter {t : Tbl α} (p : Nat × α → Bool) (h : sorted t = true) : sorted (t.filter p) = true := by
  induction t with
  | nil => rfl
  | cons e r ih =>
    obtain ⟨j, w⟩ := e
    obtain ⟨ha, hs⟩ := (sorted_cons j w r).1 h
    by_cases hp : p (j, w)
    · simp only [List.filter, hp]
      refine (sorted_cons ..).2 ⟨?_, ih hs⟩
      intro x hx
      exact ha x (List.mem_filter.1 hx).1
    · simp only [List.filter, hp]
      exact ih hs

theorem wf_filter {d : Nat → α} {t : Tbl α} (p : Nat × α → Bool) (h : wf d t = true) : wf d (t.filter p) = true := by
  simp only [wf, Bool.and_eq_true] at h ⊢
  refine ⟨sorted_filter p h.1, ?_⟩
  rw [List.all_eq_true] at h ⊢
  intro e he
  exact h.2 e (List.mem_filter.1 he).1

/-- A write keeps the canonical form. -/
theorem wf_put {d : Nat → α} {t : Tbl α} (k : Nat) (v : α) (h : wf d t = true) : wf d (put d t k v) = true := by
  unfold put
  split
  · rw [erase_eq_filter]; exact wf_filter _ h
  · next hv =>
    simp only [wf, Bool.and_eq_true] at h ⊢
    refine ⟨sorted_insert k v h.1, ?_⟩
    have h2 := h.2
    rw [List.all_eq_true] at h2 ⊢
    intro e he
    rcases mem_insert he with rfl | he
    · simpa using hv
    · exact h2 e he

theorem wf_erase {d : Nat → α} {t : Tbl α} (k : Nat) (h : wf d t = true) : wf d (erase t k) = true := by
  rw [erase_eq_filter]; exact wf_filter _ h

theorem wf_upd {d : Nat → α} {t : Tbl α} (k : Nat) (f : α → α) (h : wf d t = true) : wf d (upd d t k f) = true :=
  wf_put k _ h

theorem wf_dropRange {d : Nat → α} {t : Tbl α} (lo hi : Nat) (h : wf d t = true) : wf d (dropRange t lo hi) = true :=
  wf_filter _ h

theorem wf_dropIf {d : Nat → α} {t : Tbl α} (p : Nat → Bool) (h : wf d t = true) : wf d (dropIf t p) = true :=
  wf_filter _ h

theorem wf_nil (d : Nat → α) : wf d [] = true := rfl

end Sys2Proof.Machine.Tbl

namespace Sys2Proof.Machine.Memory

/-- A byte read back after a write of it. -/
@[simp] theorem read_write_same (m : Memory) (a : Nat) (b : Byte) : read (write m a b) a = b :=
  Tbl.get_put_same ..

/-- A write leaves every other byte alone. -/
theorem read_write_other (m : Memory) {a c : Nat} (b : Byte) (h : c ≠ a) : read (write m a b) c = read m c :=
  Tbl.get_put_other _ _ _ h

/-- Every byte outside the bytes written reads as before. -/
theorem read_writeBytes_outside (bs : List Byte) (m : Memory) {a c : Nat} (h : c < a ∨ a + bs.length ≤ c) :
    read (writeBytes m a bs) c = read m c := by
  induction bs generalizing m a with
  | nil => rfl
  | cons b r ih =>
    simp only [writeBytes, List.length_cons] at h ⊢
    rw [ih _ (by omega), read_write_other _ _ (by omega)]

/-- The bytes written read back. -/
theorem read_writeBytes_inside (bs : List Byte) (m : Memory) (a i : Nat) (h : i < bs.length) :
    read (writeBytes m a bs) (a + i) = bs[i] := by
  induction bs generalizing m a i with
  | nil => simp at h
  | cons b r ih =>
    cases i with
    | zero =>
      simp only [writeBytes, Nat.add_zero, List.getElem_cons_zero]
      rw [read_writeBytes_outside _ _ (by omega), read_write_same]
    | succ i =>
      simp only [writeBytes, List.getElem_cons_succ]
      rw [show a + (i + 1) = a + 1 + i by omega]
      exact ih _ _ _ (by simpa using h)

/-- Bytes read back after they were written. -/
theorem readBytes_writeBytes (bs : List Byte) (m : Memory) (a : Nat) : readBytes (writeBytes m a bs) a bs.length = bs := by
  have key : ∀ (n i : Nat) (m' : Memory), i + n = bs.length → (∀ j, (hj : j < bs.length) → read m' (a + j) = bs[j]) →
      readBytes m' (a + i) n = bs.drop i := by
    intro n
    induction n with
    | zero => intro i m' h _; simp [readBytes, List.drop_eq_nil_of_le (show bs.length ≤ i by omega)]
    | succ n ih =>
      intro i m' h hr
      rw [readBytes, hr i (by omega), show a + i + 1 = a + (i + 1) by omega, ih (i + 1) m' (by omega) hr,
        List.drop_eq_getElem_cons (show i < bs.length by omega)]
  simpa using key bs.length 0 (writeBytes m a bs) (by omega) (fun j hj => read_writeBytes_inside bs m a j hj)

/-- Every memory operation keeps the canonical form. -/
theorem wf_write {m : Memory} (a : Nat) (b : Byte) (h : wf m = true) : wf (write m a b) = true := Tbl.wf_put a b h
theorem wf_writeBytes {m : Memory} (a : Nat) (bs : List Byte) (h : wf m = true) : wf (writeBytes m a bs) = true := by
  induction bs generalizing m a with
  | nil => exact h
  | cons b r ih => exact ih _ (wf_write a b h)
theorem wf_writeLE {m : Memory} (a n v : Nat) (h : wf m = true) : wf (writeLE m a n v) = true := wf_writeBytes a _ h
theorem wf_clearRange {m : Memory} (lo hi : Nat) (h : wf m = true) : wf (clearRange m lo hi) = true := Tbl.wf_dropRange lo hi h

end Sys2Proof.Machine.Memory
end

