-- ==== Sys2Proof/Laws/Bytes.lean ====
section
/-! SUPPORT. Bytes in bulk: device memory that lists nothing, the slow tier, cuts of byte lists, topology maps, the CRC's range. -/

namespace Sys2Proof.Machine

theorem foldl_keeps {α β : Type} {P : β → Prop} {f : β → α → β} (hf : ∀ c a, P c → P (f c a)) : ∀ (l : List α) (c : β), P c → P (l.foldl f c)
  | [], _, h => h
  | a :: l, c, h => foldl_keeps hf l (f c a) (hf c a h)

theorem crc32_lt (bs : List Byte) : crc32 bs < 2 ^ 32 := by
  unfold crc32
  refine Nat.xor_lt_two_pow (foldl_keeps (P := (· < 2 ^ 32)) (fun c b hc => ?_) bs _ (by decide)) (by decide)
  refine foldl_keeps (P := (· < 2 ^ 32)) (fun c _ hc => ?_) _ _ (Nat.xor_lt_two_pow hc (Nat.lt_of_lt_of_le b.isLt (by decide)))
  split
  · exact Nat.xor_lt_two_pow (by omega) (by decide)
  · omega

theorem Memory.read_above (m : Memory) (k : Nat) (h : ∀ e ∈ m, e.1 < k) : Memory.read m k = 0 := by
  have f : Tbl.find? m k = none := by
    induction m with
    | nil => rfl
    | cons e r ih =>
      rw [Tbl.find?, if_neg (by have := h e (by simp); omega)]
      exact ih fun x hx => h x (by simp [hx])
  rw [Memory.read, Tbl.get, f]; rfl

/-- Memory that lists nothing reads as zeros. -/
theorem devBytes_empty {s : State} (hd : s.mem.dev = []) (hh : s.mem.host = []) (a n : Nat) : s.devBytes a n = List.replicate n 0 := by
  have h (a : Nat) : s.devByte a = 0 := by
    simp only [State.devByte]
    split
    · rfl
    split
    · rw [hh]; rfl
    · split
      · rw [hd]; rfl
      · rfl
  induction n generalizing a with
  | zero => rfl
  | succ n ih => rw [State.devBytes, h, ih]; rfl

/-- The slow tier's bytes stand at their addresses. -/
theorem slow_devBytes {s : State} (hb : s.mem.bad = []) (hd : s.mem.deadPairs = []) (hw : s.mem.badWords = []) (a n : Nat) (lo : slowBase ≤ a) (hi : a + n ≤ slowTop) :
    s.devBytes a n = Memory.readBytes s.mem.dev a n := by
  induction n generalizing a with
  | zero => rfl
  | succ n ih =>
    have ht : s.target a = .slow (a - slowBase) := by
      unfold State.target
      have h1 : slowTop ≤ regBase := by decide
      have h2 : slowTop ≤ hostBase := by decide
      rw [if_neg (by omega), if_neg (by omega), if_pos (by omega)]
    rw [State.devBytes, Memory.readBytes, ih _ (by omega) (by omega)]
    congr 1
    unfold State.devByte
    rw [ht]
    simp [tierKey, State.failing, State.wordFails, hb, hd, hw, show slowBase + (a - slowBase) = a by omega]

theorem cut_getElem (l : List Byte) (lo n : Nat) : cut l lo n = (List.range n).map fun i => l.getD (lo + i) 0 := by
  unfold cut fit
  apply List.ext_getElem
  · simp
  · intro i h1 h2
    simp at h2
    by_cases h : lo + i < l.length
    · rw [List.getElem_append_left (by simp; omega)]
      simp [h]
    · rw [List.getElem_append_right (by simp; omega)]
      simp [List.getElem?_eq_none (Nat.le_of_not_lt h)]

theorem cut_zeros (l : List Byte) (k lo n : Nat) : cut (l ++ List.replicate k 0) lo n = cut l lo n := by
  rw [cut_getElem, cut_getElem]
  refine List.map_congr_left fun i _ => ?_
  simp only [List.getD_eq_getElem?_getD, List.getElem?_append, List.getElem?_replicate]
  split
  · rfl
  · rw [List.getElem?_eq_none (by omega)]; split <;> rfl

theorem mapOf_zeros (l : List Byte) (k : Nat) : mapOf (l ++ List.replicate k 0) = mapOf l := by
  unfold mapOf; simp only [cut_zeros]

/-- A map of at most one position entry. -/
theorem mapOf_pos {l : List Byte} (h : l.length ≤ 328) : (mapOf l).pos = (if (leNat (cut l 0x140 8)).testBit 49 then [(0, leNat (cut l 0x140 8))] else []) := by
  have e : upFrom 0 65536 = 0 :: upFrom 1 65535 := rfl
  unfold mapOf
  simp only [e]
  rw [List.filterMap_cons]
  have z : (upFrom 1 65535).filterMap (fun k => if (leNat (cut l (0x140 + 8 * k) 8)).testBit 49 then some (k, leNat (cut l (0x140 + 8 * k) 8)) else none) = [] := by
    rw [List.filterMap_eq_nil_iff]
    intro k hk
    have hk := (mem_upFrom _ _ _).1 hk
    have : cut l (0x140 + 8 * k) 8 = List.replicate 8 0 := by
      unfold cut
      rw [List.drop_eq_nil_of_le (by omega)]; rfl
    rw [this]; rfl
  rw [z]
  split <;> simp_all

theorem mapOk_zeros (l : List Byte) (k : Nat) : mapOk (l ++ List.replicate k 0) = mapOk l := by
  unfold mapOk; simp only [mapOf_zeros, cut_zeros]


end Sys2Proof.Machine
end

