-- ==== Sys2Proof/Laws/State.lean ====
section
/-! SUPPORT. Laws of the state's accessors: a read after a write, and what each update leaves alone. -/

namespace Sys2Proof.Machine

/-! ### Registers -/

/-- Keys of register instances are distinct. -/
theorem rkey_inj {b c : Blk} {r q : Reg} {i j : Nat} (hb : b.i < 2 ^ 20) (hc : c.i < 2 ^ 20) (hi : i < 8192) (hj : j < 8192)
    (h : rkey b r i = rkey c q j) : b = c ∧ r = q ∧ i = j := by
  have hr : r.ctorIdx < 256 := by cases r <;> decide
  have hq : q.ctorIdx < 256 := by cases q <;> decide
  unfold rkey at h
  have e1 : i = j := by omega
  have e2 : r.ctorIdx = q.ctorIdx := by omega
  have e3 : b.i = c.i := by omega
  have e4 : b.k = c.k := by omega
  refine ⟨?_, ?_, e1⟩
  · cases b; cases c; simp_all
  · have : ∀ x : Reg, Reg.ofNat x.ctorIdx = x := by intro x; cases x <;> rfl
    rw [← this r, ← this q, e2]

namespace State

@[simp] theorem reg_setReg_same (s : State) (b : Blk) (r : Reg) (i : Nat) (v : Word) : (s.setReg b r i v).reg b r i = v := by
  simp [reg, setReg]

theorem reg_setReg (s : State) (b c : Blk) (r q : Reg) (i j : Nat) (v : Word) :
    (s.setReg b r i v).reg c q j = if rkey c q j = rkey b r i then v else s.reg c q j := by
  simp [reg, setReg, Tbl.get_put]

/-- A write of one register leaves every other alone. -/
theorem reg_setReg_other (s : State) {b c : Blk} {r q : Reg} {i j : Nat} (v : Word) (hb : b.i < 2 ^ 20) (hc : c.i < 2 ^ 20)
    (hi : i < 8192) (hj : j < 8192) (h : ¬ (c = b ∧ q = r ∧ j = i)) : (s.setReg b r i v).reg c q j = s.reg c q j := by
  rw [reg_setReg, if_neg]
  intro he
  exact h (rkey_inj hc hb hj hi he)

/-- A field set reads back. -/
theorem getF_setF_same (s : State) (b : Blk) (f : Fld) (v i : Nat) (hf : f.lo + f.w ≤ 64) :
    (s.setF b f v i).getF b f i = v % 2 ^ f.w := by
  have hlt : setBits (s.reg b f.reg i).toNat f.lo f.w v < 2 ^ 64 := setBits_lt _ _ _ _ _ (BitVec.isLt _) hf
  simp only [getF, setF, reg_setReg_same, BitVec.toNat_ofNat, Nat.mod_eq_of_lt hlt, bitsOf_setBits_same]

/-- A field set leaves the register's other fields alone. -/
theorem getF_setF_field (s : State) (b : Blk) (f g : Fld) (v i : Nat) (hr : g.reg = f.reg) (hf : f.lo + f.w ≤ 64)
    (h : g.lo + g.w ≤ f.lo ∨ f.lo + f.w ≤ g.lo) : (s.setF b f v i).getF b g i = s.getF b g i := by
  have hlt : setBits (s.reg b f.reg i).toNat f.lo f.w v < 2 ^ 64 := setBits_lt _ _ _ _ _ (BitVec.isLt _) hf
  simp only [getF, setF, hr, reg_setReg_same, BitVec.toNat_ofNat, Nat.mod_eq_of_lt hlt, bitsOf_setBits_other _ _ _ _ _ _ h]

/-- A register set leaves the fields of every other alone. -/
theorem getF_setReg_other (s : State) {b c : Blk} {r : Reg} {g : Fld} {i j : Nat} (v : Word) (hb : b.i < 2 ^ 20)
    (hc : c.i < 2 ^ 20) (hi : i < 8192) (hj : j < 8192) (h : ¬ (c = b ∧ g.reg = r ∧ j = i)) :
    (s.setReg b r i v).getF c g j = s.getF c g j := by
  simp [getF, reg_setReg_other s v hb hc hi hj h]

theorem getF_setF_other (s : State) {b c : Blk} {f g : Fld} {i j : Nat} (v : Nat) (hb : b.i < 2 ^ 20)
    (hc : c.i < 2 ^ 20) (hi : i < 8192) (hj : j < 8192) (h : ¬ (c = b ∧ g.reg = f.reg ∧ j = i)) :
    (s.setF b f v i).getF c g j = s.getF c g j :=
  getF_setReg_other s _ hb hc hi hj h

/-- A flag set reads back. -/
theorem flag_setFlag_same (s : State) (b : Blk) (f : Fld) (v : Bool) (i : Nat) (hf : f.lo + f.w ≤ 64) (hw : f.w = 1) :
    (s.setFlag b f v i).flag b f i = v := by
  cases v <;> simp [flag, setFlag, getF_setF_same _ _ _ _ _ hf, hw]

end State
end Sys2Proof.Machine
end

