-- ==== Sys2Proof/Tests/Slice0.lean ====
section
/-! SUPPORT. Tests of the model: the well-formedness limits, words written out from the encoding tables, results worked by hand from the
rules, and for each statement states and operands that meet its premises. -/

open Sys2Proof Sys2Proof.Machine

namespace Sys2Proof.Tests

set_option Elab.async false

/-! ### Well-formed commands: each check refuses an ill-formed term -/

def reading : MeterReading := ⟨5000000, 3000, 777, 4790, 4810, 3100, false⟩

theorem test_wf_fmtClear : (Instr.fmtClear 10769).wf = true ∧ (Instr.fmtClear 10770).wf = false := by decide
theorem test_wf_stackAccess : (Instr.stackAccess 0 .read [] 128).wf = true ∧ (Instr.stackAccess 0 .read [] 129).wf = false
    ∧ (Instr.stackAccess 0 .write [] 0).wf = false ∧ (Instr.stackAccess 0 .write [1] 1).wf = true := by decide
theorem test_wf_slowTierAccess : (Instr.slowTierAccess 0 false [] 4096 0).wf = true ∧ (Instr.slowTierAccess 0 false [] 4097 0).wf = false
    ∧ (Instr.slowTierAccess 0 true [] 0 0).wf = false := by decide
theorem test_wf_hostWindowAccess : (Instr.hostWindowAccess 0 true [1]).wf = true ∧ (Instr.hostWindowAccess 0 true []).wf = false := by decide
theorem test_wf_bar0Access : (Instr.bar0Access 0 false 64 []).wf = true ∧ (Instr.bar0Access 0 false 65 []).wf = false := by decide
theorem test_wf_bar2Access : (Instr.bar2Access 0 false false 4096 []).wf = true
    ∧ (Instr.bar2Access 0 false false 4097 []).wf = false ∧ (Instr.bar2Access 0 false false 8 [1]).wf = false := by decide
theorem test_wf_remoteWriteLanded : (Instr.remoteWriteLanded 0 0 0 0 []).wf = false ∧ (Instr.remoteWriteLanded 0 0 0 0 [1]).wf = true := by decide
theorem test_wf_lwFrameReceive : (Instr.lwFrameReceive 0 (List.replicate 256 0) 0 0 0).wf = true
    ∧ (Instr.lwFrameReceive 0 (List.replicate 255 0) 0 0 0).wf = false := by decide +kernel
theorem test_wf_mailboxResponse : (Instr.mailboxResponse 0 0 (List.replicate 4032 0)).wf = true
    ∧ (Instr.mailboxResponse 0 0 (List.replicate 4033 0)).wf = false := by decide +kernel
theorem test_wf_mgmtFrame : (Instr.mgmtFrame (List.replicate 8 0) reading).wf = true
    ∧ (Instr.mgmtFrame (List.replicate 7 0) reading).wf = false ∧ (Instr.mgmtFrame (List.replicate 1501 0) reading).wf = false := by
  decide +kernel

/-! ### Words written out from the layouts of R149 to R163: class [63:61], guard [60:57], opcode [56:50] -/

/-- A word from its class, guard negate, guard predicate, opcode and operand bits (R149). -/
def word (class_ neg pred op operands : Nat) : Nat := class_ * 2 ^ 61 + neg * 2 ^ 60 + pred * 2 ^ 57 + op * 2 ^ 50 + operands

def guardOff : Hdr := ⟨17, 127, false, 0⟩
def guardNeg : Hdr := ⟨17, 127, true, 3⟩

/-- The MMA that 05_tile_sequencer.md encodes in its kernel example. -/
theorem test_word_mma : decodeTile 6869 0 0x2004_DE40_003E_A580
    = some (.mma ⟨6869, 0, false, 0⟩ ⟨3, 0, 15, 0, 2, 0, 0, 0, 0, 0, 0, 31, 10, 11, 0⟩) := by decide +kernel
theorem test_word_add : decodeTile 17 127 (word 0 1 3 0x01 (5 * 2 ^ 45 + 6 * 2 ^ 40 + 7 * 2 ^ 35)) = some (.add guardNeg ⟨5, 6, 7, 0, 0⟩) := by
  decide +kernel
theorem test_word_cmpi : decodeTile 17 127 (word 0 0 0 0x15 (31 * 2 ^ 40 + 7 * 2 ^ 32 + 0xFFFFFFFB)) = some (.cmpi guardOff ⟨0, 31, 0, 7, 0xFFFFFFFB⟩) := by
  decide +kernel
theorem test_word_wload : decodeTile 17 127 (word 1 0 0 0x00 (8 * 2 ^ 46 + 2 * 2 ^ 44 + 2 ^ 43 + 9 * 2 ^ 39 + 2 * 2 ^ 37 + 3 * 2 ^ 32 + 4 * 2 ^ 27))
    = some (.wload guardOff ⟨8, 2, 1, 9, 2, 3, 4, 0⟩) := by decide +kernel
theorem test_word_readout : decodeTile 17 127 (word 1 0 0 0x02 (4 * 2 ^ 47 + 191 * 2 ^ 37 + 2 ^ 32 + 5 * 2 ^ 28 + 7 * 2 ^ 24 + 2 ^ 23
    + 3 * 2 ^ 20 + 2 ^ 19 + 2 ^ 18 + 14 * 2 ^ 13 + 16 * 2 ^ 8 + 12 * 2 ^ 3)) = some (.readout guardOff ⟨4, 191, 1, 5, 7, 1, 3, 1, 1, 14, 16, 12, 0⟩) := by
  decide +kernel
theorem test_word_vacc : decodeTile 17 127 (word 2 0 0 0x1C (3 * 2 ^ 42 + 4 * 2 ^ 38 + 2 ^ 23 + 2 * 2 ^ 10 + 2 ^ 12 + 77))
    = some (.vacc guardOff ⟨0, 3, 4, 0, 0, 0, 1, 0, 0, 0x184D⟩) := by decide +kernel
theorem test_word_vfma : decodeTile 17 127 (word 2 0 0 0x03 (15 * 2 ^ 46 + 14 * 2 ^ 42 + 13 * 2 ^ 38 + 12 * 2 ^ 34))
    = some (.vfma guardOff ⟨15, 14, 13, 12, 0, 0, 0, 0, 0, 0⟩) := by decide +kernel
theorem test_word_ld : decodeTile 17 127 (word 3 0 0 0x00 (5 * 2 ^ 45 + 6 * 2 ^ 40 + 3 * 2 ^ 34 + 2 ^ 33 + 2 ^ 32 + 0xFFFFF8))
    = some (.ld guardOff ⟨5, 6, 0, 3, 1, 1, 0, 0, 0xFFFFF8⟩) := by decide +kernel
theorem test_word_swait : decodeTile 17 127 (word 4 0 0 0x02 (2 * 2 ^ 45 + 5 * 2 ^ 40 + 2 ^ 34 + 1)) = some (.swait guardOff ⟨2, 5, 0, 1, 0, 1⟩) := by
  decide +kernel
theorem test_word_qpost : decodeTile 17 127 (word 5 0 0 0x04 (1 * 2 ^ 45 + 4 * 2 ^ 40 + 9 * 2 ^ 35)) = some (.qpost guardOff ⟨1, 4, 9, 0⟩) := by
  decide +kernel
theorem test_word_reserved : decodeTile 17 127 (word 6 0 0 0 0) = none ∧ decodeTile 17 127 (word 0 0 0 0x0B 0) = none
    ∧ decodeTile 17 127 (word 1 0 0 0x03 0) = none := by decide +kernel

/-! ### Results worked in the specification's examples -/

/-- The two flat tile numbers of 00_scope.md: d2.m1.c37.t05 and the last tile. -/
theorem test_tile_numbers : State.unitTile (udTile 6869) = 6869 ∧ ((2 * 3 + 1) * 56 + 37) * 16 + 5 = 6869 ∧ bitsOf (udTile 6869) 3 2 = 2
    ∧ bitsOf (udTile 6869) 5 2 = 1 ∧ bitsOf (udTile 6869) 7 6 = 37 ∧ bitsOf (udTile 6869) 13 5 = 5 ∧ State.unitTile (udTile 10751) = 10751 := by
  decide +kernel

/-- The block of R52's example: 12.0, −2.5, 0.3, 0.05 and 28 zeros in E2M1 with T = 0.5. -/
theorem test_mx_block :
    mxBlock 0 0x3F000000 ([0x41400000, 0xC0200000, 0x3E99999A, 0x3D4CCCCD] ++ List.replicate 28 0) (List.replicate 32 true) ⟨false, 0, 0⟩
      = ([7, 10] ++ List.replicate 30 0, 0x81, ⟨32, 0, 2, 0, 0⟩, ⟨false, 0, 0⟩)
    ∧ (packBytes 4 ([7, 10] ++ List.replicate 30 0)).headD 0 = 0xA7 := by decide +kernel

/-- R51's block with largest element 7.0: the check after the floor step moves s to 1, and 7.0 is stored as 3.5 rounded to even. -/
theorem test_mx_shared_exponent : blockShared 0 [f32 0x40E00000] = 1 := by decide +kernel

/-- The two addresses of 12_memory_system.md. -/
theorem test_address_fast : State.reset.target 0x1234567A80 = .fast 7 0x1845C8A80
    ∧ State.reset.sortKey 0x1234567A80 = ((7 * 4096 + 10 * 32 + 25) * 4096 + 776, 7 * 4096 + 10 * 32 + 25)
    ∧ setOf 0x1845C8A80 = 81173 ∧ tagOf 0x1845C8A80 = 97 := by decide +kernel
theorem test_address_slow : State.reset.target (slowBase + 0x23456780) = .slow 0x23456780
    ∧ State.reset.sortKey (slowBase + 0x23456780) = (2 ^ 40 + (2 * 128 + 6 * 16 + 1) * 2 ^ 19 + 188, 2 ^ 20 + (2 * 128 + 6 * 16 + 1))
    ∧ locKey.slowRowOf (slowBase + 0x23456780) = ((2 * 8 + 6) * 16 + 1) * 2 ^ 19 + 188 ∧ slowBase + 0x23456780 = 0x010023456780 := by
  decide +kernel

/-- The index selection's arithmetic in 08_graph_sampling.md. -/
theorem test_uniform_index : uniform 0x4000000000000000 1186 = 296 ∧ uniform 0xC000000000000000 1187 = 890
    ∧ uniform 0x3FD0000000000000 1188 = 296 := by decide +kernel

/-- The record of that example, byte for byte. -/
theorem test_record_bytes : State.recordBytes 5 1 (some (0x700000, 52000296, false))
    = [0x00, 0x00, 0x70, 0x00, 0x00, 0x28, 0x76, 0x19, 0x03, 0x00, 0x00, 0x05, 0x00, 0x00, 0x00, 0x01] := by decide +kernel

/-- The group of 07_sparsity.md: 0.27, −0.40, 0.05, 0.40, −0.02, 0.31, 0.00, −0.27 keeps {0, 1, 3, 5} at 4:8. -/
theorem test_pruned_mask : keptMask 4 [0x3E8A3D71, 0xBECCCCCD, 0x3D4CCCCD, 0x3ECCCCCD, 0xBCA3D70A, 0x3E9EB852, 0, 0xBE8A3D71] = 0x2B
    ∧ popcount8 (0x2B &&& (255 - 0x2E)) = 1 ∧ packBits 3 (maskAt 0x2B) = 0xAC8 := by decide +kernel

/-- The ADAPT element of 13_parameter_update.md at step 4,200: m = 17/256, r = 7/64, x near 0.4994071. -/
def adaptGroup : Group :=
  ⟨1, false, false, false, 0, 0x3A800000, 0x3F600000, 0x3F400000, 0x35800000, 0x7F800000, 0, 0x3E000000, 0x3E800000, one32, one32, one32⟩
theorem test_adapt : adaptMoments adaptGroup 0x3D400000 0x3D400000 0x3E500000 = (0x3D880000, 0x3DE00000)
    ∧ adaptX adaptGroup 0x3F000000 0x3D880000 0x3DE00000 = 0x3EFFB249 := by decide +kernel

/-- The X-mode element of 04_accumulation.md: a small sum survives two large ones that cancel. -/
theorem test_x_entry : toF32 ((((f32 0x4F400000).add (f32 0x35800000)).add (f32 0xCF400000)).mul (f32 0x3E000000)) = 0x34000000 := by
  decide +kernel

/-- The stored moments of the same ADAPT example, before and after. -/
theorem test_adapt_moments : momValue 0x72 0x7C = 0x3D400000 ∧ ueValue 0x6A 0xFC = 0x3D400000
    ∧ mxBlock 3 one32 [0x3D880000, 0] [true, true] ⟨false, 0, 0⟩ = ([0x78, 0], 0x73, ⟨2, 0, 0, 0, 0⟩, ⟨false, 0, 0⟩)
    ∧ ueBlock [0x3DE00000, 0] ⟨false, 0, 0⟩ = ([0xFE, 0], 0x6B, ⟨false, 0, 0⟩) := by decide +kernel

/-! ### States and operands that meet the premises of the statements

Each theorem is named after its statement and shows, clause by clause, states and operands that meet all premises of the clause
together, at limits of their ranges. -/

def h0 : Hdr := ⟨0, 0, false, 0⟩
def withX (s : State) (t c : Nat) (l : List (Nat × Nat)) : State := l.foldl (fun s e => s.setX t c e.1 (BitVec.ofNat 64 e.2)) s
def running (s : State) (h : Hdr) : State := s.modThr h.tile h.ctx fun t => { t with run := .running, pc := 0x1000, prio := 2 }
/-- Context 127 of tile 17 runs, with some registers filled. -/
def run17 : State := withX (running State.reset guardOff) 17 127 [(1, 0x40000001), (2, 64), (3, 0xFFFFFFFFFFFFFFF9), (4, 3)]
def withOps (s : State) (t : Nat) (l : List TileOp) : State := s.modTile t fun tl => { tl with ops := l, nextId := 50 }
def anOp (c : Nat) (k : OpKind) : TileOp := ⟨3, c, [], k, false, 0⟩
def allCtx (r : RunState) : State := ((List.range 127).foldl (fun s c => s.modThr 17 c fun t => { t with run := r }) run17)
def own (s : State) (t m : Nat) : State :=
  (List.range 4).foldl (fun s k => (s.setF (bTile t) Fld.BANK_OWN_CUR_OWNER m k).setF (bTile t) Fld.BANK_OWN_OWNER m k) s
def leased (s : State) (c : Option Nat) : State := s.modTile 17 fun tl => { tl with lease := c }
/-- The host link is up, configuration space is ready. -/
def hosted (s : State) : State := { s.setF (bFn 4) Fld.HL_STATUS_SPEED 6 with hl.ready := true }
/-- The memory tiers have been cleared. -/
def cleared17 : State := { run17 with rot.cleared := true }

theorem witness_StepRunsFrontCommand : State.reset.pending = [] := by decide +kernel

theorem witness_TileInstructionsDecodeAsEncoded : (Instr.add guardNeg ⟨31, 31, 31, 7, 0xFFFFFFFF⟩).hdr? = some guardNeg
    ∧ (Instr.fmtClear 0).hdr? = none := by decide

theorem witness_DecodedWordsEncodeBack : (decodeTile 10751 127 (word 3 1 7 0 (31 * 2 ^ 45))).isSome = true
    ∧ word 3 1 7 0 (31 * 2 ^ 45) < 2 ^ 64 := by decide +kernel

theorem witness_ScalarInstructionResults :
    let o : CtlOps := ⟨0, 1, 3, 0, 0⟩
    let m : CtlOps := ⟨31, 0, 0, 0, 0x80000000⟩
    let a : CtlOps := ⟨31, 1, 0, 0, 0x80000000⟩
    let n : CtlOps := ⟨31, 1, 0, 0, 63⟩
    let d : CtlOps := ⟨31, 0, 0, 0, 0⟩
    run17.canRun (.add guardOff o) guardOff ∧ run17.canRun (.addi guardOff a) guardOff ∧ run17.canRun (.sub guardOff o) guardOff
    ∧ run17.canRun (.mul guardOff o) guardOff ∧ run17.canRun (.and guardOff o) guardOff ∧ run17.canRun (.or guardOff o) guardOff
    ∧ run17.canRun (.xor guardOff o) guardOff ∧ run17.canRun (.shl guardOff o) guardOff ∧ run17.canRun (.shr guardOff o) guardOff
    ∧ run17.canRun (.sra guardOff o) guardOff ∧ run17.canRun (.shli guardOff n) guardOff ∧ run17.canRun (.shri guardOff n) guardOff
    ∧ run17.canRun (.srai guardOff n) guardOff ∧ run17.canRun (.movi guardOff m) guardOff ∧ run17.canRun (.movhi guardOff m) guardOff
    ∧ run17.canRun (.rdtime guardOff d) guardOff ∧ run17.canRun (.rdid guardOff d) guardOff := by
  unfold State.canRun; decide +kernel

theorem witness_PredicateInstructionResults : run17.canRun (.cmp guardOff ⟨0, 1, 3, 7, 5⟩) guardOff
    ∧ run17.canRun (.cmp guardOff ⟨0, 1, 3, 0, 0⟩) guardOff ∧ run17.canRun (.cmpi guardOff ⟨0, 1, 0, 7, 0xFFFFFFFD⟩) guardOff
    ∧ run17.canRun (.plog guardOff ⟨0, 7, 0, 7, 3⟩) guardOff := by unfold State.canRun; decide +kernel

theorem witness_BranchesMoveTheProgramCounter : run17.canRun (.nop guardOff ⟨0, 0, 0, 0, 0⟩) guardOff
    ∧ run17.canRun (.br guardOff ⟨0, 0, 0, 0, 0x80000000⟩) guardOff
    ∧ (run17.canRun (.jr guardOff ⟨0, 2, 0, 0, 0⟩) guardOff ∧ (run17.x 17 127 2).toNat % 8 = 0)
    ∧ (run17.canRun (.jr guardOff ⟨0, 1, 0, 0, 0⟩) guardOff ∧ (run17.x 17 127 1).toNat % 8 ≠ 0)
    ∧ run17.canRun (.call guardOff ⟨0, 0, 0, 0, 0xFFFFFFFF⟩) guardOff
    ∧ run17.canRun (.fence guardOff ⟨0, 0, 0, 0, 0⟩) guardOff
    ∧ (withOps run17 17 [anOp 127 (.ld 0 8 4 false)]).canRun (.fence guardOff ⟨0, 0, 0, 0, 0⟩) guardOff := by
  unfold State.canRun; decide +kernel

theorem witness_SpawnStartsTheLowestFreeContext : (run17.canRun (.spawn guardOff ⟨5, 1, 0, 0, 3⟩) guardOff ∧ (run17.thr 17 0).run = .free)
    ∧ (let s := (allCtx .faulted).modThr 17 126 fun t => { t with run := .free }
       s.canRun (.spawn guardOff ⟨5, 1, 0, 0, 3⟩) guardOff ∧ (s.thr 17 126).run = .free ∧ ∀ d < 126, (s.thr 17 d).run ≠ .free)
    ∧ ((allCtx .drain).canRun (.spawn guardOff ⟨5, 1, 0, 0, 3⟩) guardOff ∧ ∀ c < 128, ((allCtx .drain).thr 17 c).run ≠ .free) := by
  unfold State.canRun; decide +kernel

theorem witness_HaltDrainsAndFreesTheContext : run17.canRun (.halt guardOff ⟨0, 0, 0, 0, 0⟩) guardOff
    ∧ (let s := run17.modThr 17 5 fun t => { t with run := .drain, done := some 2818047 }
       (s.thr 17 5).run = .drain ∧ s.opsOf 17 5 = [] ∧ (s.thr 17 5).done = some 2818047 ∧ (s.counterOf 2818047).abandoned = false
       ∧ (s.counterOf 2818047).value < 2 ^ 32 - 1 ∧ s.runs (clusterOfTile 17) = true)
    ∧ (let s := run17.modThr 17 5 fun t => { t with run := .drain }
       (s.thr 17 5).run = .drain ∧ s.opsOf 17 5 = [] ∧ (s.thr 17 5).done = none ∧ s.runs (clusterOfTile 17) = true)
    ∧ (run17.canRun (.spawn guardOff ⟨0, 0, 0, 0, 0⟩) guardOff ∧ (run17.thr 17 0).run = .free) := by
  unfold State.canRun; decide +kernel

theorem witness_FalseGuardsAndReservedBits :
    (let i := Instr.nop guardNeg ⟨0, 0, 0, 0, 1⟩
     i.hdr? = some guardNeg ∧ run17.canIssue 17 127 (instrRegs i) = true ∧ i.reserved = true)
    ∧ (let i := Instr.mma ⟨17, 127, false, 3⟩ ⟨0, 0, 15, 0, 2, 0, 0, 0, 0, 0, 0, 31, 10, 11, 0⟩
       i.hdr? = some ⟨17, 127, false, 3⟩ ∧ run17.canIssue 17 127 (instrRegs i) = true ∧ i.reserved = false ∧ run17.guard ⟨17, 127, false, 3⟩ = false
       ∧ (run17.tileOf 17).sparse 0 15 = 0)
    ∧ (∀ e ∈ [((7 : BitVec 4), (0 : BitVec 1)), (0, 1)], let s := run17.modTile 17 fun tl => { tl with sparseA := 2 }
       let i := Instr.mma guardOff ⟨e.1, 0, 1, 0, 2, 0, e.2, 0, 0, 0, 0, 31, 10, 11, 0⟩
       s.canIssue 17 127 (instrRegs i) = true ∧ (s.tileOf 17).sparse 0 1 ≠ 0 ∧ (7 ≤ e.1.toNat ∨ e.2 = 1))
    ∧ (let s := run17.modTile 17 fun tl => { tl with sparseA := 2 }
       let i := Instr.mma ⟨17, 127, false, 3⟩ ⟨6, 0, 1, 0, 2, 0, 0, 0, 0, 0, 0, 31, 10, 11, 0⟩
       s.canIssue 17 127 (instrRegs i) = true ∧ i.reserved = false ∧ s.guard ⟨17, 127, false, 3⟩ = false) := by decide +kernel

/-- Tile 17 with its banks owned by the feeder, operands in registers and plane A of each array loaded. -/
def matrix17 : State := (List.range 4).foldl (fun s a =>
    (((s.setPlane (68 + a) 0 ⟨0, 0, 0, List.range 1024, [], List.replicate 32 127, false⟩).setFlag (bArray (68 + a)) Fld.ARR_STATUS_A_VALID
      true)).setPlaneFmt (68 + a) 0 0)
  (own (withX run17 17 127 [(10, 0x100), (11, 0x20 + 0x8000 * 2 ^ 18 + 2 ^ 36), (12, 0x10000), (14, 0x3F80000040000000), (15, 0x3F800000),
    (16, 2 ^ 64 - 1), (17, 2 ^ 64 - 1), (5, 0x20000)]) 17 1)
def wloadOp : OpKind := .wload 0 0 1 15 0 0 0x400
def mmaOp (mode index m : Nat) : OpKind := .mma 0 0 15 mode 16 false false false false index m 0x100 (0x20 + 0x8000 * 2 ^ 18 + 2 ^ 36)
def readoutOp (toVec : Bool) (dest : Nat) : OpKind :=
  .readout 0 4 2 15 8 0 false true toVec 0x3F800000 0x3F800000 0x3F800000 (2 ^ 128 - 1) dest
def mworks (k : OpKind) (st : Bool) (p : Nat) : State := withOps matrix17 17 [{ anOp 127 k with started := st, progress := p }]

theorem witness_MatrixInstructionsGoOutstanding :
    (let o : WloadOps := ⟨0, 0, 1, 15, 0, 10, 12, 0⟩
     matrix17.canRun (.wload guardOff o) guardOff ∧ accessesOk ((maskArrays 15).flatMap fun a => wloadReads 0 0 (addr64 0x100 (a * 0x10000))) = true)
    ∧ (let o : WloadOps := ⟨0, 0, 1, 0, 0, 10, 12, 0⟩
       matrix17.canRun (.wload guardOff o) guardOff ∧ accessesOk ((maskArrays 0).flatMap fun a => wloadReads 0 0 (addr64 0x100 (a * 0x10000))) = true)
    ∧ (let o : MmaOps := ⟨0, 0, 15, 0, 2, 0, 0, 0, 0, 0, 0, 31, 10, 11, 0⟩
       matrix17.canRun (.mma guardOff o) guardOff ∧ (matrix17.tileOf 17).sparse 0 15 = 0 ∧ accBound 0 0 32 = true
       ∧ matrix17.rowsOk 17 0 0 32 15 = true ∧ (∀ a ∈ maskArrays 15, matrix17.planeValid (17 * 4 + a) 0 = true)
       ∧ ∀ k < 32, accessesOk (streamRanges 0 0x100 (0x20 + 0x8000 * 2 ^ 18 + 2 ^ 36) (streamLen false 0) k) = true)
    ∧ (let o : MmaOps := ⟨6, 0, 15, 0, 2, 0, 0, 0, 0, 0, 0, 0, 10, 11, 0⟩
       let s := matrix17.modTile 17 fun tl => { tl with sparseA := 2 }
       s.canRun (.mma guardOff o) guardOff ∧ (s.tileOf 17).sparse 0 15 = 2 ∧ o.fmt.toNat < 7 ∧ o.mirror = 0 ∧ o.grouping ≠ 0
       ∧ accBound 0 0 1 = true ∧ s.rowsOk 17 0 0 1 15 = true ∧ (∀ a ∈ maskArrays 15, s.planeValid (17 * 4 + a) 0 = true)
       ∧ accessesOk (streamRanges 6 0x100 (0x20 + 0x8000 * 2 ^ 18 + 2 ^ 36) (streamLen false 2) 0) = true)
    ∧ matrix17.canRun (.mma guardOff ⟨0, 0, 0, 0, 2, 0, 0, 0, 0, 0, 767, 0, 10, 11, 0⟩) guardOff
    ∧ matrix17.canRun (.readout guardOff ⟨0, 767, 0, 0, 8, 0, 0, 0, 0, 14, 16, 5, 0⟩) guardOff
    ∧ (let o : MmaOps := ⟨0, 1, 8, 0, 2, 0, 0, 0, 0, 0, 767, 0, 10, 11, 0⟩
       let s := withOps matrix17 17 [anOp 127 (.wload 0 0 1 8 0 0x100 0)]
       s.canRun (.mma guardOff o) guardOff ∧ (s.tileOf 17).sparse 1 8 = 0 ∧ accBound 0 767 1 = true ∧ s.rowsOk 17 0 767 1 8 = true
       ∧ (∀ a ∈ maskArrays 8, s.loadPending 17 a 1 = true)
       ∧ accessesOk (streamRanges 0 0x100 (0x20 + 0x8000 * 2 ^ 18 + 2 ^ 36) (streamLen false 0) 0) = true)
    ∧ (let o : ReadoutOps := ⟨0, 0, 31, 15, 8, 0, 0, 0, 0, 14, 16, 5, 0⟩
       matrix17.canRun (.readout guardOff o) guardOff ∧ accBound 0 0 32 = true ∧ matrix17.rowsOk 17 0 0 32 15 = true
       ∧ accessesOk (readoutRanges 0 32 15 8 0x20000 (2 ^ 128 - 1)) = true)
    ∧ (let s := leased matrix17 (some 127)
       let o : ReadoutOps := ⟨0, 0, 3, 15, 8, 0, 0, 1, 1, 14, 16, 8, 0⟩
       s.canRun (.readout guardOff o) guardOff ∧ accBound 0 0 4 = true ∧ s.rowsOk 17 0 0 4 15 = true
       ∧ 8 + 2 * 4 ≤ 16 ∧ s.holdsLease 17 127 = true) := by
  unfold State.canRun; dsimp only; and_intros <;> decide +kernel

theorem witness_WeightLoadsAndMatrixWorkStartAndComplete :
    (mworks wloadOp true 0).op? 17 3 = some { anOp 127 wloadOp with started := true }
    ∧ (let s := mworks wloadOp false 0
       (s.op? 17 3 = some (anOp 127 wloadOp)) ∧ s.planeFree 17 (anOp 127 wloadOp) 1 15 = true ∧ s.loadOpen 17 15 = true
       ∧ s.scratchTurn 17 (anOp 127 wloadOp) (State.wloadAll 0 0 15 0 0x400) = true
       ∧ s.rangesServe 17 1 127 (.op 3) (State.wloadAll 0 0 15 0 0x400) = true)
    ∧ (let s := mworks (mmaOp 0 4 2) false 0
       s.op? 17 3 = some (anOp 127 (mmaOp 0 4 2)) ∧ s.mmaReady 17 (anOp 127 (mmaOp 0 4 2)) 0 0 15 false = true ∧ s.entryOpen 17 15 = true)
    ∧ (let s := mworks (readoutOp false 0x20000) false 0
       s.op? 17 3 = some (anOp 127 (readoutOp false 0x20000)) ∧ s.accReady 17 (anOp 127 (readoutOp false 0x20000)) = true) := by
  decide +kernel

theorem witness_ResultGroupsAndReadoutsStayInTheirRanges :
    (let s := mworks (mmaOp 0 766 2) true 1
     let o : TileOp := { anOp 127 (mmaOp 0 766 2) with started := true, progress := 1 }
     let r := streamRanges 0 0x100 (0x20 + 0x8000 * 2 ^ 18 + 2 ^ 36)
        (((maskArrays 15).map fun a => streamLen false (s.plane (17 * 4 + a) 0).sparsity).foldl max 32) (1 % 2)
     s.op? 17 3 = some o ∧ s.entryOpen 17 15 = true ∧ s.accTurn 17 o = true ∧ s.scratchTurn 17 o r = true
     ∧ s.rangesServe 17 1 127 (.op 3) r = true ∧ accBound 0 (766 + 1 % 2) 1 = true)
    ∧ (let s := mworks (readoutOp false 0x20000) true 0
       s.op? 17 3 = some { anOp 127 (readoutOp false 0x20000) with started := true }
       ∧ rangesOk (readoutRanges 0 2 15 8 0x20000 (2 ^ 128 - 1)) = true
       ∧ s.scratchTurn 17 { anOp 127 (readoutOp false 0x20000) with started := true } (readoutRanges 0 2 15 8 0x20000 (2 ^ 128 - 1)) = true
       ∧ s.rangesServe 17 1 127 (.op 3) (readoutRanges 0 2 15 8 0x20000 (2 ^ 128 - 1)) = true)
    ∧ ((mworks (readoutOp true 8) true 0).op? 17 3 = some { anOp 127 (readoutOp true 8) with started := true }) := by
  decide +kernel

theorem witness_VectorInstructionsFormTheirResultAtIssue :
    let o : VecOps := ⟨15, 0, 15, 8, 1, 0, 0, 0, 0, 0⟩
    let u : VecOps := ⟨15, 0, 0, 0, 0, 0, 0, 0, 0, 0⟩
    let b : VecOps := ⟨15, 0, 0, 0, 1, 0, 0, 0, 0, 0⟩
    let t : VecOps := ⟨15, 0, 15, 0, 0, 0, 0, 0, 0, 0⟩
    let n : VecOps := ⟨0, 15, 0, 0, 0, 31, 0, 0, 0, 0⟩
    (∀ l ∈ [some 127, none], ∀ i ∈ [Instr.vadd guardOff t, .vsub guardOff t, .vmul guardOff t, .vfma guardOff { o with rs1 := 0 }, .vmax guardOff t,
        .vmin guardOff t, .vrsqrt guardOff u, .vrcp guardOff u, .vexp2 guardOff u, .vlog2 guardOff u, .vbcast guardOff b, .vidx guardOff b,
        .vsum guardOff n, .vmaxr guardOff n], (leased run17 l).canRun i guardOff)
    ∧ (leased run17 (some 127)).holdsLease 17 127 = true ∧ (leased run17 none).holdsLease 17 127 = false := by
  unfold State.canRun; decide +kernel

def atX1 (v : Nat) : State := leased (withX run17 17 127 [(1, v), (2, 0x3F800000)]) (some 127)

theorem witness_VectorConversionsAndAccumulationsGoOutstanding :
    let c : VecOps := ⟨0, 7, 0, 0, 1, 2, 3, 0, 0, 0⟩
    let l : VecOps := ⟨15, 0, 0, 0, 1, 2, 8, 0, 0, 0⟩
    (atX1 (0x40000 - 66)).holdsLease 17 127 = true
    ∧ (∀ e ∈ [(0x40000 - 66, true), (0x10000, true), (0x40000 - 65, false), (0x10000 - 65, false)],
        (atX1 e.1).canRun (.vcvt guardOff c) guardOff ∧ rotateOk e.1 (8 * fmtBits 3 + 2) = e.2)
    ∧ (∀ e ∈ [(0x40000 - 256, true), (0x10000 - 64, true), (0x40000 - 255, false), (0x10000 - 255, false)],
        (atX1 e.1).canRun (.vldc guardOff l) guardOff ∧ rotateOk e.1 (8 * fmtBits 8) = e.2)
    ∧ ((atX1 0).canRun (.vacc guardOff ⟨0, 7, 8, 0, 0, 0, 1, 0, 0, 0x117F⟩) guardOff ∧ accBound (vaccMode 0) 383 1 = true
      ∧ (atX1 0).rowsOk 17 (vaccMode 0) 383 1 12 = true)
    ∧ ((atX1 0).canRun (.vacc guardOff ⟨0, 7, 8, 0, 0, 0, 1, 0, 0, 0x1180⟩) guardOff ∧ accBound (vaccMode 0) 384 1 = false) := by
  unfold State.canRun; decide +kernel

theorem witness_TheVectorLeasePassesAndVectorResultsLand :
    let z : VecOps := ⟨0, 0, 0, 0, 0, 0, 0, 0, 0, 0⟩
    let busy : State := withOps (leased run17 (some 127)) 17 [anOp 127 (.vecScalar 4 7)]
    (run17.canRun (.vlease guardOff z) guardOff ∧ (run17.tileOf 17).lease = none)
    ∧ ((leased run17 (some 127)).canRun (.vlease guardOff z) guardOff ∧ (leased run17 (some 127)).holdsLease 17 127 = true)
    ∧ ((leased run17 (some 3)).canRun (.vlease guardOff z) guardOff ∧ (leased run17 (some 3)).holdsLease 17 127 = false)
    ∧ ((leased run17 (some 127)).canRun (.vrelease guardOff z) guardOff ∧ (leased run17 (some 127)).leaseDrained 17 127 = true)
    ∧ (busy.canRun (.vrelease guardOff z) guardOff ∧ busy.holdsLease 17 127 = true ∧ busy.leaseDrained 17 127 = false)
    ∧ (run17.canRun (.vrelease guardOff z) guardOff ∧ run17.holdsLease 17 127 = false)
    ∧ (let s := run17.modTile 17 fun tl => { tl with lease := some 5, releasing := true, leaseWait := [9, 0] }
       (s.tileOf 17).lease = some 5 ∧ (s.tileOf 17).releasing = true ∧ s.leaseDrained 17 5 = true ∧ s.runs (clusterOfTile 17) = true)
    ∧ (withOps run17 17 [anOp 5 (.vecLanes 15 (List.replicate 64 7))]).op? 17 3 = some (anOp 5 (.vecLanes 15 (List.replicate 64 7)))
    ∧ (withOps run17 17 [anOp 5 (.vecScalar 31 7)]).op? 17 3 = some (anOp 5 (.vecScalar 31 7))
    ∧ (let k := OpKind.vacc 0 1 383 true (List.replicate 64 7) (List.replicate 64 9)
       (withOps run17 17 [anOp 5 k]).op? 17 3 = some (anOp 5 k) ∧ (withOps run17 17 [anOp 5 k]).accTurn 17 (anOp 5 k) = true
       ∧ accBound (vaccMode 0) 383 1 = true) := by
  unfold State.canRun; decide +kernel

theorem witness_MemoryInstructionsGoOutstanding :
    let l : MemOps := ⟨4, 1, 0, 3, 0, 0, 0, 0, 0⟩
    let d : MemOps := ⟨4, 1, 0, 3, 0, 1, 0, 0, 0⟩
    let v : MemOps := ⟨0, 1, 15, 0, 0, 0, 1, 0, 0⟩
    let at1 (a : Nat) (o : MemOps) : Word := (atX1 a).x 17 127 1 + o.offset.signExtend 64
    ((atX1 0x3FFF8).canRun (.ld guardOff l) guardOff ∧ (atX1 0x3FFF8).canRun (.st guardOff l) guardOff ∧ (at1 0x3FFF8 l).toNat + 8 ≤ 0x40000)
    ∧ ((atX1 (regBase - 8)).canRun (.ld guardOff d) guardOff ∧ (atX1 0).canRun (.ld guardOff d) guardOff
      ∧ (atX1 0).canRun (.st guardOff d) guardOff ∧ (atX1 0).devMapped (at1 0 d).toNat = true)
    ∧ ((atX1 0x40000).canRun (.ld guardOff l) guardOff ∧ (atX1 0x40000).canRun (.st guardOff l) guardOff
      ∧ 0x40000 < (at1 0x40000 l).toNat + 8 ∧ (atX1 4).canRun (.ld guardOff l) guardOff ∧ (at1 4 l).toNat % 8 ≠ 0)
    ∧ ((atX1 (2 ^ 52)).canRun (.st guardOff d) guardOff ∧ (atX1 (2 ^ 52)).devMapped (at1 (2 ^ 52) d).toNat = false
      ∧ (atX1 4).canRun (.ld guardOff d) guardOff ∧ (at1 4 d).toNat % 8 ≠ 0)
    ∧ ((atX1 0x3FF00).canRun (.vld guardOff v) guardOff ∧ (atX1 0x3FF00).canRun (.vst guardOff v) guardOff
      ∧ (atX1 0x3FF00).holdsLease 17 127 = true ∧ (at1 0x3FF00 v).toNat + 256 ≤ 0x40000
      ∧ (at1 0x3FF00 v).toNat / 0x10000 = ((at1 0x3FF00 v).toNat + 255) / 0x10000)
    ∧ (run17.canRun (.vld guardOff v) guardOff ∧ run17.holdsLease 17 127 = false)
    ∧ (∀ i ∈ [Instr.vld guardOff { v with space := 1 }, .vst guardOff { v with space := 1 }],
        (atX1 0).canRun i guardOff ∧ (atX1 0).holdsLease 17 127 = true)
    ∧ (∀ e ∈ [(0x3FF40, v), (0xFFC0, v), (0x20, { v with rotate := 0 }), (0xFF01, v)], ∀ i ∈ [Instr.vld guardOff e.2, .vst guardOff e.2],
        (atX1 e.1).canRun i guardOff ∧ (atX1 e.1).holdsLease 17 127 = true ∧ (0x40000 < (at1 e.1 v).toNat + 256
          ∨ (e.2.rotate = 0 ∧ (at1 e.1 v).toNat % 64 ≠ 0) ∨ (at1 e.1 v).toNat / 0x10000 ≠ ((at1 e.1 v).toNat + 255) / 0x10000))
    ∧ (let p : MemOps := { l with size := 0 }
       let k (a : Nat) : OpKind := .postDma a 4 none
       (let s := atX1 0x3FFC0
        s.canRun (.dma guardOff p) guardOff ∧ (at1 0x3FFC0 l).toNat + 64 ≤ 0x40000 ∧ s.mem.badScratch = []
        ∧ s.scratchTurn 17 ⟨(s.tileOf 17).nextId, 127, [], k 0x3FFC0, false, 0⟩ [(0x3FFC0, 64)] = true
        ∧ s.banksServe 17 0x3FFC0 64 0 127 (.op (s.tileOf 17).nextId) = true)
       ∧ (let s := withOps (atX1 0x3FFC0) 17 [anOp 127 (.st 0x3FFFF 1 0)]
        s.canRun (.dma guardOff p) guardOff
        ∧ s.scratchTurn 17 ⟨(s.tileOf 17).nextId, 127, [], k 0x3FFC0, false, 0⟩ [(0x3FFC0, 64)] = false)
       ∧ (atX1 0x3FFC1).canRun (.dma guardOff p) guardOff ∧ 0x40000 < (at1 0x3FFC1 l).toNat + 64) := by
  unfold State.canRun; dsimp only; and_intros <;> decide +kernel

def scratchOp (k : OpKind) : State := withOps (own run17 17 0) 17 [anOp 127 k]

theorem witness_ScratchAndDeviceAccessesReadAndWriteTheirBytes :
    (∀ k ∈ [OpKind.ld 0x3FFF8 8 31 true, .st 0 1 7, .vld 0x3FF00 15, .vst 0 (List.replicate 64 7)],
      (scratchOp k).op? 17 3 = some (anOp 127 k) ∧ (scratchOp k).scratchTurn 17 (anOp 127 k) (opRanges k).2 = true
        ∧ (scratchOp k).rangesServe 17 (opRanges k).1 127 (.op 3) (opRanges k).2 = true)
    ∧ (∀ k ∈ [OpKind.devLd 0x1234567A80 8 0 false, .devSt 0x1234567A80 8 7],
      (scratchOp k).op? 17 3 = some (anOp 127 k) ∧ (scratchOp k).deviceTurn 17 (anOp 127 k) = true ∧ (scratchOp k).placeRuns k = true)
    ∧ run17.target 0x1234567A80 = .fast 7 0x1845C8A80 ∧ run17.badIn 0x1234567A80 8 = []
    ∧ (let s := withOps run17 17 [{ anOp 127 (.devSt 0x1234567A80 8 7) with id := 2 }, anOp 127 (.devLd 0x1234567A80 8 0 false)]
       s.op? 17 3 = some (anOp 127 (.devLd 0x1234567A80 8 0 false)) ∧ s.deviceTurn 17 (anOp 127 (.devLd 0x1234567A80 8 0 false)) = false)
    ∧ (let s := (scratchOp (.devLd 0x1234567A80 8 0 false)).setF (State.islBlk 679) Fld.ISL_STATUS_STATE 1
       s.op? 17 3 = some (anOp 127 (.devLd 0x1234567A80 8 0 false)) ∧ s.placeRuns (.devLd 0x1234567A80 8 0 false) = false) := by
  decide +kernel

theorem witness_BanksChangeOwnerByHandover :
    (run17.blkHeld (bTile 17) = false ∧ run17.flag (bTile 17) Fld.BANK_OWN_PENDING 3 = false ∧ run17.ownerWork 17 3 = [])
    ∧ (let s := scratchOp (.ld 0x3FFF8 8 3 false)
       s.blkHeld (bTile 17) = false ∧ s.flag (bTile 17) Fld.BANK_OWN_PENDING 3 = false ∧ s.ownerWork 17 3 ≠ [] ∧ min 4 (7 % 8) ≠ s.getF (bTile 17) Fld.BANK_OWN_CUR_OWNER 3)
    ∧ (let s := run17.setFlag (bTile 17) Fld.BANK_OWN_PENDING true 0
       s.flag (bTile 17) Fld.BANK_OWN_PENDING 0 = true ∧ (∀ w ∈ s.drainsOf 17 0, s.tokenLive 17 0 w = false)
       ∧ s.runs (clusterOfTile 17) = true)
    ∧ (bitsOf (run17.getF (bTile 17) Fld.BANK_STATUS_LONG_WAIT) 3 1 = 0
       ∧ run17.flag (bFn 2) Fld.IC_SRC_LEVEL (srcCluster (clusterOfTile 17) 0) = false)
    ∧ (let s := run17.setFlag (bTile 17) Fld.BANK_STATUS_CLEARING true
       s.flag (bTile 17) Fld.BANK_STATUS_CLEARING = true ∧ s.runs (clusterOfTile 17) = true) := by decide +kernel

/-- A counter's number in x1 and an operand in x2; the counter holds a value. -/
def counting (c n v : Nat) (ab : Bool) : State :=
  let s := withX run17 17 127 [(1, c), (2, n)]
  { s with sync.counters := Tbl.put (fun _ => Counter.reset) s.sync.counters 2818047 { Counter.reset with value := v, abandoned := ab } }

theorem witness_SyncAndGraphInstructionsCompleteWaitOrPost :
    let o : SyncOps := ⟨3, 1, 2, 0, 0, 0⟩
    let w : SyncOps := ⟨0, 1, 0, 1, 0, 8⟩
    let r : SyncOps := ⟨3, 1, 0, 0, 0, 0⟩
    let s := counting 2818047 8 8 false
    (s.canRun (.sadd guardOff o) guardOff ∧ s.canRun (.ssub guardOff o) guardOff ∧ s.canRun (.ssignal guardOff o) guardOff
      ∧ s.canRun (.sread guardOff r) guardOff ∧ (s.x 17 127 1).toNat ≤ 2818047
      ∧ s.syncBehind 17 127 (s.tileOf 17).nextId (none, 2818047) = false)
    ∧ (let u := withOps s 17 [anOp 127 (.sync false 1 2818047 4)]
       u.canRun (.sread guardOff r) guardOff ∧ u.canRun (.swait guardOff w) guardOff
       ∧ u.syncBehind 17 127 (u.tileOf 17).nextId (none, 2818047) = true)
    ∧ (s.canRun (.swait guardOff w) guardOff ∧ 8 ≤ (s.counterOf 2818047).value)
    ∧ ((counting 2818047 8 0 true).canRun (.swait guardOff w) guardOff ∧ ((counting 2818047 8 0 true).counterOf 2818047).abandoned = true)
    ∧ (let u := counting 2818047 8 7 false
       u.canRun (.swait guardOff w) guardOff ∧ (u.counterOf 2818047).abandoned = false ∧ (u.counterOf 2818047).value < 8
       ∧ u.waitRoom (syncMemOf 2818047) = true)
    ∧ (let u := counting 2818048 8 7 false
       2818047 < (u.x 17 127 1).toNat ∧ u.canRun (.sadd guardOff o) guardOff ∧ u.canRun (.ssub guardOff o) guardOff
       ∧ u.canRun (.swait guardOff w) guardOff ∧ u.canRun (.sread guardOff r) guardOff ∧ u.canRun (.ssignal guardOff o) guardOff)
    ∧ (let g : GraphOps := ⟨3, 1, 0, 0⟩
       (∀ a ∈ [0x3FFC0, 0x40000], (counting a 0 0 false).canRun (.smpl guardOff g) guardOff ∧ (counting a 0 0 false).canRun (.gath guardOff g) guardOff
        ∧ (counting a 0 0 false).canRun (.scat guardOff g) guardOff ∧ (counting a 0 0 false).canRun (.embd guardOff g) guardOff)
       ∧ (counting 0 262143 0 false).canRun (.qpost guardOff { g with rs2 := 2 }) guardOff
       ∧ (counting 0 262144 0 false).canRun (.qpost guardOff { g with rs2 := 2 }) guardOff) := by
  unfold State.canRun; dsimp only; and_intros <;> decide +kernel

theorem witness_CounterOperationsSaturateAndRelease :
    ((counting 0 0 (2 ^ 32 - 1) false).counterOf 2818047).abandoned = false
    ∧ ((counting 0 0 0 true).counterOf 2818047).abandoned = true
    ∧ (((counting 0 0 6 false).counterOf 2818047).value < (7#32).toNat ∧ (counting 0 0 6 false).waitRoom (syncMemOf 2818047) = true)
    ∧ (let s := withOps (counting 0 0 2 false) 17 [{ anOp 127 (.ld 0 8 4 false) with id := 2 }, anOp 127 (.sync true 3 2818047 31)]
       s.op? 17 3 = some (anOp 127 (.sync true 3 2818047 31)) ∧ (s.counterOf 2818047).abandoned = false
       ∧ (∀ p ∈ (s.tileOf 17).ops, p.ctx = 127 → p.id < 3 → isWrite p.kind = false) ∧ s.syncBehind 17 127 3 (none, 2818047) = false)
    ∧ (∀ k ∈ [OpKind.syncRead 2818047 31, .syncWait 7 2818047 31], ∀ v ∈ [6, 7], let s := withOps (counting 0 0 v false) 17 [anOp 127 k]
       s.op? 17 3 = some (anOp 127 k) ∧ s.syncBehind 17 127 3 (none, 2818047) = false ∧ (s.counterOf 2818047).abandoned = false
       ∧ (s.counterOf 2818047).value = v ∧ s.waitRoom (syncMemOf 2818047) = true)
    ∧ (∀ phase ∈ [0, 1], let k := OpKind.signal 5 31 0 0 9 1
       let s := { withOps run17 17 [anOp 127 k] with job.phase := phase }
       s.op? 17 3 = some (anOp 127 k) ∧ s.syncBehind 17 127 3 (some 9, 5) = false
       ∧ (∀ p ∈ (s.tileOf 17).ops, p.ctx = 127 → p.id < 3 → isWrite p.kind = false)
       ∧ s.getF bHub Fld.FR_STATUS_LEVELS ≤ 1 ∧ s.jobMember 9 = false) := by decide +kernel

def heldArray (fuse : Nat) (busy : Bool) : State :=
  ((run17.setFlag (bArray 43007) Fld.ARR_CTRL_HOLD true).setReg (bArray 43007) .ARR_FUSE 0 (BitVec.ofNat 64 fuse)).setFlag (bArray 43007)
    Fld.ARR_STATUS_PROG_BUSY busy

/-- An extension is loaded, with no access to any register. -/
def extended17 : State := { run17 with rot.ext := some [] }
/-- The island of a block's unit is in HOLD. -/
def inHold (s : State) (i : Nat) : State := s.setF (State.islBlk i) Fld.ISL_STATUS_STATE 1

theorem witness_HoldsAndTileControlWritesTakeEffect :
    (run17.controls .control = true ∧ extended17.controls .ext = true ∧ run17.controls .ext = false ∧ run17.controls .host = false)
    ∧ (∀ e ∈ [(bArray 43007, 671), (bTile 17, 1), (bCluster 3, 3), (bRegion 2, 674), (bDma 5, 673), (bUpd 5, 677)],
        run17.blkHeld e.1 = false ∧ (inHold run17 e.2).blkHeld e.1 = true)
    ∧ run17.blkHeld (bTile 10751) = false
    ∧ (∀ fuse ∈ [0, 0x20, 0xFFF], (heldArray fuse false).heldSw 43007 = true ∧ (heldArray fuse false).fuseRowBad 43007 = false)
    ∧ (let s := (heldArray 0 false).spareCounts (bArray 43007) 0 2
       s.heldSw 43007 = true ∧ s.fuseRowBad 43007 = true)
    ∧ run17.heldSw 43007 = false
    ∧ (let s := heldArray 0x20 false
       s.heldSw 43007 = true ∧ s.arrayWork 43007 = false ∧ s.flag (bArray 43007) Fld.ARR_STATUS_PROG_BUSY = false ∧ s.fuseRowBad 43007 = false
       ∧ ¬ (bitsOf 0x801 5 1 = 1 ∧ bitsOf (s.reg (bArray 43007) .ARR_FUSE).toNat 5 1 = 1)
       ∧ ¬ (bitsOf 0x801 11 1 = 1 ∧ bitsOf (s.reg (bArray 43007) .ARR_FUSE).toNat 11 1 = 1))
    ∧ (heldArray 0xFFF true).flag (bArray 43007) Fld.ARR_STATUS_PROG_BUSY = true
    ∧ ((heldArray 0x800 false).heldSw 43007 = true ∧ bitsOf 0x800 11 1 = 1
      ∧ bitsOf ((heldArray 0x800 false).reg (bArray 43007) .ARR_FUSE).toNat 11 1 = 1)
    ∧ (let s := withOps (heldArray 0 false) 10751 [anOp 5 (mmaOp 0 4 2)]
       let s := s.modTile 10751 fun tl => { tl with ops := tl.ops.map fun o => { o with started := true, progress := 1 } }
       s.arrayWork 43007 = true)
    ∧ ((run17.tileOf 17).ops.all fun o => (opAcc o.kind).isNone) = true
    ∧ (let s := run17.setFlag (bTile 17) Fld.SEQ_CTRL_REEL true
       s.flag (bTile 17) Fld.SEQ_CTRL_REEL = true ∧ (s.tileOf 17).reelOn = false ∧ s.tilePresent 17 = true ∧ s.runs (clusterOfTile 17) = true) := by
  decide +kernel

theorem witness_CounterClearsZeroTheirCounters : 10769 < 10770 ∧ run17.controls .control = true ∧ run17.controls .tile = false
    ∧ (∀ e ∈ [(bArray 43007, 671), (bConv 10751, 671), (bTile 17, 1), (bSc 11, 683), (bDie 3, 687)],
        run17.blkHeld e.1 = false ∧ (inHold run17 e.2).blkHeld e.1 = true) := by decide +kernel

/-- Contexts 5 and 9 of tile 17 at 0x1000, where the line holds ADD x5, x1, x2. -/
def slot17 : State :=
  let s := [(5, 2), (9, 1)].foldl (fun s p => s.modThr 17 p.1 fun t => { t with run := .running, pc := 0x1000, prio := p.2 }) State.reset
  s.modTile 17 fun t => { t with icache := Tbl.insert t.icache 0x40 (word 0 0 0 1 (5 * 2 ^ 45 + 1 * 2 ^ 40 + 2 * 2 ^ 35)) }
def queued (s : State) (q n : Nat) (d : List Byte) : State := s.modQueue q fun c => { c with taken := [(n, d)] }

theorem witness_IssueSlotsLaunchesAndFetches :
    ((slot17.tileOf 17).reelOn = false ∧ slot17.pickSlot 17 = some (5, false))
    ∧ ((slot17.modThr 17 9 fun t => { t with passed := 4096 }).pickSlot 17 = some (9, true))
    ∧ (slot17.tilePresent 17 = true ∧ slot17.runs (clusterOfTile 17) = true
      ∧ ((slot17.reelSlot 17).fetchMisses 17).throttled (clusterOfTile 17) 0 = false
      ∧ ((slot17.reelSlot 17).fetchMisses 17).pickSlot 17 = some (5, false)
      ∧ slot17.nextWord 17 5 = some (word 0 0 0 1 (5 * 2 ^ 45 + 1 * 2 ^ 40 + 2 * 2 ^ 35))
      ∧ (decodeTile 17 5 (word 0 0 0 1 (5 * 2 ^ 45 + 1 * 2 ^ 40 + 2 * 2 ^ 35))).isSome = true)
    ∧ (slot17.setFlag (bTile 17) Fld.SEQ_CTRL_HALT_ISSUE true).flag (bTile 17) Fld.SEQ_CTRL_HALT_ISSUE = true
    ∧ (let s := (slot17.setF (bFn 5) Fld.PM_STATUS_T 32).modIsl 1 fun x => { x with runs := [(0, (40, 63))] }
       s.throttled (clusterOfTile 17) 0 = true ∧ s.badPc 17 5 = false ∧ s.badPc 17 9 = false)
    ∧ (let d := leBytes 64 (0x12340 + 2 * 2 ^ 52 + 2 ^ 61)
       let s := queued slot17 (State.tileQueue 17 3) 9 d
       s.startable (State.tileQueue 17 3) = some (9, d) ∧ s.flag (bTile 17) Fld.SEQ_CTRL_HALT_ISSUE = false ∧ (s.thr 17 0).run = .free
       ∧ (launchOf d).any = true)
    ∧ (let d := leBytes 64 (0x12340 + 127 * 2 ^ 54)
       let s := queued slot17 (State.tileQueue 17 3) 9 d
       s.startable (State.tileQueue 17 3) = some (9, d) ∧ s.flag (bTile 17) Fld.SEQ_CTRL_HALT_ISSUE = false ∧ (s.thr 17 127).run = .free
       ∧ (launchOf d).any = false ∧ (launchOf d).context = 127)
    ∧ (let s := slot17.modThr 17 127 fun t => { t with run := .running, hold := 3, pc := 0x103F }
       (s.thr 17 127).hold = 3 ∧ (s.thr 17 127).pc.toNat / 64 = 0x40 ∧ 0x40 ∉ (s.tileOf 17).discard ∧ s.badIn (64 * 0x40) 64 = []
       ∧ (s.tileOf 17).icache.length < 512 ∧ s.runs (clusterOfTile 17) = true ∧ s.memRuns (64 * 0x40) 64 = true
       ∧ s.flag (bTile 17) Fld.BANK_STATUS_CLEARING = false) := by decide +kernel

def ring (mode log2 p c : Nat) (w : List (Bool × List Byte)) : State := (hosted run17).modQueue 68 fun x =>
  { x with kind := 0, mode := mode, log2 := log2, prod := BitVec.ofNat 32 p, cons := BitVec.ofNat 32 c, base := 0x10000, writing := w }

theorem witness_QueuesAcceptAppendAndDeliver :
    (ring 0 2 1 (2 ^ 32 - 2) []).barsDecode = true
    ∧ (let c := (ring 0 2 1 (2 ^ 32 - 2) []).queue 68
     c.mode = 0 ∧ c.log2 ≠ 0 ∧ (ring 0 2 1 (2 ^ 32 - 2) []).consumerPresent 68 = true ∧ c.full = false)
    ∧ ((ring 0 2 2 (2 ^ 32 - 2) []).queue 68).full = true
    ∧ (((ring 1 2 3 3 []).queue 68).mode = 1 ∧ ((ring 0 0 3 3 []).queue 68).log2 = 0
      ∧ (run17.modQueue 68 fun x => { x with kind := 15, log2 := 2 }).consumerPresent 68 = false)
    ∧ (let s := ring 0 2 3 3 [(false, List.replicate 64 1)]
       (s.queue 68).writing = (false, List.replicate 64 1) :: [] ∧ s.memRuns ((s.queue 68).slot (s.queue 68).prod.toNat) 64 = true)
    ∧ (let c := (ring 2 2 1 (2 ^ 32 - 2) []).queue 68
       c.mode ≠ 0 ∧ c.log2 ≠ 0 ∧ (ring 2 2 1 (2 ^ 32 - 2) []).consumerPresent 68 = true ∧ (c.prod - c.cons).toNat ≤ (2#32 - c.cons).toNat ∧ (2#32 - c.cons).toNat ≤ 2 ^ c.log2
       ∧ (0#32 - c.cons).toNat < (c.prod - c.cons).toNat ∧ 2 ^ c.log2 < (3#32 - c.cons).toNat)
    ∧ ({ hosted run17 with hl.d3hot := true } : State).barsDecode = false
    ∧ (∀ due ∈ [[], [Due.tile 17]], let s := { (ring 0 2 3 2 []).modQueue 68 fun x => { x with kind := 3, unit := 17 } with job.due := due }
       let c := s.queue 68
       c.kind ≠ 5 ∧ c.prod ≠ c.cons ∧ c.taken = [] ∧ s.memRuns (c.slot c.cons.toNat) 64 = true ∧ s.launchesStopped 68 = !due.isEmpty)
    ∧ (let s := ring 0 2 3 2 []
       let s := s.modQueue 68 fun x => { x with kind := 5, running := [(2, List.replicate 64 0)], cons := 1 }
       let c := s.queue 68
       c.kind = 5 ∧ c.prod ≠ c.cons + BitVec.ofNat 32 c.running.length ∧ c.taken = [] ∧ s.launchesStopped 68 = false
       ∧ s.memRuns (c.slot (c.cons + BitVec.ofNat 32 c.running.length).toNat) 64 = true) := by decide +kernel

theorem witness_SamplersWorkThroughTheirDescriptors :
    let d := leBytes 64 (0x30000 * 2 ^ 128 + 100 * 2 ^ 192 + 2 * 2 ^ 224)
    let s := (queued run17 (State.tileQueue 49 0) 9 d).setDevBytes 56 [1]
    let k : SmpDesc := ⟨5, 49, 9, d, List.replicate 64 0, 0x123, [7, 8, 9], 1, [], [0], 0, 0, 0, false⟩
    let u := run17.modSmp 3 fun g => { g with active := [k], exps := [(2, 5, 1)] }
    (s.flag (bCluster 3) Fld.SMP_CTRL_HOLD = false ∧ (s.sampler 3).active.length < 4 ∧ s.throttled 3 2 = false ∧ s.smpNext 3 = some (1, 9, d)
      ∧ (s.smpCheck 3 9 d).1 = 0)
    ∧ (let bad := leBytes 64 (0x30001 * 2 ^ 128 + 100 * 2 ^ 192)
       (queued run17 (State.tileQueue 49 0) 9 bad).smpNext 3 = some (1, 9, bad) ∧ ((queued run17 (State.tileQueue 49 0) 9 bad).smpCheck 3 9 bad).1 ≠ 0)
    ∧ ((u.sampler 3).exps.length < 32 ∧ (∀ j ∈ (u.sampler 3).active, State.nextParent j ≠ some none) ∧ u.expNext 3 = some (k, 1)
      ∧ u.takesWork 3 = true ∧ u.throttled 3 2 = false)
    ∧ ((u.sampler 3).exps.find? (fun e => e.1 == 2) = some (2, 5, 1) ∧ u.smpJob 3 5 = some k ∧ u.runs 3 = true ∧ u.expHeld k 1 [0] = false)
    ∧ u.memRuns (smpTrace k.desc) 64 = true ∧ u.blkHeld (bCluster 3) = false
    ∧ (k.left.getD k.hops 0 = 0 ∧ k.hops < smpDepth k.desc ∧ k.hops + 1 = smpDepth k.desc)
    ∧ (let l : SmpDesc := { k with desc := leBytes 64 (3 * 2 ^ 56), left := [0, 3, 4, 5] }
       l.left.getD l.hops 0 = 0 ∧ l.hops + 1 < smpDepth l.desc) := by decide +kernel

/-- A gather descriptor of tile 49 with two entries; a scatter with a flush. -/
def gatherD : GsD := ⟨0x26000, 0, false, 0, false, 0, 2, 0x28000, 16, 9, 0, 0, 0, 0x1000, 0, 64, 0, some 5, some 6, 1, none, 0⟩
def scatterD : GsD := { gatherD with scatter := true, flush := true, progress := none }
def gsJob (d : GsD) (admitted : Nat) (waiting : List Nat) : GsDesc := ⟨1, 49, 9, d, 0, admitted, waiting, 0, false, []⟩
def gsAt (k : GsDesc) : State := (own run17 49 4).modGs 3 fun g => { g with active := [k] }

theorem witness_GatherScatterDescriptorsRunToCompletion :
    let d := leBytes 64 (0x26000 + 2 * 2 ^ 96 + 0x28000 * 2 ^ 128 + 3 * 2 ^ 180 + 9 * 2 ^ 192 + 0x1000 * 2 ^ 320)
    let bad := leBytes 64 (0x26001 + 2 * 2 ^ 96 + 0x28000 * 2 ^ 128 + 3 * 2 ^ 180 + 9 * 2 ^ 192 + 0x1000 * 2 ^ 320)
    let s := queued run17 (State.tileQueue 49 1) 9 d
    (s.flag (bCluster 3) Fld.GS_CTRL_HOLD = false ∧ (s.gather 3).active.length < 4 ∧ s.throttled 3 2 = false ∧ s.gsNext 3 = some (1, 9, d)
      ∧ s.gsCheck (gsOf d) = 0 ∧ 0 < (gsOf d).count)
    ∧ ((queued run17 (State.tileQueue 49 1) 9 bad).gsNext 3 = some (1, 9, bad)
      ∧ (queued run17 (State.tileQueue 49 1) 9 bad).gsCheck (gsOf bad) ≠ 0)
    ∧ (let k := gsJob gatherD 1 [0]
       (gsAt k).flag (bCluster 3) Fld.GS_CTRL_HOLD = false ∧ ((gsAt k).gather 3).active = [k] ∧ (gsAt k).canAdmit 3 k = true
       ∧ (gsAt k).takesWork 3 = true ∧ (gsAt k).throttled 3 2 = false)
    ∧ (let k := gsJob scatterD 2 []
       (gsAt k).gsDesc 3 1 = some k ∧ k.d.flush = true ∧ k.admitted = k.d.count ∧ k.flushed = false ∧ (gsAt k).runs 3 = true)
    ∧ (let k := gsJob gatherD 1 []
       (gsAt k).gsDesc 3 1 = some k ∧ k.sent < State.gsChunks k.d ∧ min k.d.count ((k.sent + 1) * k.d.chunk) ≤ k.admitted
       ∧ (∀ p ∈ k.waiting, min k.d.count ((k.sent + 1) * k.d.chunk) ≤ p) ∧ k.d.progress = some 6 ∧ (run17.counterOf 6).abandoned = false
       ∧ (run17.counterOf 6).value < 2 ^ 32 - 1)
    ∧ (let k := gsJob { gatherD with progress := none } 2 []
       (gsAt k).gsDesc 3 1 = some k ∧ State.gsOver k = true ∧ k.d.done = some 5 ∧ k.d.progress = none ∧ (run17.counterOf 5).abandoned = false
       ∧ (run17.counterOf 5).value < 2 ^ 32 - 1) := by decide +kernel

def gsEntry (scatter issued : Bool) (todo : List Nat) : GsEntry :=
  ⟨4, scatter, 1, 0x28000, 16, 0, 0, 0, [⟨1, 0, 49, 0x1000, 0, false, [], []⟩], none, issued, [0x3F800000, 0, 0, 0], todo, [], none⟩
def inWindow (e : GsEntry) : State := (gsAt (gsJob gatherD 1 [0])).modGs 3 fun g => { g with window := [e] }

theorem witness_WindowAndHotEntriesIssueLandAndFlush :
    (let s := inWindow (gsEntry false false [])
     s.runs 3 = true ∧ s.mem.badScratch = [] ∧ s.flag (bCluster 3) Fld.GS_CTRL_HOLD = false ∧ ((s.gather 3).window.map GsEntry.id).Nodup
      ∧ ((s.gather 3).window.filter GsEntry.issued).length < 1024
      ∧ ∃ e ∈ (s.gather 3).window, e.issued = false ∧ State.behind (s.gather 3) e = false ∧ s.issueServed 3 e = true
        ∧ s.bankSlots (s.gather 3) (s.sortKey e.addr).2 < clampTo 1 1024 (s.getF (bCluster 3) Fld.GS_QUOTA_QUOTA))
    ∧ (let e := gsEntry false true []
       let s := inWindow e
       (s.gather 3).window.find? (fun x => x.id == e.id && x.issued && !x.scatter) = some e
       ∧ e.refs = [⟨1, 0, 49, 0x1000, 0, false, [], []⟩] ∧ e.data = none ∧ e.scSize = 0 ∧ s.badIn e.addr e.size = [] ∧ 0x1000 + e.size ≤ 0x40000
       ∧ s.memRuns e.addr e.size = true ∧ s.memRuns e.scAddr 0 = true
       ∧ s.banksServe 49 0x1000 e.size 4 0 (State.gsTok (gsJob gatherD 1 [0])) = true ∧ s.gsDesc 3 1 = some (gsJob gatherD 1 [0]))
    ∧ (let e := gsEntry true true [0x28000]
       let s := inWindow e
       (s.gather 3).window.find? (fun x => x.id == e.id && x.issued && x.scatter) = some e ∧ (0x28000#52).toNat ∈ e.todo ∧ s.memRuns 0x28000 64 = true
       ∧ s.target 0x28000 = .fast 4 0x3000 ∧ s.badIn 0x28000 64 = [] ∧ (0x28000#52).toNat % 64 = 0 ∧ e.addr % 4 = 0 ∧ 3 < e.sum.length
       ∧ (e.addr + 4 * 3) / 64 * 64 = 0x28000)
    ∧ (let e := gsEntry true true []
       ((inWindow e).gather 3).window.find? (fun x => x.id == e.id && x.issued && x.scatter) = some e ∧ (inWindow e).addApplied e = true)
    ∧ run17.blkHeld (bCluster 3) = false
    ∧ (let s := run17.modGs 3 fun g => { g with log := 4, counted := 16, nextId := 9, hot := [⟨2, 0x28000, 16, 0, [0x3F800000], true, false, none⟩,
         ⟨3, 0x29000, 16, 0, [0x3F800000], true, true, some 8⟩] }
       2 ^ (s.gather 3).log ≤ (s.gather 3).counted ∧ (∃ h ∈ (s.gather 3).hot, h.used = true ∧ h.due = none)
       ∧ (s.gather 3).window.length + (s.gather 3).hot.length ≤ 4096 ∧ (∀ x ∈ (s.gather 3).window, x.id < (s.gather 3).nextId)
       ∧ ∀ x ∈ (s.gather 3).hot, ∀ d ∈ x.due, d < (s.gather 3).nextId) := by decide +kernel

/-- Bytes with fields at bit positions. -/
def fields (n : Nat) (l : List (Nat × Nat)) : List Byte := leBytes n ((l.map fun e => e.2 * 2 ^ e.1).foldl (· + ·) 0)

def tableBytes : List Byte := fields 128 [(0, 0x50000), (64, slowBase), (128, hostBase), (192, 9), (232, 3), (320, 5), (384, 10), (512, 0x60000),
  (576, 0x70000), (640, 0x71000), (704, 4), (360, 3), (736, 1), (776, 1)]
def lookupBytes (dest : Nat) : List Byte :=
  fields 64 [(0, 0x40000), (64, 0x72000), (128, 0x73000), (192, 0x74000), (288, 3), (320, dest), (338, 64), (356, 0x4000), (384, 5), (406, 1)]
def lookupJob (back : Bool) (todo : List EmbReq) (ready : List EmbPartial) (bags : Tbl BagAcc) (left : List Nat) : EmbJob :=
  ⟨0, 1797, 9, { embOf (lookupBytes 0x3000) with backward := back }, [tableBytes, [], []], 2, todo, ready, bags, left⟩
/-- A product of two parts; row 1 of the second, which has two shards, is region 4's of module 5. -/
def farJob (back : Bool) (q : EmbReq) : EmbJob :=
  { lookupJob back [q] [] [] [0, 1, 2] with
    tabs := [fields 128 [(0, 0x50000), (52, 2), (56, 1), (64, 0x50400), (192, 9), (256, 2)], tableBytes,
      fields 128 [(0, 0x50000), (192, 9), (232, 3), (512, 0x60000), (736, 2)]] }
def farAway (s : State) : State := { s with job.rings := [[(0, none), (5, none)]] }
def lookingUp (k : EmbJob) : State :=
  (own run17 1797 4).modEmb 2 fun g => { g with active := [k] }
def aRequest (owner : Nat) (sent : Bool := false) : EmbReq := ⟨2, 0, owner, 4, [(0, 4, 0)], sent⟩
/-- A region's arrivals: two messages of region 3 of module 5; an update that walks the table at 0x40000. -/
def withMail (s : State) : State := s.modEmb 2 fun g => { g with inbox := [(9, [1]), (5, [2]), (5, [3])] }
def walking (r : Nat) (s : State) : State :=
  s.modUpd r fun g => { g with batch := [⟨1, [], fields 128 [(52, 1), (64, 0x40000)], [], false, true, 0, 0, [], 0⟩] }

theorem witness_LookupDescriptorsRunToCompletion :
    (let b := lookupBytes 0x3000
     let s := (queued run17 (State.tileQueue 1797 2) 9 b).setDevBytes 0x40000 tableBytes
     let tb := tableOf (s.devBytes (embOf b).table 128)
     s.tableNamed (embOf b).table = true ∧ s.flag (bRegion 2) Fld.EMB_CTRL_HOLD = false ∧ (s.embReg 2).active.length < 16
     ∧ s.throttled (672 + 2) 2 = false ∧ s.embNext 2 = some (5, 9, b)
     ∧ s.embCheck (embOf b) tb (tableOf []) (tableOf []) = 0 ∧ 0 < (embOf b).bags ∧ tb.map ≠ 2)
    ∧ (let b := lookupBytes 0x3FFFF
       let s := (queued run17 (State.tileQueue 1797 2) 9 b).setDevBytes 0x40000 tableBytes
       s.tableNamed (embOf b).table = true ∧ s.embNext 2 = some (5, 9, b) ∧ s.embCheck (embOf b) (tableOf (s.devBytes (embOf b).table 128)) (tableOf []) (tableOf []) ≠ 0)
    ∧ (∀ o ∈ [11, 12, 15, 16, 99], let k := lookupJob false [aRequest o] [] [] [0, 1, 2]
       (lookingUp k).embJob 2 0 = some k ∧ k.d.backward = false ∧ k.todo[0]? = some (aRequest o) ∧ (lookingUp k).runs (672 + 2) = true
       ∧ (lookingUp k).rowsHere o (tableOf tableBytes).slowBase ((lookingUp k).poolNeeds (tableOf tableBytes) (tableOf []) (tableOf []) k.d.pool [0]) = true)
    ∧ (∀ back ∈ [false, true], let q : EmbReq := ⟨2, 0, 11, 4, [(0, 4, 1)], false⟩
       let k := farJob back q
       let s := farAway (lookingUp k)
       let t := State.tabsOf k
       let needs := if back then s.gradNeeds t.1 t.2.1 t.2.2 0 [1] else s.poolNeeds t.1 t.2.1 t.2.2 k.d.pool [1]
       s.embJob 2 0 = some k ∧ k.todo[0]? = some q ∧ s.runs (672 + 11) = true ∧ s.rowsHere 11 t.1.slowBase needs = false
       ∧ needs.filter (fun x => (s.fetchOf 11 t.1.slowBase x.1).isNone) ≠ []
       ∧ (let u := s.modEmb 11 fun g => { g with fetches := needs.map fun x => ⟨t.1.slowBase, x.1, x.2.1, true, some [0, 0, 0, 0]⟩ }
          u.rowsHere 11 t.1.slowBase needs = true))
    ∧ ((lookingUp (lookupJob false [aRequest 11] [] [] [0])).runs (672 + 11) = true
      ∧ (withMail run17).mailOf 2 ((99 - 16) / 16) 1 = some 2 ∧ (withMail run17).mailOf 2 ((99 - 16) / 16) 2 = none
      ∧ (withMail run17).mailOf 2 ((16 - 16) / 16) 0 = none)
    ∧ (let p : EmbPartial := ⟨2, 0, [1, 2, 3, 4], [], 1⟩
       let k := lookupJob false [] [p] [(4, ⟨[], [], 0, 2⟩)] [2]
       (lookingUp k).embJob 2 0 = some k ∧ k.ready[0]? = some p ∧ 2 ≤ (Tbl.get (fun _ => BagAcc.reset) k.bags (2 * p.bag + p.part)).left)
    ∧ (let p : EmbPartial := ⟨2, 1, [1, 2, 3, 4], [], 1⟩
       let k := lookupJob false [] [p] [(5, ⟨[], [], 0, 1⟩)] [2]
       (lookingUp k).embJob 2 0 = some k ∧ k.ready[0]? = some p ∧ (Tbl.get (fun _ => BagAcc.reset) k.bags 5).left ≤ 1
       ∧ (Tbl.get (fun _ => BagAcc.reset) k.bags 4).left = 0 ∧ ∀ b < 4, (lookingUp k).bankServes k.tile b 4 0 (State.embTok k) = true)
    ∧ (lookingUp (lookupJob true [aRequest 0] [] [] [])).runs (672 + 0) = true
    ∧ (lookingUp (lookupJob true [aRequest 0] [] [] [])).rowsHere 0 (tableOf tableBytes).slowBase
        ((lookingUp (lookupJob true [aRequest 0] [] [] [])).gradNeeds (tableOf tableBytes) (tableOf []) (tableOf []) 0 [0]) = true
    ∧ (let k := lookupJob true [aRequest 0] [] [] []
       let s := walking 0 (lookingUp k)
       ((lookingUp k).embJob 2 0 = some k ∧ k.d.backward = true ∧ k.todo[0]? = some (aRequest 0)
        ∧ (lookingUp k).tableHeld 0 (State.reqTable k 0) = false ∧ ∀ b < 4, (lookingUp k).bankServes k.tile b 4 0 (State.embTok k) = true)
       ∧ s.embJob 2 0 = some k ∧ s.tableHeld 0 (State.reqTable k 0) = true)
    ∧ (∀ e ∈ [(13, false), (99, false), (99, true)], let k := lookupJob true [aRequest e.1 e.2] [] [] []
       (lookingUp k).embJob 2 0 = some k ∧ k.d.backward = true ∧ k.todo[0]? = some (aRequest e.1 e.2)
       ∧ (lookingUp k).tableHeld e.1 (State.reqTable k 0) = false ∧ (∀ b < 4, (lookingUp k).bankServes k.tile b 4 0 (State.embTok k) = true)
       ∧ (withMail (lookingUp k)).embJob 2 0 = some k ∧ (withMail (lookingUp k)).mailOf 2 ((e.1 - 16) / 16) 1 = (if e.1 = 99 then some 2 else none))
    ∧ (let s := withMail run17
       s.runs (672 + 2) = true ∧ 2 < (s.embReg 2).inbox.length ∧ (s.embReg 2).inbox.length ≤ 3
       ∧ (let t := s.tablesAt 0x40000
          s.rowsHere 2 t.1.slowBase (s.poolNeeds t.1 t.2.1 t.2.2 0 [4]) = true ∧ s.rowsHere 2 t.1.slowBase (s.gradNeeds t.1 t.2.1 t.2.2 1 [4]) = true)
       ∧ s.tableHeld 2 (State.partAt (s.tablesAt 0x40000).1 0x40000 1) = false
       ∧ (walking 2 s).tableHeld 2 (State.partAt ((walking 2 s).tablesAt 0x40000).1 0x40000 1) = true)
    ∧ (let k := lookupJob false [] [] [] []
       (lookingUp k).embJob 2 0 = some k ∧ k.todo = [] ∧ k.ready = [] ∧ k.left = [] ∧ k.d.done = some 5 ∧ k.status ≠ 0
       ∧ (run17.counterOf 5).abandoned = false ∧ (run17.counterOf 5).value < 2 ^ 32 - 1) := by
  dsimp only; and_intros <;> decide +kernel

def fillOf (pre : Bool) : Fill := ⟨5, 7, false, pre, true, false, true⟩
def stack0 (c : StackCtl) : State := (run17.modCtl 0 fun _ => c).setFlag (bSc 0) Fld.SC_CTRL_PF_EN true

theorem witness_StackAccessesReachMemory :
    (run17.target 0x1234567A80 = .fast 7 0x1845C8A80 ∧ 0x1845C8A80 % 128 + (List.replicate 128 (0 : Byte)).length ≤ 128
      ∧ run17.badIn 0x1234567A80 128 = [] ∧ State.findWay (run17.ctl 7) 0x1845C8A80 = none ∧ (∀ f ∈ (run17.ctl 7).fills, f.line ≠ 0x1845C8A80 / 128)
      ∧ 0x1845C8A80 % 4 = 0 ∧ run17.badIn 0x1234567A80 4 = [] ∧ run17.runs (672 + 7) = true ∧ run17.rot.cleared = false
      ∧ cleared17.rot.cleared = true ∧ cleared17.badIn 0x1234567A80 128 = [] ∧ cleared17.runs (672 + 7) = true)
    ∧ (let s := stack0 { StackCtl.reset with fills := [fillOf false] }
       State.victim (s.ctl 0) (setOf (5 * 128)) ≠ none ∧ (s.ctl 0).fills.find? (fun g => g.line == 5 && !g.pre) = some (fillOf false)
       ∧ s.runs (672 + 0) = true)
    ∧ (let s := stack0 { StackCtl.reset with fills := [fillOf true] }
       State.victim (s.ctl 0) (setOf (5 * 128)) ≠ none ∧ (s.ctl 0).fills.find? (fun g => g.line == 5 && g.pre) = some (fillOf true))
    ∧ (let s := stack0 { StackCtl.reset with streams := [⟨5, true, 7, 0⟩] }
       (s.ctl 0).streams[0]? = some ⟨5, true, 7, 0⟩ ∧ s.streamNext 0 ⟨5, true, 7, 0⟩ = some 6 ∧ s.flag (bSc 0) Fld.SC_CTRL_PF_EN = true ∧ s.runs (672 + 0) = true) := by
  decide +kernel

theorem witness_SlowTierAndHostWindowAccessesTakeEffect :
    run17.target (slowTop - 64) = .slow (slowTop - 64 - slowBase) ∧ (slowTop - 64) % 64 + (List.replicate 64 (0 : Byte)).length ≤ 64
    ∧ run17.badIn (slowTop - 64) 64 = [] ∧ run17.rot.cleared = false
    ∧ run17.target (hostTop - 1) = .host (hostTop - 1 - hostBase) ∧ State.inHost (hostTop - 1) 1 = true
    ∧ (hosted run17).hostAddr (hostTop - 1 - hostBase) + 1 ≤ 2 ^ 64 ∧ (hosted run17).hostUp = true
    ∧ (run17.setF (bFn 4) Fld.HL_STATUS_SPEED 0).hostUp = false
    ∧ (∀ n ∈ [0, 767], ({ run17 with ms.hostReads := List.replicate n (3, 64) } : State).ms.hostReads.length < 768)
    ∧ 768 ≤ ({ run17 with ms.hostReads := List.replicate 768 (3, 64) } : State).ms.hostReads.length
    ∧ 3 ∈ ({ run17 with ms.hostReads := [(3, 64)] } : State).ms.hostReads.map Prod.fst
    ∧ ({ run17 with job.phase := 2 } : State).job.phase ≠ 0 ∧ run17.job.phase = 0
    ∧ run17.controls .control = true ∧ run17.controls .tile = false
    ∧ (run17.blkHeld (bSc 3) = false ∧ (inHold run17 675).blkHeld (bSc 3) = true ∧ (run17.ctl 3).pin = true) := by decide +kernel

def dmaBytes (src : Nat) : List Byte := fields 64 [(0, src), (64, 0x2000), (116, 1), (117, 5), (128, 48), (152, 1), (284, 5), (306, 1)]
def dmaQ (src : Nat) : State := queued (run17.modQueue 20000 fun c => { c with kind := 4, unit := 5 }) 20000 9 (dmaBytes src)

theorem witness_DmaDescriptorsMoveTheirBytes :
    (let s := run17.modDma 5 fun g => { g with fifo := [(7, dmaBytes 0x1000)] }
     s.runs (672 + 5 / 4) = true ∧ s.throttled (672 + 5 / 4) 2 = false ∧ s.flag (bDma 5) Fld.DMA_CTRL_HOLD = false ∧ (s.dmaEng 5).active.length < 2 ∧ s.dmaNext 5 = some 0
     ∧ (s.dmaEng 5).fifo = (7, dmaBytes 0x1000) :: [] ∧ s.dmaCheck 1 (dmaOf (dmaBytes 0x1000)) = 0
     ∧ State.dmaEmpty (dmaOf (dmaBytes 0x1000)) = false ∧ (s.counterOf 5).abandoned = false ∧ (s.counterOf 5).value < 2 ^ 32 - 1)
    ∧ (let s := run17.modDma 5 fun g => { g with fifo := [(7, dmaBytes (2 ^ 52 - 1))] }
       s.dmaNext 5 = some 0 ∧ (s.dmaEng 5).fifo = (7, dmaBytes (2 ^ 52 - 1)) :: [] ∧ s.dmaCheck 1 (dmaOf (dmaBytes (2 ^ 52 - 1))) ≠ 0)
    ∧ ((dmaQ 0x1000).dmaNext 5 = some 20001 ∧ (dmaQ 0x1000).startable 20000 = some (9, dmaBytes 0x1000))
    ∧ ((dmaQ (2 ^ 52 - 1)).dmaNext 5 = some 20001 ∧ (dmaQ (2 ^ 52 - 1)).dmaCheck 1 (dmaOf (dmaBytes (2 ^ 52 - 1))) ≠ 0)
    ∧ (let j : DmaJob := ⟨3, some 20000, 9, dmaOf (dmaBytes 0x1000), 0⟩
       let s := (own run17 901 3).modDma 5 fun g => { g with active := [j] }
       s.runs (672 + 5 / 4) = true ∧ (s.dmaEng 5).active.find? (fun j => j.id == 3) = some j
       ∧ s.sideRuns j.d.srcTile (s.dmaReadRuns (5 / 4) j.d) = true ∧ s.sideRuns j.d.dstTile (s.dmaDstRuns (5 / 4) j.d) = true
       ∧ (∀ b < 4, s.bankServes (5 / 4 * 896 + 5) b 3 0 (.desc 20000 9) = true)
       ∧ j.d.srcTile = none ∧ j.d.dstTile = some 5 ∧ j.d.op = .copy ∧ j.d.rows = 1 ∧ j.d.done = some 5) := by decide +kernel

def updateBytes (l : List (Nat × Nat)) : List Byte := fields 64 ([(0, 0x80000), (64, 0x3F800000), (96, 1), (192, 5), (214, 1), (448, 7)] ++ l)
def shardBytes : List Byte := fields 128 [(0, 0x100000), (54, 3), (56, 8), (64, 0x180000), (384, 3), (408, 1), (448, 0x3F800000), (512, 1)]
def updateD (checked : Bool) (status count next : Nat) : UpdDesc :=
  ⟨9, updateBytes [(52, 1)], shardBytes, [], !checked, checked, status, count, [], next⟩
/-- Update engine 4 with a batch of step 7, the verdict in its register. -/
def updating (k : UpdDesc) (reported : Bool) (code : Nat) : State :=
  ((run17.modUpd 4 fun g => { g with batch := [k], step := 7, reported := reported }).setF (bUpd 4) Fld.UPD_VERDICT_CODE code).setF
    (bUpd 4) Fld.UPD_VERDICT_STEP 7

theorem witness_UpdateBatchesCheckApplyAndComplete :
    (let s := queued (run17.modQueue 20005 fun c => { c with kind := 5, unit := 4 }) 20005 9 (updateBytes [(52, 1)])
     s.updRuns 4 = true ∧ s.throttled (672 + 4) 2 = false ∧ s.flag (bUpd 4) Fld.UPD_CTRL_HOLD = false ∧ (s.updEng 4).reported = false
     ∧ (s.updEng 4).batch = [] ∧ s.updQueue 4 = some 20005
     ∧ s.startable 20005 = some (9, updateBytes [(52, 1)]) ∧ (updOf (updateBytes [(52, 1)])).wait = none
     ∧ (updOf (updateBytes [(52, 1)])).stepLast = true)
    ∧ (let s := updating (updateD false 0 0 0) false 0
       s.updRuns 4 = true ∧ s.flag (bUpd 4) Fld.UPD_CTRL_HOLD = false ∧ (s.updEng 4).batch.find? (fun k => !k.checked) = some (updateD false 0 0 0) ∧ (s.updEng 4).reported = false
       ∧ s.takeRelease (.engine (State.updAgent 4 % 2 ^ 28)) = none
       ∧ ({ s with sync.released := [(.engine (State.updAgent 4 % 2 ^ 28), 3)] } : State).takeRelease (.engine (State.updAgent 4 % 2 ^ 28)) ≠ none)
    ∧ (let k := updateD true 0 1 2
       let s := updating k true 1
       s.updRuns 4 = true ∧ s.flag (bUpd 4) Fld.UPD_CTRL_HOLD = false ∧ s.verdictOf 4 = some false ∧ (s.updEng 4).batch.head? = some k ∧ k.next < State.updWork k
       ∧ (updating k true 2).verdictOf 4 = some true ∧ (shardOf k.shard).kind ≠ 1 ∧ k.count ≠ 0 ∧ (hosted s).memorySound = true
       ∧ (shardOf k.shard).undoEn = false ∧ (shardOf k.shard).stats = 0 ∧ (shardOf k.shard).layout = 3
       ∧ s.target ((shardOf k.shard).recordAt k.next) = .fast 4 0x15200 ∧ (shardOf k.shard).recordAt k.next % 256 = 0)
    ∧ (let k := updateD true 0 1 2
       let at_ := (shardOf k.shard).recordAt 2
       let u := (updating k true 1).setDevNat (at_ + 196) 4 6
       let g := groupOf (2 ^ 233 * 0x3F800000 / 2 ^ 9) 7
       (((updating k true 1).setDevNat (at_ + 196) 4 7).devNat (at_ + 196) 4 = 7 ∧ u.devNat (at_ + 196) 4 = 6 ∧ seqBefore (BitVec.ofNat 32 7) (BitVec.ofNat 32 6) = false)
       ∧ g.frozen = false ∧ g.rule = 0 ∧ (updOf k.bytes).step = 7)
    ∧ (let k := updateD true 3 1 0
       (updating k true 1).updRuns 4 = true ∧ (updating k true 1).verdictOf 4 = some false ∧ ((updating k true 1).updEng 4).batch.head? = some k ∧ State.updWork k ≤ k.next
       ∧ (updOf k.bytes).done = some 5 ∧ k.status ≠ 0 ∧ (updOf k.bytes).stepLast = true
       ∧ (updating k true 1).flag (bUpd 4) Fld.UPD_CTRL_HOLD = false
       ∧ (run17.counterOf 5).abandoned = false ∧ (run17.counterOf 5).value < 2 ^ 32 - 1)
    ∧ (let k : UpdDesc := { updateD true 0 1 0 with shard := [] }
       let s := (updating k true 1).setFlag (bUpd 4) Fld.UPD_CTRL_HOLD true
       State.updWork k ≤ k.next ∧ k.next = 0 ∧ s.flag (bUpd 4) Fld.UPD_CTRL_HOLD = true ∧ s.verdictOf 4 = some false
       ∧ (s.updEng 4).batch.head? = some k)
    ∧ (run17.controls .control = true ∧ run17.blkHeld (bUpd 4) = false) := by
  decide +kernel

theorem witness_RemoteSignalsWaitForTheirBytes :
    (let s := { run17 with sync.retry := [⟨5, 1, .thread 3 3 3, true⟩, ⟨5, 0, .engine 4, false⟩] }
     s.sync.retry[0]? = some ⟨5, 1, .thread 3 3 3, true⟩ ∧ (s.counterOf 5).abandoned = false ∧ (s.counterOf 5).value < 1
     ∧ s.waitRoom (syncMemOf 5) = true ∧ s.sync.retry[1]? = some ⟨5, 0, .engine 4, false⟩ ∧ 0 ≤ (s.counterOf 5).value)
    ∧ (let s := { run17 with sync.landing := [(State.landingKey 65535 3 7, 64)] }
       (64#32).toNat ≤ s.tally (State.landingKey 65535 3 7) ∧ (s.counterOf 2818047).abandoned = false
       ∧ s.tally (State.landingKey 65535 3 7) < (65#32).toNat ∧ s.sync.held.length < 256 ∧ s.landingRoom (State.landingKey 65535 3 7) = true
       ∧ run17.landingRoom (State.landingKey 0 0 0) = true ∧ run17.sync.held = [])
    ∧ (let s := { run17 with sync.held := [⟨9, 1, 7, 5, 64, 0, false⟩], time := 10 ^ 12 }
       s.sync.held[0]? = some ⟨9, 1, 7, 5, 64, 0, false⟩ ∧ s.getF bHub Fld.SYNC_CTRL_HOLD_LIMIT * 1000000 < s.time - 0)
    ∧ (let u := (counting 0 0 5 false).setF (bSync 672) Fld.SYNC_SEL_COUNTER 65535
       u.selected 672 = 2818047 ∧ u.err.syncDead.contains (2818047 / 64) = false ∧ (u.counterOf 2818047).abandoned = false
       ∧ (((counting 0 0 5 true).setF (bSync 672) Fld.SYNC_SEL_COUNTER 65535).counterOf 2818047).abandoned = true) := by decide +kernel

/-- Job 5's exchange at step 6 with two buckets of 64 elements, the second with a carry-over, in one ring of two modules. -/
def bucketBytes (carry : Nat) (result : Nat := 0x220000) (len : Nat := 64) : List Byte := fields 128 [(0, len), (28, 1), (29, carry), (32, 3), (64, 0x200000), (128, 0x1000), (192, 0x210000),
  (256, result), (320, 0x230000), (384, 0x240000), (448, 0x250000), (512, 0x8000), (560, 5), (582, 1)]
def exch (f : ExBuf → ExBuf) : State :=
  let s := ((run17.setF bHub Fld.FR_STATUS_LEVELS 1).setF bHub Fld.FR_SEAL_JOB 5).setF bHub Fld.FR_SEAL_LOCAL 5
  let s := (s.setF (bRing 0) Fld.RL_POS_SIZE_M1 1).setF (bRing 0) Fld.RL_POS_SUCC 2
  let s := { s with job.phase := 3, job.buckets := [(0, bucketBytes 0), (1, bucketBytes 1)], job.exq := some 20010, job.named := [4] }
  { s with time := 10 ^ 12, ex.bufs := [f (ExBuf.reset 6 0)] }
def postBytes (step b : Nat) : List Byte := fields 64 [(0, b), (448, step)]
def posting (step b : Nat) : State := queued (exch id) 20010 9 (postBytes step b)

theorem witness_BucketsAreContributedDecidedAndCompleted :
    (let s := posting 7 1
     s.job.exq = some 20010 ∧ s.startable 20010 = some (9, postBytes 7 1) ∧ s.exStarts = true ∧ s.throttled 688 2 = false
     ∧ seqBefore (BitVec.ofNat 32 (State.nextStep s.oldestStep)) (BitVec.ofNat 32 (dStep (postBytes 7 1))) = false
     ∧ (!(seqUnordered (BitVec.ofNat 32 s.oldestStep) (BitVec.ofNat 32 7)) && (s.bucketD 1).valid && !(s.exBuf 7 1).posted
        && !(seqBefore (BitVec.ofNat 32 7) (BitVec.ofNat 32 s.oldestStep)) && counterFieldOk none) = true
     ∧ seqBefore (BitVec.ofNat 32 (State.nextStep s.oldestStep)) (BitVec.ofNat 32 (dStep (postBytes 5 0))) = false
     ∧ seqBefore (BitVec.ofNat 32 5) (BitVec.ofNat 32 s.oldestStep) = true
     ∧ seqUnordered (BitVec.ofNat 32 s.oldestStep) (BitVec.ofNat 32 (dStep (postBytes (6 + 2 ^ 31) 0))) = true)
    ∧ (let s := exch fun b => { b with posted := true }
       s.exStarts = true ∧ s.inWindow 6 = true ∧ (s.exBuf 6 0).decision = 0 ∧ (s.exBuf 6 0).posted = true ∧ (s.exBuf 6 0).ready = false
       ∧ (s.exBuf 6 0).registered = false ∧ ∀ q < 4, s.dieHeld q = false)
    ∧ (let s := exch fun b => { b with registered := true }
       (s.exBuf 6 0).registered = true ∧ s.takeRelease (postWaiter 6 0) = none)
    ∧ (let s := exch fun b => { b with since := some 5 }
       s.exStarts = true ∧ (s.exBuf 6 0).since = some 5 ∧ (s.exBuf 6 0).decision = 0 ∧ s.postReady 6 0 = none ∧ 5 + s.getF bHub Fld.FR_CTRL_DEADLINE_US * 1000 ≤ s.time ∧ s.myBackup = none)
    ∧ (let s := (exch fun b => { b with since := some 5, backup := [(0, 16), (1, 16), (2, 16), (3, 16)] }).setFlag (bRing 0) Fld.RL_BACKUP_BACKUP_EN
         true
       s.exStarts = true ∧ s.postReady 6 0 = none ∧ s.myBackup ≠ none ∧ ∀ q < 4, Tbl.get (fun _ => 0) (s.exBuf 6 0).backup q = ((s.bucketD 0).quarter q).2)
    ∧ (∀ d ∈ [2, 3], let s := exch fun b => { b with decision := d, posted := true }
       s.exStarts = true ∧ (s.exBuf 6 0).decision = d ∧ (s.exBuf 6 0).posted = true ∧ (s.exBuf 6 0).ready = false
       ∧ (s.exBuf 6 0).registered = false ∧ (s.bucketD 0).carry = false ∧ s.inWindow 6 = true ∧ (s.setF bHub Fld.FR_SEAL_JOB 6).inWindow 6 = false)
    ∧ (∀ d ∈ [0, 1], let mine := if d = 0 then [] else [0, 4, 8, 12].map fun q => (q, (0, 2, true))
       let done := if d = 0 then [0, 4, 8, 12].map fun q => (q, 16) else []
       let s := exch fun b => { b with decision := d, nf := true, owned := mine, final := done }
       let s := if d = 0 then s.setFlag (bRing 0) Fld.RL_BACKUP_IS_BACKUP true else s
       s.exRuns = true ∧ s.inWindow 6 = true ∧ (s.bucketD 0).valid = true ∧ (s.exBuf 6 0).complete = false
       ∧ (s.isBackup = true ∨ (s.exBuf 6 0).decision ≠ 0)
       ∧ (∀ q < 4, s.quarterDone (s.exBuf 6 0) (s.bucketD 0) q = true) ∧ (s.bucketD 0).reduced = some 5 ∧ (s.counterOf 5).abandoned = false
       ∧ (s.counterOf 5).value < 2 ^ 32 - 1)
    ∧ (let s := exch fun b => { b with decision := 1, park := [⟨3, 0, 1, 3, true⟩] }
       s.exStarts = true ∧ (s.exBuf 6 0).park[0]? = some ⟨3, 0, 1, 3, true⟩ ∧ s.dieRuns 3 = true ∧ s.valueKnown 6 0 3 0 = true) := by decide +kernel

/-- A bucket packet: step, bucket, quarter, level, phase, chunk, last, with 4 elements. -/
def bucketPkt (step b q ph chunk last : Nat) : Packet :=
  ⟨4, 0, 0, 7, step + b * 2 ^ 32 + q * 2 ^ 40 + ph * 2 ^ 44 + last * 2 ^ 47 + chunk * 2 ^ 48 + 3 * 2 ^ 64, (List.replicate 4 [0, 0, 128, 63]).flatten⟩
def arrived (s : State) (cls : Nat) (k : Packet) : State := s.modPort 1 fun q => { q with rxq := [⟨cls, 0, k.encode, false⟩] }
def takenAs (s : State) (cls : Nat) (want : Packet → Bool) (k : Packet) : Bool :=
  match s.rxTake 1 cls want with
  | some (j, _) => j.typ == k.typ && j.src == k.src && j.spec == k.spec && j.payload.take k.payload.length == k.payload
  | none => false

theorem witness_ExchangePacketsAreTakenInOrder :
    (∀ ph < 4, ∀ last < 2, let k := bucketPkt 6 0 3 ph 1 last
      let s := (arrived (exch id) 3 k).setFlag (bRing 0) Fld.RL_BACKUP_IS_BACKUP true
      s.exRuns = true ∧ s.dieRuns 3 = true ∧ (inHold s 687).dieRuns 3 = false ∧ takenAs s 3 (fun j => State.pkPhase j == State.pkPhase k) k = true ∧ s.isBackup = true
      ∧ s.packetWaits 6 0 = false ∧ s.inWindow 6 = true ∧ (s.exBuf 6 0).decision = 0 ∧ k.bits 111 1 = last
      ∧ s.valueKnown 6 0 (State.pkQuarter k) (State.pkLevel k) = false)
    ∧ (∀ ph < 2, let k := bucketPkt 6 0 3 ph 2 1
      let s := (arrived (exch fun b => { b with decision := 1 }) 3 k).setF (bRing 0) Fld.RL_POS_SIZE_M1 2
      let s := { s with job.digest := slowTop - 131072, job.buckets := [(0, bucketBytes 0 slowBase 512)] }
      let a := State.resultAt (s.bucketD 0) 6 (s.pkRange k).1
      takenAs s 3 (fun j => State.pkPhase j == State.pkPhase k) k = true ∧ s.packetWaits 6 0 = false ∧ s.inWindow 6 = true
      ∧ s.valueKnown 6 0 3 0 = true ∧ State.pkChunk k = 2 ∧ s.ringPos 0 = 0 ∧ (s.ringPos 0 + s.ringSize 0 - 2) % s.ringSize 0 + 1 < s.ringSize 0
      ∧ (min 4096 ((s.pkRange k).2 - k.bits 160 28)) ≠ 0 ∧ k.payload.length = 16
      ∧ ((s.valueOf 6 0 3 0 (s.pkRange k)).1.getD []) ≠ []
      ∧ State.inSlow a 16 = true ∧ State.inSlow s.job.digest 131072 = true ∧ a + 16 ≤ s.job.digest)
    ∧ (∀ step ∈ [7, 8], (arrived (exch id) 3 (bucketPkt step 0 0 0 1 1)).packetWaits step 0 = true)
    ∧ ((exch id).packetWaits 5 0 = false ∧ (exch id).inWindow 5 = false)
    ∧ takenAs (arrived (exch id) 4 ⟨5, 0, 0, 7, 6, leBytes 12 6⟩) 4 (fun j => j.bits 64 8 == 6) ⟨5, 0, 0, 7, 6, leBytes 12 6⟩ = true := by
  and_intros <;> decide +kernel

def roundPkt (sl step value kind : Nat) : Packet :=
  ⟨5, 0, 0, 3, 4 + sl, leBytes 4 step ++ [0, BitVec.ofNat 8 value] ++ leBytes 2 3 ++ leBytes 4 0 ++ [BitVec.ofNat 8 kind]⟩
def stepDone (verdicts : List (Nat × Bool)) : State :=
  let s := exch fun b => { b with complete := true }
  let s := { s with ex.bufs := s.ex.bufs ++ [{ ExBuf.reset 6 1 with complete := true }], ex.verdicts := verdicts }
  s.modUpd 4 fun g => { g with reported := true, step := 6, nf := true, ended := if verdicts = [] then none else some 6 }

/-- Module 3 stands in the ring of level 0. -/
def inRing (s : State) : State := { s with job.rings := [[(0, none), (3, none)]] }

theorem witness_RoundsSealTheStep :
    ((stepDone []).exRuns = true ∧ (stepDone []).dieHeld 0 = false ∧ (stepDone []).inWindow 6 = true ∧ ((stepDone []).round false 6).started = false
      ∧ (stepDone []).localFlag 6 = some true ∧ (stepDone []).undecided 6 = true)
    ∧ (∀ kind < 2, let s := arrived (exch id) 4 (roundPkt 0 6 1 kind)
        takenAs s 4 (fun k => k.bits 64 8 == 4) (roundPkt 0 6 1 kind) = true
        ∧ leNat (((roundPkt 0 6 1 kind).payload.drop 12).take 1) = kind ∧ s.ex.verdicts = [] ∧ s.myBackup ≠ some 3
        ∧ s.exRuns = true ∧ s.dieHeld 0 = false ∧ s.inWindow 6 = true ∧ s.isBackup = false ∧ (∀ e ∈ s.job.rings.getD 0 [], e.1 ≠ 3)
        ∧ (∃ e ∈ (inRing s).job.rings.getD 0 [], e.1 = 3))
    ∧ (let s := ((arrived (exch id) 4 (roundPkt 0 6 1 0)).setFlag (bRing 0) Fld.RL_BACKUP_BACKUP_EN true).setF (bRing 0) Fld.RL_BACKUP_BACKUP 3
       s.myBackup = some 3 ∧ (roundPkt 0 6 1 0).src = 3 ∧ leNat (((roundPkt 0 6 1 0).payload.drop 6).take 2) = 3)
    ∧ ((stepDone [(6, true)]).exRuns = true ∧ (stepDone [(6, true)]).dieHeld 0 = false ∧ (stepDone [(6, true)]).sealReady 6 = true ∧ State.nextStep ((stepDone []).getF bHub Fld.FR_SEAL_LOCAL) = 6
      ∧ (stepDone []).sealReady 6 = false)
    ∧ (∀ step ∈ [4, 5, 6, 7], takenAs (arrived (exch id) 4 (roundPkt 1 step 1 0)) 4 (fun k => k.bits 64 8 == 5) (roundPkt 1 step 1 0) = true)
    ∧ ((exch id).inWindow 5 = false ∧ (exch id).sealedStep 5 = true ∧ (exch id).inWindow 4 = false ∧ (exch id).sealedStep 4 = false
      ∧ (exch id).inWindow 7 = true)
    ∧ (∀ sl < 2, let s := { arrived (exch id) 4 (roundPkt sl 6 1 0) with ex.halted := true }
       s.job.phase ≠ 0 ∧ s.ex.halted = true ∧ s.dieHeld 0 = false ∧ takenAs s 4 (fun k => k.bits 64 8 == if sl = 1 then 5 else 4) (roundPkt sl 6 1 0) = true)
    ∧ (((0 : Fin 3).val < (exch id).levels ∧ 1 < (exch id).ringSize 0)
      ∧ Tbl.get (fun _ => 0) (exch id).ex.heard 0 + (exch id).getF bHub Fld.FR_CTRL_BREAK_MS * 1000000 ≤ (exch id).time
      ∧ (let s := { inRing (exch id) with ex.rounds := [⟨false, 6, 0, false, [], true, false⟩] }
         s.exStarts = true ∧ s.dieRuns 0 = true ∧ 1 < s.ringSize 0 ∧ s.engineWaits 0 0 = true))
    ∧ (exch id).flag bHub Fld.FR_CTRL_HOLD = false := by
  and_intros <;> decide +kernel

/-- Port 9 in a state, lit, with credits; a value in its list. -/
def portAt (p st : Nat) (f : LwPort → LwPort) : State :=
  let s := (((run17.setLw p Fld.LW_STATUS_STATE st).setLw p Fld.LW_STATUS_WL_ACTIVE 255).setFlag (bDie (p / 8)) Fld.LW_CTRL_EN true (p % 8)).modPort
    p fun q => { q with dark := false, credits := fullCredits }
  { (s.setF (bFn 6) Fld.BOOT_STATUS_STAGE 4).modPort p f with time := 10 ^ 6 }

theorem witness_LightwayPortsTrainRunAndGoDown :
    (portAt 9 4 id).lwUp 9 = true ∧ ((portAt 9 0 fun q => { q with dark := true }).port 9).dark = true
    ∧ ((portAt 9 1 id).lwState 9 = 1 ∧ (portAt 9 1 id).lwReady 9 = true)
    ∧ ((portAt 9 2 id).lwState 9 = 2 ∧ (portAt 9 2 id).lwReady 9 = true ∧ 4 ≤ bitCount 9 (0x10E#9).toNat ∧ bitCount 9 (0x106#9).toNat < 4)
    ∧ (let s := ((portAt 9 5 fun q => { q with spareOk := true }).setFlag (bDie 1) Fld.LW_CTRL_SPARE_AUTO true 1)
       s.lwUp 9 = true ∧ (s.lwWaves 9).testBit 7 = true ∧ (s.port 9).failed = none
       ∧ (s.flag (bDie 1) Fld.LW_CTRL_SPARE_AUTO 1 && (s.port 9).spareOk && !(s.lwWaves 9).testBit 8 && (s.port 9).failed.isNone) = true)
    ∧ (let s := (portAt 9 5 fun q => { q with spareOk := true }).setLw 9 Fld.LW_STATUS_WL_ACTIVE 0x1FE
       s.lwUp 9 = true ∧ (s.lwWaves 9).testBit 8 = true ∧ (s.port 9).failed = none ∧ 4 ≤ bitCount 9 (setBits (s.lwWaves 9) 8 1 0))
    ∧ (let s := portAt 9 5 fun q => { q with spareOk := true, failed := some 2 }
       (s.lwWaves 9).testBit 7 = true ∧ (s.port 9).failed ≠ some 7 ∧ (s.port 9).failed.isNone = false)
    ∧ (let s := (portAt 9 4 id).setFlag (bDie 1) Fld.LW_CTRL_SPARE_AUTO false 1
       (s.lwWaves 9).testBit 0 = true ∧ (s.flag (bDie 1) Fld.LW_CTRL_SPARE_AUTO 1 && (s.port 9).spareOk && !(s.lwWaves 9).testBit 8) = false
       ∧ 4 ≤ bitCount 9 (setBits (s.lwWaves 9) 0 1 0))
    ∧ (let s := ((portAt 9 4 id).setFlag (bDie 1) Fld.LW_CTRL_SPARE_AUTO false 1).setLw 9 Fld.LW_STATUS_WL_ACTIVE 15
       (s.lwWaves 9).testBit 3 = true ∧ bitCount 9 (setBits (s.lwWaves 9) 3 1 0) < 4)
    ∧ ((portAt 9 4 fun q => { q with failed := some 3 }).port 9).failed = some 3
    ∧ (portAt 9 6 id).lwTalks 9 = true ∧ (portAt 9 2 id).lwState 9 = 2
    ∧ ((portAt 9 0 id).lwState 9 = 0 ∧ (portAt 9 0 id).lwReady 9 = true) := by decide +kernel

def aFlit (seq times : Nat) : Flit := ⟨seq, 0, 0, true, true, List.replicate 256 7, times⟩
def aTx (cls : Nat) : TxPkt := ⟨cls, 0, (⟨0, 0, 2, 0, 0, List.replicate 300 9⟩ : Packet).encode, 0, none⟩

/-- A received frame's trailer (R434): with its CRC, and with another. -/
theorem witness_LightwayFramesCarryAndRepeatFlits_received (flit : List Byte) (low : Nat) (h : low < 2 ^ 96) :
    (∃ t : BitVec 128, trailerOf (fit 256 flit) (t.toNat % 2 ^ 96) = t.toNat ∧ t.toNat % 2 ^ 96 = low)
    ∧ ∃ t : BitVec 128, trailerOf (fit 256 flit) (t.toNat % 2 ^ 96) ≠ t.toNat ∧ t.toNat % 2 ^ 96 = low := by
  have hc := crc32_lt (fit 256 flit ++ leBytes 12 low)
  have e (k : Nat) (hk : k < 2 ^ 32) : (BitVec.ofNat 128 (low + k * 2 ^ 96)).toNat = low + k * 2 ^ 96 := by
    rw [BitVec.toNat_ofNat]; omega
  refine ⟨⟨BitVec.ofNat 128 (low + crc32 (fit 256 flit ++ leBytes 12 low) * 2 ^ 96), ?_, by rw [e _ hc]; omega⟩, ⟨BitVec.ofNat 128 (low + (if crc32 (fit 256 flit ++ leBytes 12 low) = 0 then 1 else 0) * 2 ^ 96), ?_, ?_⟩⟩
  · rw [e _ hc, show (low + crc32 (fit 256 flit ++ leBytes 12 low) * 2 ^ 96) % 2 ^ 96 = low by omega]; rfl
  · rw [e _ (by split <;> decide)]
    split
    · rw [show (low + 1 * 2 ^ 96) % 2 ^ 96 = low by omega]; unfold trailerOf; omega
    · rw [show (low + 0 * 2 ^ 96) % 2 ^ 96 = low by omega]; unfold trailerOf; omega
  · rw [e _ (by split <;> decide)]; split <;> omega

theorem witness_LightwayFramesCarryAndRepeatFlits :
    (let s := portAt 9 3 fun q => { q with replay := [aFlit 3 0], resend := [aFlit 3 0] }
     s.lwTalks 9 = true ∧ (s.port 9).failed = none ∧ (s.port 9).resend = aFlit 3 0 :: [])
    ∧ (let s := portAt 9 4 fun q => { q with tx := [aTx 4, aTx 0], txSeq := 2 ^ 32 - 1 }
       (s.port 9).resend = [] ∧ (s.port 9).replay.length < 8192 ∧ State.creditOf (s.port 9) (aTx 0) ≠ 0
       ∧ (((upFrom 0 5).map fun i => (0 + i) % 5).filterMap fun c => s.txHead 9 c).find? (fun k => State.creditOf (s.port 9) k != 0) = some (aTx 0))
    ∧ (let s := portAt 9 4 fun q => { q with tx := [aTx 0], credits := [] }
       ∀ k ∈ (((upFrom 0 5).map fun i => (4 + i) % 5).filterMap fun c => s.txHead 9 c), State.creditOf (s.port 9) k = 0)
    ∧ ((portAt 9 4 fun q => { q with nakIn := true }).port 9).nakIn = true
    ∧ (let s := portAt 9 4 fun q => { q with replay := [aFlit 3 16], progress := 10 ^ 6 }
       s.lwTalks 9 = true ∧ (s.port 9).replay ≠ [] ∧ ∃ f ∈ (s.port 9).replay, 16 ≤ f.times)
    ∧ (let s := portAt 9 6 fun q => { q with replay := [aFlit 3 0], progress := 900000 }
       s.lwTalks 9 = true ∧ (s.port 9).progress + 100000 ≤ s.time) := by decide +kernel

/-- A map of a ring of three in which this module stands at a position; every die's ports 0 and 1 are its ring ports and talk. -/
def ringMap (me : Nat) : LwMap :=
  { module := me, levels := 1, gm := 3, n := [3, 1, 1], ports := (List.range 32).map fun p => if p % 8 = 0 then 1 + 2 * 16 + (p + 1) * 2 ^ 20
      else if p % 8 = 1 then 2 + 5 * 16 + (p - 1) * 2 ^ 20 else 0, pos := [(0, 2 ^ 48 + 2 ^ 49), (2, 2 ^ 48 + 2 ^ 49 + 1), (3, 2 ^ 48 + 2 ^ 49 + 2)] }
def mapped (me : Nat) (checked : Bool) (v : LwLevel) : State :=
  let s := [0, 1, 8, 9, 16, 17, 24, 25].foldl (fun s p => ((s.setLw p Fld.LW_STATUS_STATE 4).setLw p Fld.LW_STATUS_WL_ACTIVE 255).modPort p fun q =>
    { q with dark := false, matched := true, credits := fullCredits }) run17
  { s.setF bHub Fld.LW_ID_MODULE me with time := 2 * 10 ^ 10, lw.map := some (ringMap me), lw.checked := checked, lw.levels := [(0, v)] }
def remoteWrite (len : Nat) : List Byte := fields 64 [(0, 0x3FFFF), (52, 1), (116, 5), (192, len), (216, 5), (238, 1)]
def lwQueued (s : State) (d : List Byte) : State :=
  let s := queued (s.modQueue 20020 fun c => { c with kind := 7 }) 20020 9 d
  { s with job.lwq := [20020] }

theorem witness_LightwayPacketsReachTheirTargets :
    let m := mapped 0 true LwLevel.reset
    let w : Packet := ⟨0, 1, 0, 2, 7 + 5 * 2 ^ 32 + slowBase * 2 ^ 64, [1, 2, 3, 4, 5]⟩
    let g : Packet := ⟨3, 1, 0, 2, 7 + 2817047 * 2 ^ 118, []⟩
    (takenAs (arrived m 0 w) 0 (arrived m 0 w).packetGoes w = true ∧ (State.reservedPacket w = false ∧ w.dst = m.selfModule)
      ∧ m.lw.map.isSome = true ∧ w.bits 180 2 ≠ 1 ∧ State.inSlow (w.bits 128 52) (w.bits 96 32) = true ∧ m.sync.held = [])
    ∧ (let k : Packet := ⟨0, 1, 0, 2, 7 + 5 * 2 ^ 32 + 0x1234567A80 * 2 ^ 64, [1, 2, 3, 4, 5]⟩
       takenAs (arrived m 0 k) 0 (arrived m 0 k).packetGoes k = true ∧ State.reservedPacket k = false ∧ k.dst = m.selfModule
       ∧ m.inFast (k.bits 128 52) (k.bits 96 32) = true ∧ m.target (k.bits 128 52) = .fast 7 0x1845C8A80 ∧ 0x1845C8A80 % 128 + k.bits 96 32 ≤ 128)
    ∧ (let k : Packet := ⟨0, 0, 0, 2, 7 + 5 * 2 ^ 32 + 3 * 2 ^ 64 + 2 ^ 116, [1, 2, 3, 4, 5]⟩
       takenAs (arrived m 0 k) 0 (arrived m 0 k).packetGoes k = true ∧ State.reservedPacket k = false ∧ k.dst = m.selfModule
       ∧ k.bits 180 2 = 1 ∧ bitsOf (k.bits 128 52) 0 4 = 3 ∧ k.bits 96 32 = 5)
    ∧ (takenAs (arrived m 3 g) 3 (arrived m 3 g).packetGoes g = true ∧ g.bits 96 32 = 0 ∧ g.bits 182 22 ≤ 2818047
      ∧ (m.counterOf (g.bits 182 22)).abandoned = false ∧ (m.counterOf (g.bits 182 22)).value < 2 ^ 32 - 1)
    ∧ (let k : Packet := ⟨6, 0, 0, 2, 0, []⟩
       takenAs (arrived m 4 k) 4 (arrived m 4 k).packetGoes k = true ∧ State.reservedPacket k = true)
    ∧ (let k : Packet := ⟨0, 0, 2, 3, 0, []⟩
       takenAs (arrived m 0 k) 0 (arrived m 0 k).packetGoes k = true ∧ State.reservedPacket k = false ∧ k.dst ≠ m.selfModule)
    ∧ (let k : Packet := ⟨1, 1, 0, 2, 7 + 9 * 2 ^ 32 + slowBase * 2 ^ 64, []⟩
       takenAs (arrived m 0 k) 0 (fun k => k.typ == 1 && k.dst == m.selfModule && m.lw.map.isSome && m.memRuns (k.bits 128 52) (k.bits 96 32)) k
         = true
       ∧ m.mapped (k.bits 128 52) (k.bits 96 32) = true ∧ m.badIn (k.bits 128 52) (k.bits 96 32) = []
       ∧ ({ m with mem.bad := [slowBase / 64] } : State).badIn (k.bits 128 52) (k.bits 96 32) ≠ [])
    ∧ (let k : Packet := ⟨1, 1, 0, 2, 7 + 9 * 2 ^ 32 + (2 ^ 52 - 1) * 2 ^ 64, []⟩
       takenAs (arrived m 0 k) 0 (fun k => k.typ == 1 && k.dst == m.selfModule && m.lw.map.isSome && m.memRuns (k.bits 128 52) (k.bits 96 32)) k
         = true
       ∧ m.mapped (k.bits 128 52) (k.bits 96 32) = false)
    ∧ (let k : Packet := ⟨2, 1, 0, 2, 7 + 9 * 2 ^ 32, [1, 2, 3]⟩
       takenAs (arrived m 1 k) 1 (fun k => k.typ == 2 && k.dst == m.selfModule && m.lw.map.isSome) k = true)
    ∧ (let s := lwQueued m (remoteWrite 2)
       s.lwQueue 0 = some 20020 ∧ s.startable 20020 = some (9, remoteWrite 2) ∧ s.rwOk 0 (remoteWrite 2) = false)
    ∧ dbits (remoteWrite 0) 192 24 = 0
    ∧ (let s := lwQueued (own m 5 3) (remoteWrite 1)
       s.startable 20020 = some (9, remoteWrite 1) ∧ s.rwOk 0 (remoteWrite 1) = true ∧ (rwRun 0 (remoteWrite 1)).isSome = true
       ∧ ∀ x < 4, s.bankServes 5 x 3 0 (.desc 20020 9) = true)
    ∧ (let d := fields 64 [(0, slowBase), (116, 0), (192, 1)]
       (lwQueued m d).rwOk 0 d = true ∧ (rwRun 0 d).isNone = true ∧ m.memRuns (dbits d 0 52) (dbits d 192 24) = true)
    ∧ (let s := (lwQueued m []).modQueue 20020 fun c => { c with taken := [], running := [(9, remoteWrite 1)] }
       (s.queue 20020).running.find? (fun e => e.1 == (9#32).toNat) = some (9, remoteWrite 1) ∧ (∀ p < 32, (s.port p).tx = [])
       ∧ counterField (remoteWrite 1) 238 216 = some 5) := by
  dsimp only; and_intros <;> decide +kernel

/-- A control packet: challenge, response, MAP_ID, tokens. -/
def ctlPkt (sub : Nat) (pl : List Byte) : Packet := ⟨5, 0, 0, 2, sub, pl⟩
def token (kind attempt hops : Nat) : Packet := ctlPkt 3 ([BitVec.ofNat 8 kind, 0] ++ leBytes 2 0 ++ leBytes 4 attempt ++ leBytes 4 hops)

/-- (Whether a response verifies is an opaque function of its bytes, so those two clauses hold for either outcome.) -/
theorem witness_PeersAreVerifiedAndTokensFormTheRings :
    (∀ f ∈ [0, 1], let k := ctlPkt 1 (List.replicate 36 0 ++ [BitVec.ofNat 8 f, 0, 0, 0] ++ List.replicate 32 5)
      let s := arrived (portAt 1 3 fun q => { q with answered := true }) 4 k
      s.lwTalks 1 = true ∧ takenAs s 4 (fun k => k.bits 64 8 == 1) k = true ∧ leNat (cut k.payload 36 1) = f ∧ s.lwState 1 = 3
      ∧ s.lw.map = none ∧ (s.port 1).answered = true ∧ s.lwState 1 ≠ 6)
    ∧ (let s := (portAt 1 6 id).setLw 1 Fld.LW_STATUS_QCAUSE 1
       s.lwState 1 = 6 ∧ s.lwCause 1 = 1)
    ∧ (let k := ctlPkt 2 (leBytes 2 5 ++ [0, 1, 0])
       let s := arrived (portAt 1 4 id) 4 k
       s.lwUp 1 = true ∧ takenAs s 4 (fun k => k.bits 64 8 == 2) k = true ∧ s.lw.map = none
       ∧ takenAs (arrived (mapped 0 false LwLevel.reset) 4 k) 4 (fun k => k.bits 64 8 == 2) k = true ∧ State.mapRole (ringMap 0) 1 = 2
       ∧ State.mapPeer (ringMap 0) 1 = 5 ∧ State.mapPeerPort (ringMap 0) 1 = 0 ∧ State.mapLevel (ringMap 0) 1 = 0)
    ∧ ((mapped 0 false LwLevel.reset).lw.map = some (ringMap 0) ∧ (mapped 0 false LwLevel.reset).lw.checked = false
      ∧ ((upFrom 0 32).filter fun p => State.mapRole (ringMap 0) p != 0 && !((mapped 0 false LwLevel.reset).lwUp p
          && ((mapped 0 false LwLevel.reset).port p).matched)) = [] ∧ (mapped 0 false LwLevel.reset).lw.mapAt + 10000000000 ≤ 2 * 10 ^ 10)
    ∧ ((mapped 0 true LwLevel.reset).lwUp 0 = true ∧ ((mapped 0 true LwLevel.reset).port 0).matched = true ∧ State.mapRole (ringMap 0) 0 = 1)
    ∧ (let s := mapped 2 true { LwLevel.reset with valid := true }
       (s.port 1).failed = none ∧ s.upstreamLink (ringMap 2) 1 = true)
    ∧ (let s := { mapped 0 false LwLevel.reset with lw.mapAt := 10 ^ 10 }.setLw 0 Fld.LW_STATUS_STATE 6
       s.lw.mapAt + 10000000000 ≤ s.time ∧ s.lwUp 0 = false ∧ State.mapRole (ringMap 0) 0 ≠ 0)
    ∧ (let s := mapped 2 true { LwLevel.reset with valid := true }
       s.upstream = some 1 ∧ s.lwUp 1 = true ∧ (s.port 1).matched = true ∧ (0x01#8).getLsbD 0 = true ∧ (mapped 2 true LwLevel.reset).upstream = none
       ∧ s.lw.stepped = false ∧ ({ s with lw.stepped := true } : State).lw.stepped = true)
    ∧ (let s := mapped 0 true LwLevel.reset
       s.forming 0 = true ∧ State.position (ringMap 0) 0 0 = 0 ∧ (s.lwLevel 0).held = none ∧ (s.lwLevel 0).sentAt = none ∧ s.levelReady 0 = true)
    ∧ (let s := mapped 2 true { LwLevel.reset with held := some (1, 1, 1, 0) }
       s.forming 0 = true ∧ (s.lwLevel 0).held ≠ none ∧ s.levelReady 0 = true ∧ State.position (ringMap 2) 2 0 = 1)
    ∧ (let s := arrived (mapped 0 true { LwLevel.reset with attempt := 4, sentAt := some 7 }) 4 (token 1 4 3)
       takenAs s 4 (fun k => k.bits 64 8 == 3) (token 1 4 3) = true ∧ s.forming 0 = true ∧ (s.lwLevel 0).attempt = 4 ∧ (ringMap 0).n.getD 0 1 = 3
       ∧ (s.lwLevel 0).sentAt = some 7 ∧ (s.lwLevel 0).held = none ∧ (s.lwLevel 0).passed = false ∧ 7 + 1000000000 ≤ s.time)
    ∧ (let s := arrived (mapped 2 false LwLevel.reset) 4 (token 1 4 1)
       takenAs s 4 (fun k => k.bits 64 8 == 3) (token 1 4 1) = true ∧ s.forming 0 = true ∧ s.levelReady 0 = false)
    ∧ takenAs (arrived (mapped 2 true LwLevel.reset) 4 (token 2 4 1)) 4 (fun k => k.bits 64 8 == 3) (token 2 4 1) = true
    ∧ (let s := mapped 2 true { LwLevel.reset with readyAt := some (10 ^ 10) }
       s.forming 0 = true ∧ (s.lwLevel 0).readyAt = some (10 ^ 10) ∧ 10 ^ 10 + 10000000000 ≤ s.time) := by decide +kernel

/-- Standalone ready, with an accepted command in mailbox 3. -/
def booted (s : State) : State := s.setF (bFn 6) Fld.BOOT_STATUS_STAGE 6
def mailed (op : Nat) (payload : List Byte) (phase : Nat) (s : State) : State :=
  let s := (booted s).modMb 3 fun b => { b with opcode := op, length := payload.length, seq := 77, state := 1, payload := Memory.writeBytes [] 0 payload }
  { s with job.accepted := [3], job.phase := phase, pwr.cc := 0 }
def bindSpec (q log base : Nat) : List Byte := leBytes 16 (q + log * 2 ^ 18 + 4 * 2 ^ 32 + 5 * 2 ^ 36 + base * 2 ^ 64)

theorem witness_MailboxCommandsAreRunAndAnswered :
    (State.reset.barsDecode = false ∧ (hosted State.reset).barsDecode = true)
    ∧ ((State.reset.mb 3).state ≠ 1 ∧ ((mailed 1 [] 0 State.reset).mb 3).state = 1)
    ∧ (let s := { mailed 1 [] 0 State.reset with job.answers := [(3, some (2, [1, 2, 3]))] }
       (s.mb 3).state = 1 ∧ s.answered 3 2 [1, 2, 3])
    ∧ (∀ e ∈ [(0x02, [0]), (0x10, [0]), (0x20, [0]), (0x22, [2]), (0x23, [1, 2]), (0x24, [1]), (0x52, [1]), (0x53, [1])],
        let ph := if e.2.contains 0 then 2 else 0
        let s := mailed e.1 [] ph State.reset
        s.kciTakes 3 e.1 = true ∧ 6 ≤ s.stage ∧ s.job.busy = none ∧ s.job.phase ∉ e.2)
    ∧ (∀ ph ∈ [0, 1, 2], (mailed 0x01 [] ph State.reset).takes 3 0x01 [0, 1, 2])
    ∧ (∀ a ∈ [0x5000, 0x5001], (mailed 0x02 (leBytes 8 a ++ leBytes 4 256) 0 State.reset).takes 3 0x02 [0]
      ∧ (mailed 0x02 (leBytes 8 a ++ leBytes 4 256) 0 State.reset).req 3 0 8 = a)
    ∧ (let s := mailed 0x30 (bindSpec 262143 4 0x8000) 2 State.reset
       let u := mailed 0x30 (bindSpec 68 4 0x8001) 0 (State.reset.modQueue 68 fun c => { c with prod := 1 })
       (s.takes 3 0x30 [0, 1, 2] ∧ s.queueEmpty 262143 = true ∧ (s.queue 262143).job = false ∧ 0x8000 % 4096 = 0 ∧ s.mapped 0x8000 (64 * 2 ^ 4) = true)
       ∧ u.takes 3 0x30 [0, 1, 2] ∧ u.queueEmpty 68 = false ∧ 0x8001 % 4096 ≠ 0)
    ∧ (∀ c ∈ [2818047, 2818048], let s := mailed 0x40 (leBytes 16 (c + 7 * 2 ^ 32)) 0 State.reset
       s.takes 3 0x40 [0, 1, 2] ∧ s.reqCount 3 0 16 252 = 1 ∧ counterOk (bitsOf (s.req 3 0 16) 0 22) = decide (c = 2818047))
    ∧ (let s := mailed 0x41 (leBytes 4 2818047 ++ leBytes 4 1 ++ leBytes 4 3000 ++ leBytes 8 0x1234) 0 State.reset
       s.takes 3 0x41 [0, 1, 2] ∧ counterOk (s.req 3 0 4) = true ∧ (s.sync.waits ++ s.sync.retry).length < 1920
       ∧ (s.counterOf 2818047).abandoned = false ∧ (s.counterOf 2818047).value < s.req 3 4 4 ∧ s.waitRoom (syncMemOf 2818047) = true)
    ∧ (let s := mailed 0x50 (leBytes 4 20 ++ leBytes 4 63 ++ leBytes 16 77) 0 State.reset
       s.takes 3 0x50 [0, 1, 2] ∧ 0 < clampTo 0 (64 - 63) (s.reqCount 3 8 16 64))
    ∧ (let s := mailed 0x51 (leBytes 4 99 ++ leBytes 4 4095 ++ List.replicate 128 255) 0 State.reset
       s.takes 3 0x51 [0, 1, 2] ∧ 0 < clampTo 0 (4096 - 4095) (s.reqCount 3 8 64 62))
    ∧ (let s := mailed 0x60 (leBytes 8 (regBase + 4)) 0 State.reset
       s.req 3 0 8 = regBase + 4 ∧ blockAt (4 / 2 ^ 40) (4 % 2 ^ 40 / 2 ^ 16) = true ∧ s.regHeld 4 = false ∧ s.takes 3 0x60 [0, 1, 2] ∧ s.reqCount 3 0 8 504 = 1)
    ∧ (let s := mailed 0x61 (leBytes 8 (regBase + 8) ++ leBytes 8 7) 2 State.reset
       s.req 3 0 8 = regBase + 8 ∧ s.regHeld 8 = false ∧ s.takes 3 0x61 [0, 1, 2] ∧ s.reqCount 3 0 16 252 = 1 ∧ denied 8 = false)
    ∧ (let off := 9 * 2 ^ 40 + 6 * 2 ^ 16
       let s := mailed 0x61 (leBytes 8 (regBase + off) ++ leBytes 8 7) 0 State.reset
       s.req 3 0 8 = regBase + off ∧ blockAt (off / 2 ^ 40) (off % 2 ^ 40 / 2 ^ 16) = true ∧ s.regHeld off = false ∧ s.takes 3 0x61 [0, 1, 2]
       ∧ s.reqCount 3 0 16 252 = 1 ∧ denied off = true)
    ∧ (∀ op ∈ [0xA1, 0xA2], let s := mailed op (leBytes 4 12234 ++ leBytes 4 9 ++ leBytes 4 1) 0 State.reset
       s.takes 3 op [0, 1, 2] ∧ s.banksHeld 3 0 = false ∧ s.banksHeld 3 1 = false ∧ s.req 3 0 4 = 12234 ∧ 12234 < 12234 + clampTo 0 (12235 - 12234) (s.req 3 4 4))
    ∧ (let s := mailed 0xA0 (leBytes 4 3 ++ leBytes 4 99) 0 State.reset
       s.takes 3 0xA0 [0, 1, 2] ∧ s.snap.state < 2 ∧ ({ s with snap.state := 2 } : State).takes 3 0xA0 [0, 1, 2])
    ∧ (State.reset.controls .control = true ∧ State.reset.controls .host = false ∧ State.reset.blkHeld (bDie 3) = false
      ∧ (inHold State.reset 687).blkHeld (bDie 3) = true) := by
  unfold State.takes State.answered; dsimp only; and_intros <;> decide +kernel

/-- The payload of JOB_OPEN for one level, no claims and the queues of exop. -/
def openBytes (ring first : Nat) (exq : Nat) : List Byte :=
  leBytes 8 0x1234567 ++ leBytes 4 first ++ leBytes 4 1 ++ leBytes 8 0x123456 ++ leBytes 8 ring ++ leBytes 8 0x700000 ++ leBytes 8 0x80000
    ++ leBytes 8 0x310000 ++ leBytes 4 0 ++ leBytes 4 5 ++ leBytes 4 exq ++ leBytes 2 0 ++ leBytes 2 0
    ++ [0x02A10, 0x12A10, 0x22A10, 0x32A10].flatMap (leBytes 4) ++ ([0x12A11] ++ List.replicate 17 0xFFFFFFFF).flatMap (leBytes 4) ++ leBytes 4 7
/-- A module alone in its ring, with empty memory and six bound queues. -/
def podOfOne : State :=
  let s := [0x02A10, 0x12A10, 0x22A10, 0x32A10, 0x02A11, 0x12A11].foldl (fun s q => s.modQueue q fun c => { c with log2 := 4, base := 0x40000 }) State.reset
  { s with lw.map := some { ringMap 0 with n := [1, 1, 1] }, lw.levels := [(0, { LwLevel.reset with valid := true })] }

def opening : State := mailed 0x20 (openBytes 0x300000 5 0x2A11) 0 podOfOne

theorem witness_JobsOpenRunAndClose_opens : opening.takes 3 0x20 [0] ∧ (let s := opening
    let p := (s.openPayload 3).1
    let n (lo w : Nat) : Nat := leNat (cut p lo w)
    let rings := s.ringTable (n 0x18 8) ((upFrom 0 (n 0x0C 4 % 8)).map fun l => ((s.lw.map.map LwMap.n).getD []).getD l 1)
    let claims := (upFrom 0 (n 0x38 4)).map fun k => s.devNat (n 0x30 8 + 8 * k) 8
    s.openRefusal p rings claims = none) := by
  have h (a n : Nat) : opening.devBytes a n = List.replicate n 0 := devBytes_empty (by decide +kernel) (by decide +kernel) a n
  refine ⟨by unfold State.takes; decide +kernel, ?_⟩
  dsimp only
  unfold State.openRefusal
  simp only [h]
  decide +kernel

theorem witness_JobsOpenRunAndClose :
    ((mailed 0x10 (leBytes 8 0x300004) 0 State.reset).takes 3 0x10 [0] ∧ (mailed 0x10 (leBytes 8 0x300004) 0 State.reset).req 3 0 8 % 64 ≠ 0)
    ∧ ((mailed 0x10 (leBytes 8 slowBase) 0 State.reset).takes 3 0x10 [0] ∧ slowBase % 64 = 0 ∧ State.reset.inTiers slowBase mapBytes = true)
    ∧ (let s := mailed 0x20 (openBytes 0x300004 5 0x2A11) 0 podOfOne
       let p := (s.openPayload 3).1
       s.takes 3 0x20 [0] ∧ s.openRefusal p [] [] = some 4)
    ∧ ((mailed 0x21 [] 1 State.reset).takes 3 0x21 [1]
      ∧ (let s := { mailed 0x21 [] 1 State.reset with job.busy := some 3 }
         s.job.busy = some 3 ∧ (s.mb 3).opcode = 0x21 ∧ s.allHeld = true))
    ∧ (mailed 0x22 [] 2 State.reset).takes 3 0x22 [2]
    ∧ (∀ ph ∈ [1, 2], (mailed 0x23 (leBytes 4 1) ph State.reset).takes 3 0x23 [1, 2] ∧ ((mailed 0x23 (leBytes 4 1) ph State.reset).req 3 0 4).testBit 0 = true)
    ∧ ((mailed 0x23 (leBytes 4 2) 1 State.reset).takes 3 0x23 [1, 2] ∧ ((mailed 0x23 (leBytes 4 2) 1 State.reset).req 3 0 4).testBit 1 = true)
    ∧ (∀ e ∈ [(3, true), (5, false), (6, false)], let s := mailed 0x24 (leBytes 8 99 ++ leBytes 4 e.1) 1 (State.reset.setF bHub Fld.FR_SEAL_LOCAL 4)
       s.takes 3 0x24 [1] ∧ seqBefore (BitVec.ofNat 32 (s.req 3 8 4) - 1) (BitVec.ofNat 32 (s.getF bHub Fld.FR_SEAL_LOCAL)) = e.2
       ∧ (BitVec.ofNat 32 (s.req 3 8 4) - 1 = BitVec.ofNat 32 (s.getF bHub Fld.FR_SEAL_LOCAL) ↔ e.1 = 5))
    ∧ (let s := mailed 0x25 (leBytes 8 0x300000) 1 (podOfOne.setF bHub Fld.FR_STATUS_LEVELS 1)
       s.takes 3 0x25 [1, 2] ∧ s.req 3 0 8 = 0x300000 ∧ s.inTiers 0x300000 8 = true
       ∧ s.reformOk (s.ringTable 0x300000 [1]) = true)
    ∧ (let s := mailed 0x25 (leBytes 8 0x300000) 2 (State.reset.setF bHub Fld.FR_STATUS_LEVELS 1)
       s.takes 3 0x25 [1, 2] ∧ s.inTiers 0x300000 8 = true ∧ s.reformOk (s.ringTable 0x300000 [1]) = false)
    ∧ (mailed 0x25 (leBytes 8 0x300004) 2 State.reset).takes 3 0x25 [1, 2]
    ∧ (let s := mailed 0x52 (leBytes 4 11 ++ leBytes 16 0x40000) 1 State.reset
       s.takes 3 0x52 [1] ∧ (s.reflEntries 3 = [(0x40000, 0, 0)]) ∧ s.tableNamed 0x40000 = true ∧ s.tableNamed 0x40004 = false ∧ s.ownerOf (s.tableAt 0x40000) 0 < 12
       ∧ (s.embReg 11).dir.length + s.reflWaiting 11 + 1 ≤ 16384)
    ∧ (mailed 0x53 (leBytes 4 99 ++ leBytes 16 0x40000) 1 State.reset).takes 3 0x53 [1] := by
  unfold State.takes; dsimp only; and_intros <;> decide +kernel

/-- A topology map of one module, in the slow tier. -/
def mapHead : List Byte := fields 328 [(0, 1), (32, 1), (64, 1), (96, 1), (128, 1), (8 * 0x140 + 48, 3)]
def mapMem : Memory := [(slowBase, 1), (slowBase + 4, 1), (slowBase + 8, 1), (slowBase + 12, 1), (slowBase + 16, 1), (slowBase + 0x146, 3)]

theorem mapMem_bytes : Memory.readBytes mapMem slowBase mapBytes = mapHead ++ List.replicate (mapBytes - 328) 0 := by
  have z (k n : Nat) (h : slowBase + 328 ≤ k) : Memory.readBytes mapMem k n = List.replicate n 0 := by
    induction n generalizing k with
    | zero => rfl
    | succ n ih =>
      rw [Memory.readBytes, ih _ (by omega), Memory.read_above _ _ (by
        intro e he
        have : e.1 < slowBase + 328 := by revert e; decide
        omega)]
      rfl
  have s (a : Nat) : ∀ n k, Memory.readBytes mapMem a (n + k) = Memory.readBytes mapMem a n ++ Memory.readBytes mapMem (a + n) k := by
    intro n
    induction n generalizing a with
    | zero => intro k; simp [Memory.readBytes]
    | succ n ih => intro k; rw [show n + 1 + k = n + k + 1 by omega, Memory.readBytes, ih, Memory.readBytes, List.cons_append, show a + 1 + n = a + (n + 1) by omega]
  rw [show Memory.readBytes mapMem slowBase mapBytes = Memory.readBytes mapMem slowBase (328 + (mapBytes - 328)) from rfl, s,
    z _ _ (Nat.le_refl _), show Memory.readBytes mapMem slowBase 328 = mapHead by decide +kernel]

theorem mapOf_head : mapOf mapHead = ⟨0, 1, 0, [1, 1, 1], List.replicate 32 0, [(0, 3 * 2 ^ 48)]⟩ := by
  have p : (mapOf mapHead).pos = [(0, 3 * 2 ^ 48)] := by
    rw [mapOf_pos (by decide +kernel)]; decide +kernel
  have q : ((mapOf mapHead).module, (mapOf mapHead).levels, (mapOf mapHead).gm, (mapOf mapHead).n, (mapOf mapHead).ports)
      = (0, 1, 0, [1, 1, 1], List.replicate 32 0) := by decide +kernel
  simp only [Prod.mk.injEq] at q
  obtain ⟨a, b, c, d, e⟩ := q
  revert p a b c d e
  cases mapOf mapHead
  intros; simp_all

theorem mapHead_ok : mapOk mapHead = true := by
  unfold mapOk
  rw [mapOf_head]
  decide +kernel

theorem witness_JobsOpenRunAndClose_maps :
    (let s := mailed 0x10 (leBytes 8 slowBase) 0 { State.reset with mem.dev := mapMem }
     s.takes 3 0x10 [0] ∧ s.req 3 0 8 = slowBase ∧ mapOk (s.devBytes (s.req 3 0 8) mapBytes) = true)
    ∧ (let s := mailed 0x10 (leBytes 8 slowBase) 0 State.reset
       mapOk (s.devBytes (s.req 3 0 8) mapBytes) = false) := by
  have r : (mailed 0x10 (leBytes 8 slowBase) 0 { State.reset with mem.dev := mapMem }).req 3 0 8 = slowBase := by decide +kernel
  refine ⟨⟨by unfold State.takes; decide +kernel, r, ?_⟩, ?_⟩
  · rw [r, slow_devBytes (by decide +kernel) (by decide +kernel) (by decide +kernel) _ _ (Nat.le_refl _) (by decide)]
    rw [show (mailed 0x10 (leBytes 8 slowBase) 0 { State.reset with mem.dev := mapMem }).mem.dev = mapMem by decide +kernel, mapMem_bytes, mapOk_zeros,
      mapHead_ok]
  · dsimp only
    rw [devBytes_empty (by decide +kernel) (by decide +kernel)]
    rw [show List.replicate mapBytes (0 : Byte) = [] ++ List.replicate mapBytes 0 from rfl, mapOk_zeros]
    have h : (leNat (cut [] 0 2) == 1) = false := by decide
    unfold mapOk
    simp [h]

/-- A table of two shards whose rows are another module's. -/
theorem witness_JobsOpenRunAndClose_refusesReflections :
    (let s := (mailed 0x52 (leBytes 4 11 ++ leBytes 16 (slowBase + 2 ^ 80)) 1 State.reset)
     let s := s.setDevBytes slowBase (tableBytes.set 92 2 |>.set 94 0)
     s.takes 3 0x52 [1] ∧ (∀ e ∈ s.reflEntries 3, s.tableNamed e.1 = true)
       ∧ ∃ e ∈ s.reflEntries 3, 12 ≤ s.ownerOf (s.tableAt e.1) e.2.2)
    ∧ (let s := { mailed 0x52 (leBytes 4 0 ++ leBytes 16 slowBase) 1 State.reset with
         emb := [(0, { EmbRegion.reset with dir := List.replicate 16384 (0, ⟨0, 0, 0, 0, []⟩) })] }
       s.takes 3 0x52 [1] ∧ (∀ e ∈ s.reflEntries 3, s.tableNamed e.1 = true ∧ s.ownerOf (s.tableAt e.1) e.2.2 < 12)
       ∧ ¬ (s.embReg 0).dir.length + s.reflWaiting 0 + (s.reflEntries 3).length ≤ 16384) := by
  unfold State.takes; dsimp only; and_intros <;> decide +kernel

/-- Interrupt source 5 (edge) and 8 (level), enabled for core 2, at time 10 ms. -/
def sources (f : State → State) : State :=
  let b := bFn 2
  let src (n prio : Nat) (lvl : Bool) (s : State) : State :=
    (((s.setF b Fld.IC_SRC_PRIO prio n).setF b Fld.IC_SRC_TARGET 2 n).setFlag b Fld.IC_SRC_LEVEL lvl n).setFlag b Fld.IC_SRC_EN true n
  f { src 5 10 false (src 8 14 true (booted State.reset)) with time := 10000000 }
def act (l : List (State → Host.Outcome State Fault Refusal)) (s : State) : State :=
  l.foldl (fun s f => match f s with
    | .next t => t
    | _ => s) s

/-- Thread 1 READY and thread 2 RUNNING on core 2, threads 3 DELAYED, 4 BLOCKED on counter 7, 5 SUSPENDED from READY. -/
def threads : State :=
  act [execTsCreate 2 2 3 2, execThreadSwitch 2, execTsCreate 2 1 5 2, execTsCreate 7 3 31 7, execThreadSwitch 7, execTsDelay 7 3 2000000,
    execTsCreate 7 4 31 7, execThreadSwitch 7, execTsBlock 7 4 (BitVec.ofNat 64 (7 + 3 * 2 ^ 22)) 0, execTsCreate 1 5 2 1, execTsSuspend 1 5]
    { booted State.reset with time := 1234567 }

theorem witness_SchedulerCommandsMoveThreads :
    threads.tsStatus 2 0 [0] = 0 ∧ threads.tsStatus 2 2 [1, 2, 3, 4, 5] = 0 ∧ threads.tsStatus 2 2 [1, 2] = 0 ∧ threads.tsStatus 2 2 [2] = 0
    ∧ (threads.counterOf 2818047).abandoned = false ∧ (threads.counterOf 2818047).value < 3 ∧ threads.waitRoom (syncMemOf 2818047) = true
    ∧ bitsOf (BitVec.ofNat 64 (2818047 + 3 * 2 ^ 22)).toNat 0 22 = 2818047 ∧ 2818047 < bitsOf (BitVec.ofNat 64 (2818048 + 3 * 2 ^ 22)).toNat 0 22
    ∧ (∀ t ∈ [3, 4], threads.tsStatus 7 t [3, 4] = 0) ∧ threads.tstate 1 ≠ 5 ∧ threads.tsStatus 1 5 [5] = 0 ∧ (threads.sthr 5).left < 8
    ∧ threads.tsStatus 2 1 [3, 4] ≠ 0
    ∧ (let s := { threads with time := 2000000 }
       s.time % s.tickNs = 0 ∧ s.sched.last ≠ some s.time ∧ (∀ e ∈ s.sched.thr, e.1 < 256) ∧ s.tstate 3 = 3
       ∧ ∃ e ∈ s.sched.thr, e.1 = 3 ∧ ∃ w ∈ e.2.wake, w ≤ s.time)
    ∧ (threads.nextThread 2 = some 1 ∧ threads.coreFree 2 = true
      ∧ threads.runningOn 2 = some 2 ∧ threads.tprio 2 < threads.tprio 1)
    ∧ (let s := act [execTsCreate 9 7 1 9] threads
       s.nextThread 9 = some 7 ∧ s.coreFree 9 = true ∧ s.runningOn 9 = none) := by
  dsimp only; and_intros <;> decide +kernel

theorem witness_SchedulerCommandsMoveThreads_waits :
      (let s := { act [execTsSuspend 2 2] threads with sched.ready := [] }
       s.tsStatus 2 2 [5] = 0 ∧ (s.sthr 2).left = 2 ∧ s.runningOn 2 = none ∧ s.coreFree 2 = true ∧ s.thome 2 = 2)
    ∧ (let b := bFn 2
       let s := (((threads.setF b Fld.IC_SRC_PRIO 9 8).setF b Fld.IC_SRC_TARGET 2 8).setFlag b Fld.IC_SRC_EN true 8).setReg (bFn 3) .PL_WAKE 31
         (0 + 6 * 2 ^ 12 + 2 ^ 15)
       let s := { act [execIrqAssert 8 true] s with pwr.waking := some 31 }
       s.wakePending = true)
    ∧ (let s := { threads with sync.released := [(.control 4 3, 99)] }
       (s.sync.released.find? (fun r => match r.1 with
          | .control j _ => j == 4
          | _ => false) = some (.control 4 3, 99)) ∧ s.tstate 4 = 4)
    ∧ ((act [execTsSuspend 7 4] threads).tstate 4 = 5 ∧ ((act [execTsSuspend 7 4] threads).sthr 4).left = 4) := by
  dsimp only; and_intros <;> decide +kernel

theorem witness_SchedulerCommandsMoveThreads_hangs :
      (let s := { threads with time := 200000000, kci := [(3, { Mailbox.reset with state := 1 })] }
       s.hung 2 = true ∧ (∀ k < 16, s.getF (bFn 0) Fld.CC_CORE_PHYS k ≠ 16) ∧ (s.mb 3).state = 1)
    ∧ (let s := { threads.setF (bFn 0) Fld.CC_CORE_PHYS 16 3 with time := 200000000 }
       s.hung 2 = true ∧ ∃ k < 16, s.getF (bFn 0) Fld.CC_CORE_PHYS k = 16)
    ∧ (({ threads with rot.ext := some [7] } : State).rot.ext ≠ none ∧ (1 : Fin 3) ≠ 2)
    ∧ (let s := { act [execTsCreate 15 255 1 15, execThreadSwitch 15] { threads with rot.ext := some [7] } with time := 20000000 }
       224 ≤ 255 ∧ s.tstate 255 = 2 ∧ (s.sthr 255).since + 10000000 ≤ s.time + (s.sthr 255).ran ∧ s.rot.ext ≠ none) := by
  dsimp only; and_intros <;> decide +kernel

theorem witness_InterruptsArePendedDeliveredAndEnded :
    let s1 := sources (act [execIrqAssert 5 true, execIrqAssert 8 true])
    let s2 := act [execIcClaim 2] s1
    let b := bFn 2
    (sourceOk 5 = true ∧ (sources id).flag b Fld.IC_SRC_LEVEL 5 = false ∧ sourceOk 3215 = true)
    ∧ (sourceOk 8 = true ∧ (sources id).flag b Fld.IC_SRC_LEVEL 8 = true)
    ∧ ((sources id).levelHigh 8 = false ∧ (sources id).flag b Fld.IC_SRC_ACTIVE 8 = false)
    ∧ (s1.bestSource 2 = some 8 ∧ (sources id).bestSource 2 = none)
    ∧ ((s2.stackOf 2) = (8, 14) :: [] ∧ s2.flag b Fld.IC_SRC_LEVEL 8 = true ∧ s2.levelHigh 8 = true ∧ ∀ e ∈ s2.stackOf 2, e.1 ≠ 5)
    ∧ s1.time % (s1.getF b Fld.IC_CTRL_STORM_WIN_US * 1000) = 0
    ∧ (let s := { s1 with time := 20000000000 }
       Tbl.get (fun _ => none) s.ev.intr.levels 8 = some 10000000 ∧ s.flag b Fld.IC_SRC_STUCK 8 = false
       ∧ s.getF b Fld.IC_CTRL_STUCK_US * 1000 < s.time - 10000000)
    ∧ (softSource 3519 = true ∧ (3456 ≤ 3519 ∧ 3519 < 3520) ∧ softSource 3520 = false ∧ s1.rot.ext = none ∧ extSource 5 = false)
    ∧ (let s := { s1.setReg (bFn 3) .PL_WAKE 31 (0 + 6 * 2 ^ 12 + 2 ^ 15) with pwr.cc := 1 }
       s.pwr.cc = 1 ∧ s.wakeCovers 31 = true ∧ s.wakeCovers 0 = false) := by decide +kernel

/-- The host link decoding at address 2^30 × 2^14: one failed granule, a pending masked vector, PTM begun. -/
def linked : State :=
  let s := (booted State.reset).setF (bFn 4) Fld.HL_STATUS_SPEED 4
  { s with time := 123456789, hl.ready := true, hl.asked := true, rot.cleared := true, ev.pba := [(7, true)], ev.msix := [(7, ⟨0xFEE00000, 5, true⟩)] }

theorem witness_HostLinkAccessesAndEventsTakeEffect :
    (linked.flag (bFn 4) Fld.HL_STATUS_PERST = false ∧ linked.getF (bFn 4) Fld.HL_STATUS_SPEED ≠ 0)
    ∧ (let s := { (sources (act [execIrqAssert 8 true])).setReg (bFn 3) .PL_WAKE 4 (6 * 2 ^ 12 + 2 ^ 15) with hl.d3hot := true, hl.pmeEn := true }
       (hosted s).hostUp = true ∧ (hosted s).hl.d3hot = true ∧ s.hl.pmeEn = true ∧ s.hl.wake = false ∧ (hosted s).wakeCovers 4 = true)
    ∧ (linked.hostUp = true ∧ linked.hl.ready = true ∧ State.reset.hostUp = false ∧ linked.hl.ptmOn = true)
    ∧ (∀ w ∈ [Writer.control, .ext], ({ linked with rot.ext := some [7] } : State).controls w = true)
    ∧ (let s := linked.setF (bFn 4) Fld.HL_BAR2_BASE (slowBase / 2 ^ 30)
       s.barsDecode = true ∧ ([1, 2] : List Byte) ≠ [] ∧ 0x3FFFFFFE + 2 ≤ 2 ^ s.hl.bar2 ∧ State.inSlow (s.bar2Addr 0x3FFFFFFE) 2 = true
       ∧ s.inTiers (s.bar2Addr 0x3FFFFFFE) 2 = true ∧ s.badIn (s.bar2Addr 0x3FFFFFFE) 2 = [] ∧ s.memRuns (s.bar2Addr 0x3FFFFFFE) 2 = true
       ∧ s.rot.cleared = true)
    ∧ (let s := inHold { linked with rot.cleared := false } 676
       s.barsDecode = true ∧ s.bar2Addr 0x28000 = 0x28000 ∧ s.memRuns 0x28000 2 = false ∧ s.inTiers 0x3000 2 = true
       ∧ s.memRuns 0x3000 2 = true ∧ s.rot.cleared = false)
    ∧ (let s := linked.setF (bFn 4) Fld.HL_BAR2_BASE (hostBase / 2 ^ 30)
       s.barsDecode = true ∧ 64 + 4096 ≤ 2 ^ s.hl.bar2 ∧ (4096 : BitVec 13) ≠ 0 ∧ s.inTiers (s.bar2Addr 64) 4096 = false
       ∧ s.memRuns (s.bar2Addr 64) 4096 = true)
    ∧ (Tbl.get (fun _ => false) linked.ev.pba 7 = true ∧ (linked.msixEntry 7).masked = true)
    ∧ (linked.hl.asked = true ∧ -(2 ^ 31) ≤ (BitVec.ofInt 72 (-(2 ^ 31))).toInt ∧ (BitVec.ofInt 72 (2 ^ 31 - 1)).toInt < 2 ^ 31
      ∧ linked.locked = false ∧ linked.hl.stepped = false ∧ (linked.setFlag bHub Fld.LW_TIME_LOCKED true).locked = true)
    ∧ ((0x01000000 + 64 * 262143) % 8 = 0 ∧ (BitVec.ofNat 28 (0x01000000 + 64 * 262143)).toNat = 0x01000000 + 64 * 262143
      ∧ (leBytes 8 5).length = 8 ∧ (leBytes 64 5).length = 64)
    ∧ (linked.alwaysOn = true ∧ ({ linked with pwr.tripped := true } : State).alwaysOn = true) := by
  dsimp only; and_intros <;> decide +kernel

/-- An entry of ISLAND_SET: kind, index and state. -/
def islandBytes (kind idx st : Nat) : List Byte := leBytes 8 (kind + idx * 8 + st * 2 ^ 13)
def commanded (op : Nat) (pl : List Byte) : State := act [if op = 0x72 then execIslandSet 3 else execDeviceState 3] (mailed op pl 0 State.reset)

theorem witness_IslandsDevicesAndRailsChangeState :
    (∀ e ∈ [(islandBytes 0 671 2, false), (islandBytes 0 672 1, true)], let s := mailed 0x72 e.1 0 State.reset
      s.takes 3 0x72 [0, 1, 2] ∧ s.reqCount 3 0 8 250 = 1 ∧ (State.islEntry (s.req 3 0 8)).2.2.2 = e.2)
    ∧ (let s := mailed 0x72 (islandBytes 0 5 2) 1 State.reset
       s.takes 3 0x72 [0, 1, 2] ∧ s.islRefused [(5, 2)] = true ∧ State.islEntry (s.req 3 0 8) = (5, 2, 0, false))
    ∧ (let s := mailed 0x72 (islandBytes 0 5 2) 0 State.reset
       s.islRefused [(5, 2)] = false)
    ∧ (let s := { mailed 0x72 (islandBytes 0 5 1) 0 State.reset with pwr.dark := [5] }
       s.takes 3 0x72 [0, 1, 2] ∧ s.reqCount 3 0 8 250 = 1 ∧ State.islEntry (s.req 3 0 8) = (5, 1, 0, false) ∧ s.railShut 5 = true)
    ∧ (∀ st ∈ [1, 2], let s := (act [execIslandStateChange 17] (commanded 0x72 (islandBytes 0 17 st))).modIsl 17 fun v => { v with goal := some 0 }
       (s.isl 17).goal = some 0 ∧ s.islState 17 = st ∧ (s.isl 17).rising = false)
    ∧ (let s := (State.reset.modIsl 17 fun v => { v with goal := some 0, rising := true })
       (s.isl 17).goal = some 0 ∧ s.islState 17 ≠ 2 ∧ s.filling 17 = false)
    ∧ (let s := act [execIslandStateChange 17] (commanded 0x72 (islandBytes 0 17 1))
       s.kciBegun 3 0x72 = true ∧ ∀ e ∈ s.islEntries 3, s.settled (State.islEntry e).1 = true)
    ∧ (let s := commanded 0x72 (islandBytes 0 17 1)
       (s.isl 17).goal = some 1 ∧ s.islState 17 = 0 ∧ s.islandQuiet 17 = true
       ∧ (withOps s 272 [anOp 1 (.st 0 8 0)]).islandQuiet 17 = false)
    ∧ (((commanded 0x72 (islandBytes 3 0 1)).isl 689).goal = some 1 ∧ ((commanded 0x72 (islandBytes 4 23 1)).isl 713).goal = some 1) := by unfold State.takes; decide +kernel

theorem witness_IslandsDevicesAndRailsChangeState_device :
    (∀ e ∈ [(0, 0, false), (1, 1, true), (1, 0, false), (2, 2, true), (2, 0, false), (9, 1, true)],
      let s := mailed 0x73 (leBytes 4 e.1) e.2.1 State.reset
      let d := clampTo 0 2 (s.req 3 0 4)
      s.takes 3 0x73 [0, 1, 2] ∧ decide ((d = 1 ∧ s.job.phase = 1) ∨ (d = 2 ∧ s.job.phase ≠ 0)) = e.2.2 ∧ s.railShut 687 = false)
    ∧ (let s := { commanded 0x73 (leBytes 4 0) with pwr.islands := [] }
       s.kciBegun 3 0x73 = true ∧ ∀ i < 714, s.settled i = true)
    ∧ (let s := mailed 0x70 (leBytes 4 15 ++ leBytes 4 1 ++ leBytes 8 (2 ^ 64 - 1)) 0 State.reset
       s.takes 3 0x70 [0, 1, 2] ∧ 0 < clampTo 1 16 (s.req 3 4 4) ∧ s.req 3 0 4 + 0 < 16)
    ∧ (∀ op ∈ [0x71, 0x74, 0x75], (mailed op (leBytes 8 0x76543210) 2 State.reset).takes 3 op [0, 1, 2])
    ∧ (let s := queued State.reset 68 9 (List.replicate 64 255)
       (s.queue 68).taken = (9, List.replicate 64 255) :: [] ∧ dMark (List.replicate 64 255) = true ∧ (s.queue 68).marked = false ∧ s.pwr.cc = 0
       ∧ State.queueCluster 68 = some 1 ∧ s.vcore 1 ≠ (s.setReg (bFn 5) .PM_OPP 3 1000).targetMv 1 + 5000 ∧ s.flag (bCluster 1) Fld.ISL_STATUS_DROOP_HOLD = false
       ∧ s.islState 1 = 0)
    ∧ (let s := { State.reset with pwr.lost := [(2, 3), (7, 2)] }
       3 ≤ s.lostPhases 2 ∧ s.pwr.shut.contains 2 = false ∧ s.lostPhases 7 < 3) := by
  unfold State.takes; dsimp only; and_intros <;> decide +kernel

/-- Island 5 ramping under operating point 3. -/
def rampingAt (mv : Nat) : State :=
  let s := (State.reset.setReg (bFn 5) .PM_OPP 3 (BitVec.ofNat 64 (805 + 30 * 2 ^ 16 + 120 * 2 ^ 32 + 40 * 2 ^ 48)))
  ((s.setF (bCluster 5) Fld.ISL_STATUS_OPP 3).setF (bCluster 5) Fld.ISL_STATUS_VCORE_MV mv).setFlag (bCluster 5) Fld.ISL_STATUS_RAMPING true

theorem witness_VoltagesEstimatesAndSharesMove :
    (let s := { act [execDroopDetect 5] { State.reset with time := 1000 } with time := 1050 }
     (s.isl 5).holdTo = some 1050 ∧ 1050 ≤ s.time)
    ∧ (∀ mv ∈ [700, 820], (rampingAt mv).flag (State.islBlk 5) Fld.ISL_STATUS_RAMPING = true
        ∧ (rampingAt mv).vcore 5 ≠ (rampingAt mv).targetMv 5 ∧ (rampingAt mv).flag (State.islBlk 5) Fld.ISL_STATUS_DROOP_HOLD = false)
    ∧ (∃ mv ∈ [805, 798], (rampingAt mv).vcore 5 = (rampingAt mv).targetMv 5)
    ∧ (let s := (rampingAt 700).setF (bFn 5) Fld.PM_CTRL_AGE_WARN_PPM 999
       s.getF (bFn 5) Fld.PM_CTRL_AGE_WARN_PPM < 50000 ∧ (s.isl 5).aged = false)
    ∧ State.reset.levelHigh 3207 = false := by decide +kernel

/-- A meter reading at a time, with an amount of energy. -/
def readingAt (t e : Nat) : MeterReading := ⟨BitVec.ofNat 64 t, 3000, BitVec.ofNat 64 e, 4790, 4810, 3100, false⟩
def tagged (tag : Nat) : State := mailed 0x80 (leBytes 8 tag) 0 { State.reset with pwr.islands := [(5, { Island.reset with energy := 500 })] }
/-- One record stored: number 1. -/
def metered (op : Nat) (pl : List Byte) : State := { mailed op pl 0 (act [execMeterTag 3 (readingAt 5000000 777000)] (tagged 42)) with job.answers := [] }

/-- The clauses on a signed service command rest on the verifier, a constant without a body: no state shows that it accepts. -/
theorem witness_TheMeterRecordsAnswersAndChecksItself :
    ((tagged 42).takes 3 0x80 [0, 1, 2] ∧ (tagged 42).req 3 0 8 ≠ (tagged 42).mtr_ Fld.MTR_TAG_TAG
      ∧ (tagged 42).formsRecord (readingAt 5000000 777))
    ∧ (let s := metered 0x80 (leBytes 8 42)
       s.takes 3 0x80 [0, 1, 2] ∧ s.req 3 0 8 = s.mtr_ Fld.MTR_TAG_TAG)
    ∧ (let s := { tagged 43 with mtr.recs := List.replicate 4096 ⟨9, [], MeterInt.start 1 2 3⟩ }
       s.takes 3 0x80 [0, 1, 2] ∧ s.req 3 0 8 ≠ s.mtr_ Fld.MTR_TAG_TAG ∧ s.mtr.closed ≠ some (s.meterRead (readingAt 5000000 777)).meterTick ∧ s.meterFull = true)
    ∧ (∀ op ∈ [0x81, 0x85], ((metered op (leBytes 4 1)).record? ((metered op (leBytes 4 1)).req 3 0 4)).isSome = true
        ∧ (∀ c ∈ (metered op (leBytes 4 1)).mtr.recs, c.number = 1 ∧ ∃ e ∈ c.span.shares, e.1 < 689 ∧ 0 < e.2)
        ∧ (metered op (leBytes 4 1)).takes 3 op [0, 1, 2] ∧ (metered op (leBytes 4 2)).takes 3 op [0, 1, 2]
        ∧ ((metered op (leBytes 4 2)).record? ((metered op (leBytes 4 2)).req 3 0 4)).isNone = true)
    ∧ (∀ op ∈ [0x82, 0x83, 0x84], (metered op (leBytes 4 9)).takes 3 op [0, 1, 2])
    ∧ (let s := metered 1 []
       s.mtr.outage = false ∧ (readingAt 5000001 5).now.toNat < s.mtr.cur.tStart + s.maxInterval
       ∧ s.mtr.cur.tStart + s.maxInterval ≤ (readingAt (10 ^ 15) 5).now.toNat ∧ s.formsRecord (readingAt (10 ^ 15) 5) ∧ s.rot.metered = false)
    ∧ (({ metered 1 [] with mtr.outage := true } : State).mtr.outage = true)
    ∧ (let s := act [execMeterSelfCheck 3 (readingAt 6000000 5)] (metered 1 [])
       s.meterFault = true ∧ s.mtr.restarted = false ∧ ({ s with mtr.restarted := true } : State).meterFault = true)
    ∧ ({ metered 1 [] with rot.metered := true } : State).rot.metered = true := by
  unfold State.takes State.formsRecord; dsimp only; and_intros <;> decide +kernel

def stageAt (n : Nat) : State := State.reset.setF (bFn 6) Fld.BOOT_STATUS_STAGE n

/-- That a slot's image verifies rests on the verifier, a constant without a body; a slot whose image has another kind fails. -/
theorem witness_StartUpInputAndTripsMoveTheStages :
    (State.reset.powered = true ∧ State.reset.stage = 0 ∧ (850 : BitVec 10).toNat ≤ temp85 ∧ ¬ (851 : BitVec 10).toNat ≤ temp85 ∨ temp85 < 849)
    ∧ (let s := { stageAt 2 with rot.slots := [[1, 0, 0, 0, 9], [1, 0, 0, 0, 9]] }
       s.powered = true ∧ s.stage = 2 ∧ s.imageOk (s.slotImage s.rot.active) 0 = false ∧ s.imageOk (s.slotImage (1 - s.rot.active)) 0 = false)
    ∧ ((stageAt 3).powered = true ∧ (stageAt 3).stage = 3 ∧ ∀ k < 16, (stageAt 3).getF (bFn 0) Fld.CC_CORE_PHYS k ≠ 16)
    ∧ (∃ k < 16, ((stageAt 3).setF (bFn 0) Fld.CC_CORE_PHYS 16 4).getF (bFn 0) Fld.CC_CORE_PHYS k = 16)
    ∧ ((stageAt 4).powered = true ∧ (stageAt 4).stage = 4 ∧ (stageAt 4).rot.cleared = false
      ∧ ({ stageAt 4 with rot.cleared := true } : State).rot.cleared = true)
    ∧ ((stageAt 5).powered = true ∧ (stageAt 5).stage = 5 ∧ (stageAt 5).rot.tested = false ∧ (stageAt 5).err.dueLater = []
      ∧ (stageAt 5).fuseRowBad 43007 = false
      ∧ State.coverCells ((stageAt 5).reg (bArray 43007) .ARR_REMAP).toNat [(31, 4), (31, 9), (2, 30)] = some (31 + 32 + (30 + 32) * 64)
      ∧ State.coverCells 0 [(31, 4), (31, 9)] = some 63 ∧ (∀ c ∈ [((31 : Fin 32), (4 : Fin 32)), (31, 9)], c.1 = 31)
      ∧ State.coverCells 0 [(0, 0), (1, 1), (2, 2)] = none
      ∧ (stageAt 5).spareFree (clusterOfTile 50) = true
      ∧ ((stageAt 5).setFlag (bCluster 3) Fld.CL_SPARE_EN true).spareFree (clusterOfTile 50) = false)
    ∧ ((stageAt 5).flag (bFn 4) Fld.HL_STATUS_PERST = false ∧ (stageAt 5).rot.input = true)
    ∧ (let s := act [execInputLoss] (stageAt 6)
       s.rot.input = false ∧ s.lw.ticks ≤ s.rot.began + 5000000
       ∧ s.rot.began + 5000000 < ({ s with lw.ticks := s.rot.began + 5000001 } : State).lw.ticks
       ∧ (act [execInterlockTrip] s).pwr.tripped = true)
    ∧ (temp115 ≤ (1023 : BitVec 10).toNat ∧ (0 : BitVec 10).toNat < temp115)
    ∧ ((stageAt 6).rot.input = true ∧ (stageAt 6).pwr.tripped = false ∧ (stageAt 6).stage ≠ 0 ∧ (stageAt 0).stage = 0)
    ∧ (let s := { act [execInterlockTrip] (stageAt 6) with pwr.restart := true }
       s.rot.input = true ∧ s.pwr.tripped = true ∧ s.pwr.restart = true) := by
  and_intros <;> decide +kernel

def resetting (l : Nat) (unit : Nat) (s : State) : State := { s with rot.resets := [⟨l, unit, 1, some 3⟩] }

theorem witness_ResetsOfEachLevelTakeEffect :
    ((State.reset.setFlag (bFn 4) Fld.HL_STATUS_PERST true).flag (bFn 4) Fld.HL_STATUS_PERST = true
      ∧ linked.flag (bFn 4) Fld.HL_STATUS_PERST = false ∧ linked.rot.resets = [] ∧ linked.hostUp = true ∧ linked.hl.ready = true
      ∧ State.reset.hostUp = false ∧ State.reset.rot.resets = [])
    ∧ (∀ l ∈ [1, 2, 3, 4], let s := resetting l (udTile 17) (stageAt 6)
       s.rot.resets = ⟨l, udTile 17, 1, some 3⟩ :: [])
    ∧ (∀ e ∈ [(leBytes 4 0, 1), (leBytes 4 3, 3), (leBytes 4 4 ++ leBytes 4 (udCluster 671), 4), (leBytes 4 9 ++ leBytes 4 (udCluster 5 / 8 * 8), 4)],
       let s := mailed 0x97 e.1 1 State.reset
       s.takes 3 0x97 [0, 1, 2] ∧ clampTo 1 4 (s.req 3 0 4) = e.2 ∧ s.rot.resets = [])
    ∧ ((mailed 0x97 (leBytes 4 4 ++ leBytes 4 (udCluster 671)) 1 State.reset).req 3 4 4 % 2 ^ 28 = udCluster 671)
    ∧ ((mailed 0x97 (leBytes 4 4 ++ leBytes 4 (udCluster 5 / 8 * 8)) 1 State.reset).req 3 4 4 % 2 ^ 28 % 8 < 2)
    ∧ (let s := resetting 2 0 (mailed 0x97 (leBytes 4 3) 1 State.reset)
       s.takes 3 0x97 [0, 1, 2] ∧ 2 ≤ clampTo 1 4 (s.req 3 0 4))
    ∧ (let s := { resetting 1 0 (stageAt 6) with kci := [(5, { Mailbox.reset with state := 1 })] }
       s.powered = true ∧ s.stage ≠ 0 ∧ (s.mb 5).state = 1 ∧ (some 3 : Option Nat) ≠ some 5
       ∧ (∀ i ∈ s.pwr.dark, i < 689) ∧ ({ s with pwr.dark := [688] } : State).railShut 688 = true ∧ s.railShut 0 = false) := by
  unfold State.takes; dsimp only; and_intros <;> decide +kernel

/-- A key request: kind, slot, number and signer, of slot 2's first key. -/
def keyBytes (kind slot num signer : Nat) : List Byte :=
  leBytes 4 kind ++ leBytes 4 slot ++ leBytes 8 num ++ leBytes 4 signer ++ List.replicate 44 0 ++ List.replicate 1952 7

/-- That an image verifies rests on the verifier, a constant without a body; the first key of an empty set needs no signature. -/
theorem witness_IdentityImagesAndKeysAreKept :
    (∀ op ∈ [0x90, 0x91, 0x98], (mailed op (leBytes 32 9) 0 State.reset).takes 3 op [0, 1, 2])
    ∧ (let s := mailed 0x92 (leBytes 8 slowBase ++ leBytes 4 200) 0 { State.reset with mem.dev := [(slowBase, 3)] }
       s.takes 3 0x92 [0] ∧ s.inTiers (s.req 3 0 8) (s.req 3 8 4) = true ∧ s.imageOk (s.devBytes (s.req 3 0 8) (s.req 3 8 4)) 0 = false
       ∧ s.imageOk (s.devBytes (s.req 3 0 8) (s.req 3 8 4)) 1 = false)
    ∧ (let s := mailed 0x92 (leBytes 8 (slowBase + 2 ^ 51) ++ leBytes 4 4000) 0 State.reset
       s.takes 3 0x92 [0] ∧ s.inTiers (s.req 3 0 8) (s.req 3 8 4) = false)
    ∧ (mailed 0x93 (leBytes 4 0) 0 State.reset).takes 3 0x93 [0]
    ∧ (∀ op ∈ [0x94, 0x95], let s := mailed op (leBytes 8 (slowBase + 1)) 0 State.reset
       s.takes 3 op [0] ∧ ¬ s.req 3 0 8 % 64 = 0)
    ∧ (∀ e ∈ [(0, 9, true), (1, 9, false), (0, 0, false)], let s := mailed 0x94 (leBytes 8 slowBase) 0 State.reset
       s.takes 3 0x94 [0] ∧ s.req 3 0 8 % 64 = 0 ∧ s.inTiers (s.req 3 0 8) 5325 = true ∧ s.keyOk (keyBytes e.1 2 e.2.1 0xFFFFFFFF) 0 = e.2.2)
    ∧ (mailed 0x95 (leBytes 8 slowBase) 0 State.reset).takes 3 0x95 [0]
    ∧ (let s := { mailed 0x96 [] 0 State.reset with rot.ext := some [7] }
       s.takes 3 0x96 [0] ∧ s.rot.ext.isSome = true) := by
  unfold State.takes; dsimp only; and_intros <;> decide +kernel

def erring (l : List (ErrLoc × Nat)) : State := act (l.map fun e => execCorrectedError e.1 e.2) { State.reset with time := 5000000000 }

theorem witness_ErrorsAreCountedAndRepaired :
    (locKey (.tileWord 17 0 5) ≠ none ∧ (0 : Nat) < 2 ∧ State.reset.getF (bFn 7) Fld.ERR_CTRL_SCRUB_H ≠ 0
      ∧ (State.reset.setF (bFn 7) Fld.ERR_CTRL_SCRUB_H 0).getF (bFn 7) Fld.ERR_CTRL_SCRUB_H = 0)
    ∧ (Tbl.wf (fun _ => []) (erring [(.way 3 5, 4)]).err.counts = true ∧ (erring []).err.lastUe = none)
    ∧ (tierKey (State.reset.target slowBase) ≠ none ∧ tierKey (State.reset.target 0x5000) ≠ none
      ∧ State.reset.target 0x1234567A80 = .fast 7 0x1845C8A80)
    ∧ (let s := (erring [] |>.modIsl 1 fun v => { v with aged := true }).modTile 17 fun tl => { tl with reelOn := true }
       (s.isl (clusterOfTile 17)).aged = true ∧ (s.tileOf 17).reelOn = true ∧ 89 * 100 < 100 * 90 ∧ s.tileWaits 17 = false
       ∧ State.agedTile 17 ∉ s.err.dueLater)
    ∧ (let s := erring [(.tileWord 17 0 5, 2)]
       s.tileIsDue 17 = true ∧ s.tileWaits 17 = false ∧ s.jobOpen = false ∧ ({ s with job.phase := 1 } : State).jobOpen = true
       ∧ (erring [(.tileWord 17 0 5, 1)]).tileIsDue 17 = false)
    ∧ (let s := erring [(.lane 3 44 7, 1001)]
       1000 < ((s.errsAt (State.laneKey 3 44 7)).filter fun e => decide (s.time ≤ e / 64 + 1000000000)).length
       ∧ (∀ l < 64, ((erring [(.lane 3 44 7, 1000)]).errsAt (State.laneKey 3 44 l)).length ≤ 1000) ∧ (erring []).stage ≠ 4
       ∧ Tbl.get (fun _ => 0) s.err.lanes (3 * 1024 + 44) < 2 ∧ 2 ≤ Tbl.get (fun _ => 0) ({ s with err.lanes := [(3 * 1024 + 44, 2)] } : State).err.lanes (3 * 1024 + 44))
    ∧ (let s := erring [(.dramRow 3 9 77 1, 1), (.dramRow 3 9 77 2, 1), (.dramRow 3 9 77 3, 9)]
       3 ≤ s.granulesAt (2 ^ 72 + (3 * 2 ^ 32 + 9) * 2 ^ 32 + 77) ∧ Tbl.get (fun _ => 0) s.err.rows (3 * 2 ^ 32 + 9) < 2
       ∧ ¬ 3 ≤ (erring [(.dramRow 3 9 77 1, 1), (.dramRow 3 9 77 2, 9)]).granulesAt (2 ^ 72 + (3 * 2 ^ 32 + 9) * 2 ^ 32 + 77))
    ∧ (let s := erring [(.way 3 5, 16)]
       16 ≤ s.wayErrs 3 5 0 ∧ ¬ (16 ≤ (erring [(.way 3 5, 15)]).wayErrs 3 5 0 ∨ 2 ≤ (erring [(.way 3 5, 15)]).wayErrs 3 5 1)
       ∧ 5 ∉ (s.ctl 3).off ∧ (s.ctl 3).off.length < 8)
    ∧ (64 * (70 / 64) ≤ 70 ∧ 70 < 64 * (70 / 64) + 64) := by decide +kernel

/-- A snapshot of the package under way. -/
def snapping : State := { act [execCapture 3] (mailed 0xA0 (leBytes 4 0 ++ leBytes 4 77) 0 State.reset) with snap.state := 2 }

theorem witness_SparesCapturesAndRegistersAreWritten :
    ((stageAt 6).controls .host = false ∧ (stageAt 6).controls .control = true ∧ (stageAt 6).blkHeld (bCluster 3) = false
      ∧ (inHold (stageAt 6) 3).blkHeld (bCluster 3) = true ∧ (stageAt 6).jobOpen = false ∧ (stageAt 6).flag (bCluster 3) Fld.CL_SPARE_STATUS_PARITY_BAD = false
      ∧ (stageAt 6).flag (bCluster 3) Fld.CL_SPARE_STATUS_PROG_BUSY = false ∧ (stageAt 6).flag (bCluster 3) Fld.CL_SPARE_FUSE_EN = false
      ∧ ((stageAt 6).setFlag (bCluster 3) Fld.CL_SPARE_FUSE_EN true).flag (bCluster 3) Fld.CL_SPARE_FUSE_EN = true
      ∧ ({ stageAt 6 with job.phase := 2 } : State).jobOpen = true ∧ State.reset.clusterPresent 671 = true) := by
  and_intros <;> decide +kernel

theorem witness_SparesCapturesAndRegistersAreWritten_captures :
    (snapping.snap.state = 2 ∧ snapping.capIn 45 = true ∧ 45 ∉ snapping.snap.done ∧ 45 ∉ snapping.snap.skipped ∧ 45 < 2 ^ 20
      ∧ snapping.capAsleep 45 = false ∧ snapping.capIn (2 ^ 20 - 1) = false
      ∧ (snapping.setF (State.islBlk 2) Fld.ISL_STATUS_STATE 2).capAsleep 45 = true)
    ∧ (∀ e ∈ [capOfQueue 68, capOfStat 17, capOfStat 10769], snapping.capIn e = true ∧ e ∉ snapping.snap.done ∧ e ∉ snapping.snap.skipped
        ∧ snapping.capAsleep e = false)
    ∧ (let s := { snapping with snap.done := [44] }
       (77#32).toNat = s.snap.seq ∧ s.snap.done ≠ [] ∧ s.snap.state = 2 ∧ s.capIn 45 = true ∧ (78#32).toNat ≠ s.snap.seq)
    ∧ ({ snapping with snap.state := 3 } : State).snap.state = 3 := by decide +kernel

theorem witness_SparesCapturesAndRegistersAreWritten_registers :
    (∀ e ∈ [(3 * 2 ^ 40 + 671 * 2 ^ 16 + Reg.GS_QUOTA.row.base, bCluster 671, Reg.GS_QUOTA, true),
          (9 * 2 ^ 40 + 2 * 2 ^ 16 + 4, bFn 2, .IC_CTRL, true), (3 * 2 ^ 40 + 671 * 2 ^ 16 + Reg.GS_QUOTA.row.base + 4, bCluster 671, Reg.GS_QUOTA, false)],
        State.reset.target (BitVec.ofNat 52 (regBase + e.1)).toNat = .regs e.1
        ∧ e.1 % 2 ^ 16 % 4 = 0 ∧ regAt (e.1 / 2 ^ 40) (e.1 % 2 ^ 40 / 2 ^ 16) (e.1 % 2 ^ 16 / 8 * 8) = some (e.2.1, e.2.2.1, 0)
        ∧ State.reset.unitPresent (e.1 / 2 ^ 40) (e.1 % 2 ^ 40 / 2 ^ 16) = true ∧ State.reset.regHeld e.1 = false
        ∧ State.reset.mayWrite .control e.2.2.1 0 = true ∧ State.reset.mayWrite .host e.2.2.1 0 = false
        ∧ (storesOnly e.2.2.1 = true ∨ clearsOnly e.2.2.1 = true)
        ∧ (decide (min 32 (e.2.2.1.row.width - e.1 % 2 ^ 16 % 8 * 8) ≠ 0)) = e.2.2.2)
    ∧ (∃ off ∈ [9 * 2 ^ 40 + 63 * 2 ^ 16], State.reset.target (BitVec.ofNat 52 (regBase + off)).toNat = .regs off
        ∧ regAt (off / 2 ^ 40) (off % 2 ^ 40 / 2 ^ 16) (off % 2 ^ 16 / 8 * 8) = none)
    ∧ State.reset.target (BitVec.ofNat 52 0x5000).toNat ≠ .regs 0 := by
  and_intros <;> decide +kernel

theorem witness_BankModeChangesClearTheCounters :
    (∀ b ∈ [45, 12184, 12234], let s := mailed 0xA1 (leBytes 4 b ++ leBytes 4 1 ++ leBytes 4 1) 0 State.reset
       s.takes 3 0xA1 [0, 1, 2] ∧ bankOk b = true ∧ s.req 3 0 4 = b ∧ s.req 3 4 4 = 1)
    ∧ bankIsSc 12184 = true ∧ bankIsSc 0 = false
    ∧ (State.reset.controls .host = false ∧ State.reset.controls .control = true
      ∧ ∀ b ∈ [45, 12184, 12234], State.reset.blkHeld (bBank b) = false) ∧ (inHold State.reset 2).blkHeld (bBank 45) = true := by
  unfold State.takes; dsimp only; and_intros <;> decide +kernel

theorem witness_BeforeReadyOnlySixCommandsAreAnswered :
    ∀ st ∈ [4, 5], ∀ op ∈ [0x01, 0x02, 0x10, 0x30, 0x41, 0x90, 0x97, 0x98, 0xA2],
      let s := (mailed op (leBytes 8 0x5000) 0 State.reset).setF (bFn 6) Fld.BOOT_STATUS_STAGE st
      (s.stage = 4 ∨ s.stage = 5) ∧ s.job.busy = none ∧ s.job.phase = 0 ∧ s.kciTakes 3 op = true := by decide +kernel

theorem witness_OnlyMeterRowsChangeTheMeter :
    ((Instr.d3hotEntry true).isMeter = false ∧ (Instr.inputLoss).isMeter = false
      ∧ ∃ t, exec (.d3hotEntry true) State.reset = .next t)
    ∧ (Instr.mgmtFrame (leBytes 8 0x81) reading).isMeter = false ∧ bitsOf (leNat (cut (leBytes 8 0x81) 0 8)) 0 16 ∉ [0x80, 0x82] :=
  ⟨⟨rfl, rfl, _, rfl⟩, rfl, by decide⟩

theorem witness_EveryStepKeepsTheStateCanonical :
    ({ State.reset with pending := [.d3hotEntry true] } : State).canonical
    ∧ ∃ t, step { State.reset with pending := [.d3hotEntry true] } = .next t := ⟨⟨rfl, rfl, rfl, rfl⟩, _, rfl⟩

end Sys2Proof.Tests
end

/-! SUPPORT. What counting, captures and reports to the host leave alone, the rules of threads, of the lease and of an issue, and what a
signal does. -/

namespace Sys2Proof.Machine

/-! ### Searches and folds -/

/-- A search through consecutive numbers ends at the first one that passes. -/
theorem find?_upFrom {p : Nat → Bool} {a n c : Nat} (lo : a ≤ c) (hi : c < a + n) (hc : p c = true)
    (hlow : ∀ d, a ≤ d → d < c → p d = false) : (upFrom a n).find? p = some c := by
  induction n generalizing a with
  | zero => omega
  | succ n ih =>
    rcases Nat.eq_or_lt_of_le lo with rfl | hlt
    · simp [upFrom, hc]
    · rw [upFrom, List.find?_cons_of_neg (by simp [hlow a (le_refl a) hlt])]
      exact ih hlt (by omega) fun d hd => hlow d (by omega)

namespace State

/-- What each step of a fold keeps, the fold keeps. -/
theorem foldS_keeps {α β : Type} (g : State → β) {f : State → α → State} (hf : ∀ s a, g (f s a) = g s) (l : List α) (s : State) :
    g (s.foldS l f) = g s := by
  induction l generalizing s with
  | nil => rfl
  | cons a r ih => exact (ih (f s a)).trans (hf s a)

/-! ### Register writes, counts and captures -/

/-- The state with the registers and the capture in progress blanked: what an update that only counts or captures leaves alone. Laws of
it proved by computation stand as `(rfl)`, so that `simp` cites them and the kernel need not unfold the updates again. -/
def sansRegs (s : State) : State := { s with regs := [], snap := Snap.reset }

theorem tile_eq_of_sansRegs {s t : State} (h : t.sansRegs = s.sansRegs) : t.tile = s.tile := congrArg (·.tile) h
theorem sync_eq_of_sansRegs {s t : State} (h : t.sansRegs = s.sansRegs) : t.sync = s.sync := congrArg (·.sync) h
theorem mem_eq_of_sansRegs {s t : State} (h : t.sansRegs = s.sansRegs) : t.mem = s.mem := congrArg (·.mem) h

@[simp] theorem sansRegs_setReg (s : State) (b : Blk) (r : Reg) (i : Nat) (v : Word) : (s.setReg b r i v).sansRegs = s.sansRegs := (rfl)
@[simp] theorem sansRegs_setF (s : State) (b : Blk) (f : Fld) (v i : Nat) : (s.setF b f v i).sansRegs = s.sansRegs :=
  sansRegs_setReg ..
@[simp] theorem sansRegs_setFlag (s : State) (b : Blk) (f : Fld) (v : Bool) (i : Nat) :
    (s.setFlag b f v i).sansRegs = s.sansRegs := sansRegs_setF ..
theorem sansRegs_snap (s : State) (n : Snap) : { s with snap := n }.sansRegs = s.sansRegs := (rfl)

@[simp] theorem sansRegs_count (s : State) (b : Blk) (r : Reg) (n i : Nat) : (s.count b r n i).sansRegs = s.sansRegs := by
  unfold count; split <;> rfl

@[simp] theorem sansRegs_bankCount (s : State) (bank k n : Nat) : (s.bankCount bank k n).sansRegs = s.sansRegs := by
  unfold bankCount; split <;> simp

@[simp] theorem sansRegs_bufPut (s : State) (l : List (Nat × Nat)) : (s.bufPut l).sansRegs = s.sansRegs := by
  unfold bufPut; exact sansRegs_snap ..

@[simp] theorem sansRegs_capQueue (s : State) (q : Nat) : (s.capQueue q).sansRegs = s.sansRegs := by
  unfold capQueue; exact sansRegs_bufPut ..

@[simp] theorem sansRegs_capStat (s : State) (g : Nat) : (s.capStat g).sansRegs = s.sansRegs := by
  unfold capStat; exact sansRegs_snap ..

@[simp] theorem sansRegs_capSkip (s : State) (e : Nat) : (s.capSkip e).sansRegs = s.sansRegs := by
  unfold capSkip
  dsimp only
  split
  · exact (sansRegs_bufPut ..).trans (sansRegs_snap ..)
  · exact sansRegs_snap ..

@[simp] theorem sansRegs_capBank (s : State) (b : Nat) : (s.capBank b).sansRegs = s.sansRegs := by
  unfold capBank
  simp only [sansRegs_bufPut, sansRegs_setFlag, sansRegs_setF]
  exact foldS_keeps sansRegs (fun s _ => sansRegs_setReg s ..) _ s

@[simp] theorem sansRegs_capture (s : State) (e : Nat) : (s.capture e).sansRegs = s.sansRegs := by
  unfold capture
  dsimp only
  split
  · rfl
  · rw [apply_ite sansRegs, sansRegs_snap, ite_self]
    split_ifs <;> simp only [sansRegs_capSkip, sansRegs_capBank, sansRegs_capQueue, sansRegs_capStat, sansRegs_snap]

@[simp] theorem sansRegs_markerFirst (s : State) (e : Nat) : (s.markerFirst e).sansRegs = s.sansRegs := by
  unfold markerFirst
  split
  · exact sansRegs_capture s e
  · rfl

@[simp] theorem sansRegs_workItem (s : State) (bank n : Nat) : (s.workItem bank n).sansRegs = s.sansRegs :=
  (sansRegs_bankCount ..).trans (sansRegs_markerFirst ..)

@[simp] theorem sansRegs_retarget (s : State) (n : Nat) : (s.retarget n).sansRegs = s.sansRegs := by simp [retarget, setEntry]

/-- The state with its hardware queues blanked as well: what the start or end of a descriptor leaves alone. -/
def sansQueues (s : State) : State := { s.sansRegs with queues := [] }

@[simp] theorem sansQueues_modQueue (s : State) (q : Nat) (f : QueueCtx → QueueCtx) : (s.modQueue q f).sansQueues = s.sansQueues := (rfl)

@[simp] theorem sansQueues_retarget (s : State) (n : Nat) : (s.retarget n).sansQueues = s.sansQueues :=
  congrArg (fun t : State => { t with queues := [] }) (sansRegs_retarget s n)

@[simp] theorem sansQueues_descDone (s : State) (q n : Nat) : (s.descDone q n).sansQueues = s.sansQueues := by
  have slotFreed (f : QueueCtx → QueueCtx) : (if (s.queue q).kind = 5 then s.modQueue q f else s).sansQueues = s.sansQueues := by
    split
    · exact sansQueues_modQueue s q f
    · rfl
  unfold descDone
  dsimp only
  cases queueCluster q with
  | none => exact (sansQueues_modQueue ..).trans (slotFreed _)
  | some c => exact (sansQueues_retarget ..).trans ((sansQueues_modQueue ..).trans (slotFreed _))

theorem descDone_tile (s : State) (q n : Nat) : (s.descDone q n).tile = s.tile := congrArg (·.tile) (sansQueues_descDone s q n)
theorem descDone_sync (s : State) (q n : Nat) : (s.descDone q n).sync = s.sync := congrArg (·.sync) (sansQueues_descDone s q n)

/-! ### Reports to the host -/

/-- The state with host memory, the events and the host link blanked: what a report leaves alone. -/
def sansHost (s : State) : State := { s with mem.host := [], ev := State.reset.ev, hl := HostLink.reset }

@[simp] theorem sansHost_hostPost (s : State) (a : Nat) (bs : List Byte) (m : Option Nat) : (s.hostPost a bs m).sansHost = s.sansHost := by
  unfold hostPost; split <;> rfl

@[simp] theorem sansHost_msixRaise (s : State) (v : Nat) : (s.msixRaise v).sansHost = s.sansHost := by
  unfold msixRaise; dsimp only; split
  · rfl
  · exact sansHost_hostPost ..

@[simp] theorem sansHost_eventWrite (s : State) (e : Event) (v : Nat) : (s.eventWrite e v).sansHost = s.sansHost := by
  unfold eventWrite
  split
  · rfl
  · exact (sansHost_msixRaise _ v).trans (sansHost_hostPost s _ _ none)

@[simp] theorem sansHost_report (s : State) (e : Event) (v : Nat) : (s.report e v).sansHost = s.sansHost := by
  unfold report
  split
  · rfl
  · split_ifs
    · exact sansHost_eventWrite ..
    · rfl
    · rfl

theorem report_tile (s : State) (e : Event) (v : Nat) : (s.report e v).tile = s.tile := congrArg (·.tile) (sansHost_report s e v)
theorem report_sync (s : State) (e : Event) (v : Nat) : (s.report e v).sync = s.sync := congrArg (·.sync) (sansHost_report s e v)

/-! ### Threads -/

theorem thr_setThr (s : State) (t c u d : Nat) (v : Thread) :
    (s.setThr t c v).thr u d = if u * 128 + d = t * 128 + c then v else s.thr u d := Tbl.get_put ..

@[simp] theorem thr_setThr_same (s : State) (t c : Nat) (v : Thread) : (s.setThr t c v).thr t c = v := Tbl.get_put_same ..

@[simp] theorem thr_modThr_same (s : State) (t c : Nat) (f : Thread → Thread) : (s.modThr t c f).thr t c = f (s.thr t c) :=
  thr_setThr_same ..

@[simp] theorem thr_setTile (s : State) (t : Nat) (v : Tile) : (s.setTile t v).thr = s.thr := rfl

@[simp] theorem thr_setX (s : State) (t c r : Nat) (v : Word) : (s.setX t c r v).thr = s.thr := by
  unfold setX; split <;> rfl

theorem setX_sync (s : State) (t c r : Nat) (v : Word) : (s.setX t c r v).sync = s.sync := by
  unfold setX; split <;> rfl

theorem thr_eq_of_tile {s t : State} (h : t.tile = s.tile) : t.thr = s.thr := by unfold thr; rw [h]

/-- A change of a thread that keeps its state keeps every context's. -/
theorem run_modThr (s : State) (t c : Nat) (f : Thread → Thread) (u d : Nat) (hf : ∀ h, (f h).run = h.run := by intro; rfl) :
    ((s.modThr t c f).thr u d).run = (s.thr u d).run := by
  rw [modThr, thr_setThr]
  split
  · next h => rw [hf, thr, thr, h]
  · rfl

/-! ### The lease -/

/-- A handover of the lease changes tiles and threads, and no context's state. -/
theorem leaseHandover_frame (s : State) (t : Nat) : (s.leaseHandover t).tile.xreg = s.tile.xreg ∧ (s.leaseHandover t).mem = s.mem
    ∧ ∀ u d, ((s.leaseHandover t).thr u d).run = (s.thr u d).run := by
  unfold leaseHandover
  dsimp only
  split
  · exact ⟨rfl, rfl, fun _ _ => rfl⟩
  · exact ⟨rfl, rfl, run_modThr _ _ _ _⟩

/-- Giving up the lease changes tiles and threads, and no context's state. -/
theorem leaseRelease_frame (s : State) (t c : Nat) : (s.leaseRelease t c).tile.xreg = s.tile.xreg ∧ (s.leaseRelease t c).mem = s.mem
    ∧ ∀ u d, ((s.leaseRelease t c).thr u d).run = (s.thr u d).run := by
  unfold leaseRelease
  dsimp only
  split_ifs
  · exact leaseHandover_frame s t
  · exact ⟨rfl, rfl, fun _ _ => rfl⟩
  · exact ⟨rfl, rfl, fun _ _ => rfl⟩

/-! ### Issue -/

/-- An instruction without a fault that a context runs has its effect on the state with the issue counted. -/
theorem issue_of_canRun {s : State} {i : Instr} {h : Hdr} (hrun : s.canRun i h) (eff : State → State) :
    s.issue i h false [] eff = eff (s.issued h.tile h.ctx) := by
  obtain ⟨hcan, hres, hguard⟩ := hrun
  simp [issue, firstFault, hcan, hres, hguard]

/-- A slot taken changes registers, its tile and its thread, and no context's state. -/
theorem slotTaken_frame (s : State) (t c : Nat) : (s.slotTaken t c).tile.xreg = s.tile.xreg ∧ (s.slotTaken t c).mem = s.mem
    ∧ ∀ u d, ((s.slotTaken t c).thr u d).run = (s.thr u d).run := by
  have counted (v : State) : ((v.count (bTile t) .SEQ_ISSUED).workItem t).sansRegs = v.sansRegs :=
    (sansRegs_workItem ..).trans (sansRegs_count ..)
  unfold slotTaken
  dsimp only
  rw [thr_eq_of_tile (tile_eq_of_sansRegs (counted _)), tile_eq_of_sansRegs (counted _), mem_eq_of_sansRegs (counted _), modTile, thr_setTile]
  exact ⟨rfl, rfl, run_modThr s t c _⟩

theorem issued_frame (s : State) (t c : Nat) : (s.issued t c).tile.xreg = s.tile.xreg ∧ (s.issued t c).mem = s.mem
    ∧ ∀ u d, ((s.issued t c).thr u d).run = (s.thr u d).run := by
  obtain ⟨hx, hm, hr⟩ := slotTaken_frame (s.modThr t c fun th => { th with pc := th.pc + 8 }) t c
  exact ⟨hx, hm, fun u d => (hr u d).trans (run_modThr s t c _ u d)⟩

/-! ### Starting a context -/

/-- The lowest FREE context is the one found (R138). -/
theorem freeCtx_eq {s : State} {t c : Nat} (hlt : c < 128) (hfree : (s.thr t c).run = .free)
    (hlow : ∀ d, d < c → (s.thr t d).run ≠ .free) : s.freeCtx t = some c :=
  find?_upFrom (Nat.zero_le c) (by omega) (by simp [hfree]) fun d _ hd => by simpa using hlow d hd

/-- The record of a context that has started (R138). -/
theorem startThr_thr (s : State) (t c : Nat) (pc : BitVec 52) (prio : Nat) (xs : List Word) (l : Bool) (done : Option Nat) :
    (s.startThr t c pc prio xs l done).thr t c = { Thread.reset with
      run := .running, prio := prio, pc := pc, launched := l, done := done, halted := (s.thr t c).halted } := by
  unfold startThr
  dsimp only
  refine (congrFun₂ (foldS_keeps thr (fun s (e : Nat × Word) => thr_setX s t c e.1 e.2) _ _) t c).trans ?_
  exact thr_setThr_same ..

/-! ### Signals -/

/-- The counters and the states of all contexts: what no release of a wait changes. -/
def releaseKept (s : State) : Tbl Counter × (Nat → Nat → RunState) := (s.sync.counters, fun t c => (s.thr t c).run)

theorem counterOf_of_releaseKept {s t : State} (h : t.releaseKept = s.releaseKept) (c : Nat) : t.counterOf c = s.counterOf c :=
  congrArg (Tbl.get (fun _ => Counter.reset) · c) (congrArg Prod.fst h)

theorem run_of_releaseKept {s t : State} (h : t.releaseKept = s.releaseKept) (u d : Nat) : (t.thr u d).run = (s.thr u d).run :=
  congrArg (fun p => p.2 u d) h

theorem releaseKept_of_eq {s t : State} (hsync : t.sync = s.sync) (hthr : t.thr = s.thr) : t.releaseKept = s.releaseKept := by
  rw [releaseKept, releaseKept, hsync, hthr]

theorem releaseKept_modThr (s : State) (t c : Nat) (f : Thread → Thread) (hf : ∀ h, (f h).run = h.run := by intro; rfl) :
    (s.modThr t c f).releaseKept = s.releaseKept :=
  Prod.ext rfl (funext fun u => funext fun d => run_modThr s t c f u d hf)

@[simp] theorem releaseKept_syncCount (s : State) (c : Nat) (r : Reg) : (s.syncCount c r).releaseKept = s.releaseKept := by
  have h : (s.syncCount c r).sansRegs = s.sansRegs := sansRegs_count ..
  exact releaseKept_of_eq (sync_eq_of_sansRegs h) (thr_eq_of_tile (tile_eq_of_sansRegs h))

@[simp] theorem releaseKept_complete (s : State) (who : Waiter) (word : Nat) : (s.complete who word).releaseKept = s.releaseKept := by
  cases who with
  | thread t c rd => exact (releaseKept_modThr _ t c _).trans (releaseKept_of_eq (setX_sync ..) (thr_setX ..))
  | host m v k => exact releaseKept_of_eq (report_sync ..) (thr_eq_of_tile (report_tile ..))
  | engine a => rfl
  | control t c => rfl

@[simp] theorem releaseKept_release (s : State) (who : Waiter) (word : Nat) : (s.release who word).releaseKept = s.releaseKept := by
  unfold release
  split
  · split
    · exact releaseKept_complete ..
    · rfl
  · exact releaseKept_complete ..

@[simp] theorem releaseKept_releaseAll (s : State) (c status : Nat) (ws : List Wait) : (s.releaseAll c status ws).releaseKept = s.releaseKept := by
  refine foldS_keeps releaseKept (fun t w => ?_) ws s
  dsimp only
  split_ifs <;> simp only [releaseKept_release, releaseKept_syncCount]

@[simp] theorem releaseKept_releaseSatisfied (s : State) (c : Nat) : (s.releaseSatisfied c).releaseKept = s.releaseKept :=
  releaseKept_releaseAll ..

@[simp] theorem counterOf_setCounter_same (s : State) (c : Nat) (v : Counter) : (s.setCounter c v).counterOf c = v := Tbl.get_put_same ..

/-- A signal changes no context's state. -/
theorem run_signal (s : State) (agent seq c u d : Nat) : ((s.signal agent seq c).thr u d).run = (s.thr u d).run := by
  have counted (r : Reg) (v : Counter) : (((s.syncCount c r).setCounter c v).thr u d).run = (s.thr u d).run :=
    run_of_releaseKept (releaseKept_syncCount s c r) u d
  have satCounted (t : State) (p : Prop) [Decidable p] : (if p then t.syncCount c .SYNC_SAT else t).releaseKept = t.releaseKept := by
    split
    · exact releaseKept_syncCount ..
    · rfl
  unfold signal syncAdd
  dsimp only
  split
  · rfl
  · rw [if_neg Nat.one_ne_zero, run_of_releaseKept (releaseKept_releaseSatisfied ..), run_of_releaseKept (satCounted ..)]
    exact counted ..

/-- A signal adds 1 to a counter that is LIVE and below its greatest value (R381). -/
theorem value_signal {s : State} {c : Nat} (agent seq : Nat) (live : (s.counterOf c).abandoned = false)
    (room : (s.counterOf c).value < 2 ^ 32 - 1) : ((s.signal agent seq c).counterOf c).value = (s.counterOf c).value + 1 := by
  have unsaturated : ¬ 2 ^ 32 - 1 < (s.counterOf c).value + 1 := by omega
  unfold signal syncAdd
  simp only [live, Bool.false_eq_true, if_false, Nat.one_ne_zero, unsaturated, decide_false]
  rw [counterOf_of_releaseKept (releaseKept_releaseSatisfied ..), counterOf_setCounter_same]
  exact Nat.min_eq_left (by omega)

end State

/-! ### HALT, the end of a drain, SPAWN -/

/-- HALT puts the thread in DRAIN (R139). -/
theorem exec_halt_drains {h : Hdr} {o : CtlOps} {s : State} (hrun : s.canRun (.halt h o) h) : ∃ t, exec (.halt h o) s = .next t
    ∧ (t.thr h.tile h.ctx).run = .drain ∧ t.tile.xreg = s.tile.xreg ∧ t.mem = s.mem := by
  refine ⟨_, congrArg Host.Outcome.next (State.issue_of_canRun hrun _), ?_⟩
  obtain ⟨hx, hm, -⟩ := State.issued_frame s h.tile h.ctx
  obtain ⟨hx', hm', hr'⟩ := State.leaseRelease_frame ((s.issued h.tile h.ctx).modThr h.tile h.ctx fun th =>
    { th with run := .drain, pc := (s.thr h.tile h.ctx).pc, halted := (s.thr h.tile h.ctx).pc }) h.tile h.ctx
  refine ⟨?_, hx'.trans hx, hm'.trans hm⟩
  rw [hr', State.thr_modThr_same]

/-- A thread that SPAWN starts has no completion counter (R139). -/
theorem exec_spawn_starts {h : Hdr} {o : CtlOps} {s : State} {c : Nat} (hrun : s.canRun (.spawn h o) h) (hlt : c < 128)
    (hfree : (s.thr h.tile c).run = .free) (hlow : ∀ d, d < c → (s.thr h.tile d).run ≠ .free) :
    ∃ t, exec (.spawn h o) s = .next t ∧ (t.thr h.tile c).done = none ∧ (t.thr h.tile c).launched = false := by
  obtain ⟨-, -, hr⟩ := State.issued_frame s h.tile h.ctx
  have found : (s.issued h.tile h.ctx).freeCtx h.tile = some c :=
    State.freeCtx_eq hlt ((hr ..).trans hfree) fun d hd => by rw [hr]; exact hlow d hd
  refine ⟨_, congrArg Host.Outcome.next (State.issue_of_canRun hrun _), ?_⟩
  rw [found]
  dsimp only
  rw [State.thr_setX, State.startThr_thr]
  exact ⟨rfl, rfl⟩

/-- The state in which a drained context is FREE and its completion counter, if any, has been signalled (R139). -/
def freedAndSignalled (s : State) (tile ctx : Nat) : State :=
  let t := s.setThr tile ctx { s.thr tile ctx with run := .free }
  match (s.thr tile ctx).done with
  | none => t
  | some k => t.signal (agentId (.thread tile ctx 0)) (s.thr tile ctx).seq k

/-- The end of a drain frees the context and signals; a launch descriptor completes as well, which changes neither tiles nor counters. -/
theorem exec_threadDrainDone {tile : TileId} {ctx : CtxId} {s : State} (hdrain : (s.thr tile ctx).run = .drain)
    (hops : s.opsOf tile ctx = []) (hon : s.runs (clusterOfTile tile) = true) : ∃ t, exec (.threadDrainDone tile ctx) s = .next t
      ∧ t.tile = (freedAndSignalled s tile ctx).tile ∧ t.sync = (freedAndSignalled s tile ctx).sync := by
  refine ⟨if (s.thr tile ctx).launched then
      (freedAndSignalled s tile ctx).descDone (State.tileQueue tile 3) (s.thr tile ctx).seq
    else freedAndSignalled s tile ctx, ?_, ?_⟩
  · change execThreadDrainDone tile ctx s = _
    simp only [execThreadDrainDone, State.ifRuns, hon, hdrain, hops, List.isEmpty_nil, and_self, if_true]
    rfl
  · split
    · exact ⟨State.descDone_tile .., State.descDone_sync ..⟩
    · exact ⟨rfl, rfl⟩

theorem freedAndSignalled_run (s : State) (tile ctx : Nat) : ((freedAndSignalled s tile ctx).thr tile ctx).run = .free := by
  unfold freedAndSignalled
  split
  · rw [State.thr_setThr_same]
  · rw [State.run_signal, State.thr_setThr_same]

/-- Without a completion counter nothing is signalled (R139). -/
theorem freedAndSignalled_sync {s : State} {tile ctx : Nat} (h : (s.thr tile ctx).done = none) :
    (freedAndSignalled s tile ctx).sync = s.sync := by
  unfold freedAndSignalled
  rw [h]
  rfl

theorem freedAndSignalled_value {s : State} {tile ctx k : Nat} (h : (s.thr tile ctx).done = some k)
    (live : (s.counterOf k).abandoned = false) (room : (s.counterOf k).value < 2 ^ 32 - 1) :
    ((freedAndSignalled s tile ctx).counterOf k).value = (s.counterOf k).value + 1 := by
  unfold freedAndSignalled
  rw [h]
  exact State.value_signal _ _ live room

/-- Settles O9: HALT, the end of a drain and SPAWN, each by what its command answers. -/
theorem haltDrainsAndFreesTheContext : Obligations.HaltDrainsAndFreesTheContext := by
  refine ⟨fun h o s => exec_halt_drains, fun tile ctx s hdrain hops hon => ?_, fun h o s c => exec_spawn_starts⟩
  obtain ⟨t, hexec, htile, hsync⟩ := exec_threadDrainDone hdrain hops hon
  refine ⟨t, hexec, fun hdone => hsync.trans (freedAndSignalled_sync hdone), ?_, fun k hdone live room => ?_⟩
  · rw [State.thr_eq_of_tile htile]
    exact freedAndSignalled_run s tile ctx
  · rw [State.counterOf, hsync]
    exact freedAndSignalled_value hdone live room

end Sys2Proof.Machine

/-! SUPPORT. How firmware runs a command: what carrying it out leaves, when it is refused with STATE, and what is answered before
standalone ready (R467 to R470, R556). -/

namespace Sys2Proof.Machine

namespace State

/-! ### Answers -/

/-- An answer stands for its mailbox (R466). -/
theorem answered_answer (s : State) (m st : Nat) (p : List Byte) : (s.answer m st p).answered m st p := by
  simp [answered, answer]

@[simp] theorem answer_busy (s : State) (m st : Nat) (p : List Byte) : (s.answer m st p).job.busy = s.job.busy := by
  unfold answer
  dsimp only
  split <;> rfl

/-! ### Running a command -/

/-- A command that is taken stands among those accepted (R467, R555). -/
theorem mem_accepted_of_kciTakes {s : State} {m op : Nat} (ht : s.kciTakes m op = true) : m ∈ s.job.accepted := by
  obtain ⟨-, hqueue⟩ := Bool.and_eq_true_iff.1 ht
  split at hqueue
  · simp only [Bool.and_eq_true, beq_iff_eq, List.contains_iff_mem] at hqueue
    obtain ⟨⟨rfl, hmem⟩, -⟩ := hqueue
    exact hmem
  · simp only [Bool.and_eq_true, beq_iff_eq] at hqueue
    exact List.mem_of_head? hqueue.1

/-- A command that is taken has not begun, so that firmware runs it. -/
theorem kciLong_of_kciTakes {s : State} {m : Nat} {c : KciCmd} (ht : s.kciTakes m c.opcode = true) (begin_ : State → KciOut)
    (done : State → Option (List Byte × State)) : s.kciLong m c begin_ done = s.kciRun m c begin_ := by
  have hmem := mem_accepted_of_kciTakes ht
  simp [kciLong, kciBegun, hmem]

/-- What a command's outcome leaves: its answer stands, or it has begun and is answered later (R466 to R469). -/
def carriedOut (s : State) (m : Nat) : KciOut → State
  | .ok p n t => (t.mbClamp m n).answer m 0 p
  | .refused st => s.answer m st []
  | .later n t => { t with job.accepted := t.job.accepted.erase m, job.clamps := Tbl.put (fun _ => 0) t.job.clamps m n }

section
variable {s : State} {m : Nat} {c : KciCmd} {f : State → KciOut}

/-- With no job-state command in progress, a command that the start-up and the job's state allow is carried out. -/
theorem kciRun_eq_carriedOut (ht : s.kciTakes m c.opcode = true) (hbusy : s.job.busy = none)
    (hready : 6 ≤ s.stage ∨ c.opcode ∈ earlyCmds) (hphase : s.job.phase ∈ c.states) : s.kciRun m c f = s.carriedOut m (f s) := by
  have hallowed : 6 ≤ s.stage ∨ earlyCmds.contains c.opcode = true := by simpa using hready
  unfold kciRun
  rw [if_neg (by simp [ht]), if_neg (by simp [hbusy]), if_neg (by simpa [hphase, or_iff_not_imp_left] using hallowed)]
  cases f s <;> rfl

/-- Before standalone ready, a command that is not one of the early ones is refused with STATE (R556). -/
theorem kciRun_eq_state (ht : s.kciTakes m c.opcode = true) (hbusy : s.job.busy = none) (hstage : s.stage < 6)
    (hop : c.opcode ∉ earlyCmds) : s.kciRun m c f = s.answer m 2 [] := by
  simp [kciRun, ht, hbusy, hstage, hop]

end

/-! ### Requests for a reset -/

/-- A mailbox's reset is in progress once requested, or is answered with ABORTED (R568, R569). -/
theorem requestReset_cases (s : State) {r : ResetReq} {m : Nat} (hm : r.mailbox = some m) :
    r ∈ (s.requestReset r).rot.resets ∨ (s.requestReset r).answered m 9 [] := by
  unfold requestReset
  split
  · exact .inl (List.mem_singleton_self r)
  · split_ifs
    · exact .inl (List.mem_singleton_self r)
    · exact .inl (List.mem_append_right _ (List.mem_singleton_self r))
    · rw [resetAborted, hm]
      exact .inr (answered_answer ..)

/-! ### The meter's reading -/

/-- A write of a meter register leaves the stage of start-up alone. -/
theorem stage_setMtr (s : State) (f : Fld) (v : Nat) : (s.setMtr f v).stage = s.stage := by
  unfold stage setMtr
  exact getF_setF_other s v (by decide) (by decide) (by decide) (by decide) fun ⟨hblk, _⟩ => by simp [bFn, bMeter] at hblk

theorem stage_meterRead (s : State) (r : MeterReading) : (s.meterRead r).stage = s.stage := by
  unfold meterRead
  simp only [stage_setMtr]
  rfl

/-- The state with the registers and the meter blanked: what the meter's own updates leave alone. -/
def sansMeter (s : State) : State := { s.sansRegs with mtr := State.reset.mtr }

@[simp] theorem sansMeter_setMtr (s : State) (f : Fld) (v : Nat) : (s.setMtr f v).sansMeter = s.sansMeter :=
  congrArg (fun t : State => { t with mtr := State.reset.mtr }) (sansRegs_setF ..)

@[simp] theorem sansMeter_meterRead (s : State) (r : MeterReading) : (s.meterRead r).sansMeter = s.sansMeter := by
  unfold meterRead
  simp only [sansMeter_setMtr]
  rfl

theorem job_eq_of_sansMeter {s t : State} (h : t.sansMeter = s.sansMeter) : t.job = s.job := congrArg (·.job) h

/-- Of the registers, firmware's taking of a command rests on the stage of start-up alone, and of the meter on nothing. -/
theorem kciTakes_eq_of_sansMeter {s t : State} (h : t.sansMeter = s.sansMeter) (hstage : t.stage = s.stage) (m op : Nat) :
    t.kciTakes m op = s.kciTakes m op := by
  have hkci : t.kci = s.kci := congrArg (·.kci) h
  have hqueues : t.queues = s.queues := congrArg (·.queues) h
  have hpwr : t.pwr = s.pwr := congrArg (·.pwr) h
  unfold kciTakes mb hostWriting
  rw [hkci, hqueues, hpwr, job_eq_of_sansMeter h, hstage]

/-! ### Between stage 4 and standalone ready (R556) -/

/-- Standalone ready is not reached, no job is open and no job-state command in progress; what is taken then is taken from stage 4 on. -/
structure BeforeReady (s : State) : Prop where
  stage_lt : s.stage < 6
  idle : s.job.busy = none
  closed : s.job.phase = 0

theorem BeforeReady.of_sansMeter {s t : State} (hs : s.BeforeReady) (h : t.sansMeter = s.sansMeter) (hstage : t.stage = s.stage) :
    t.BeforeReady where
  stage_lt := hstage ▸ hs.stage_lt
  idle := job_eq_of_sansMeter h ▸ hs.idle
  closed := job_eq_of_sansMeter h ▸ hs.closed

end State

section
variable {s : State} {m op : Nat} {i : Instr}

/-- What the instruction does is the run of a mailbox's command with this opcode. -/
def RunsAs (i : Instr) (m op : Nat) (s : State) : Prop := ∃ c f, exec i s = .next (s.kciRun m c f) ∧ c.opcode = op

/-- A command that is none of the early ones is answered with STATE (R556). -/
theorem RunsAs.answered_state (hrun : RunsAs i m op s) (hs : s.BeforeReady) (hop : op ∉ earlyCmds) (ht : s.kciTakes m op = true) :
    ∃ u, exec i s = .next u ∧ u.answered m 2 [] := by
  obtain ⟨c, f, hexec, rfl⟩ := hrun
  refine ⟨_, hexec, ?_⟩
  rw [State.kciRun_eq_state ht hs.idle hs.stage_lt hop]
  exact State.answered_answer ..

/-- One of the early commands that is allowed while no job is open is carried out (R556). -/
theorem exec_early {c : KciCmd} {f : State → KciOut} (hexec : exec i s = .next (s.kciRun m c f)) (hs : s.BeforeReady)
    (hop : c.opcode ∈ earlyCmds) (hclosed : 0 ∈ c.states) (ht : s.kciTakes m c.opcode = true) :
    exec i s = .next (s.carriedOut m (f s)) := by
  rw [hexec, State.kciRun_eq_carriedOut ht hs.idle (.inr hop) (hs.closed ▸ hclosed)]

/-- An early command that has nothing to refuse is answered OK: PING, IDENT_READ, ATTEST, BOOT_QUERY. -/
theorem answeredOk_of_early (hs : s.BeforeReady) (hop : op ∈ earlyCmds)
    (hrun : ∃ c f p n t, exec i s = .next (s.kciRun m c f) ∧ c.opcode = op ∧ 0 ∈ c.states ∧ f s = .ok p n t)
    (ht : s.kciTakes m op = true) : ∃ u, exec i s = .next u ∧ ∃ p, u.answered m 0 p := by
  obtain ⟨c, f, p, n, t, hexec, rfl, hclosed, hout⟩ := hrun
  refine ⟨_, exec_early hexec hs hop hclosed ht, p, ?_⟩
  rw [hout]
  exact State.answered_answer ..

/-- A command that may take long is run when it is taken. -/
theorem runsAs_of_kciLong {c : KciCmd} {begin_ : State → KciOut} {done : State → Option (List Byte × State)}
    (hexec : exec i s = .next (s.kciLong m c begin_ done)) (hop : c.opcode = op) (ht : s.kciTakes m op = true) : RunsAs i m op s :=
  ⟨c, begin_, by rw [hexec, State.kciLong_of_kciTakes (hop ▸ ht)], hop⟩

/-- A command that waits for islands in HOLD from standalone ready on waits for none before it (R521, R524). -/
theorem runsAs_of_waits {held : Bool} {c : KciCmd} {f : State → KciOut} (hs : s.BeforeReady)
    (hexec : exec i s = .next (if decide (6 ≤ s.stage) && held then s else s.kciRun m c f)) (hop : c.opcode = op) : RunsAs i m op s :=
  ⟨c, f, by rw [hexec, if_neg (by simp [hs.stage_lt])], hop⟩

end

section
variable {s : State} {m : MailboxId}

/-! ### EVENT_RING_SET and RESET -/

/-- EVENT_RING_SET is answered, with OK or the status of an address that does not fit (R484). -/
theorem eventRingSet_answered (hs : s.BeforeReady) (ht : s.kciTakes m 0x02 = true) :
    ∃ u, exec (.eventRingSet m) s = .next u ∧ ∃ st p, st ≠ 2 ∧ u.answered m st p := by
  refine ⟨_, exec_early rfl hs (by decide) (List.mem_singleton_self 0) ht, ?_⟩
  dsimp only
  split
  · exact ⟨4, _, by decide, State.answered_answer ..⟩
  · exact ⟨0, _, by decide, State.answered_answer ..⟩

/-- RESET is refused otherwise than with STATE, or requests its reset (R568, R569). -/
theorem reset_answered_or_requested (hs : s.BeforeReady) (ht : s.kciTakes m 0x97 = true) :
    ∃ u, exec (.reset m) s = .next u
      ∧ ((∃ st p, st ≠ 2 ∧ u.answered m st p) ∨ ∃ q ∈ u.rot.resets, q.mailbox = some m.val) := by
  refine ⟨_, exec_early rfl hs (by decide) (by decide) ht, ?_⟩
  dsimp only
  split_ifs
  · exact .inl ⟨9, _, by decide, State.answered_answer ..⟩
  · exact .inl ⟨1, _, by decide, State.answered_answer ..⟩
  · exact .inl ⟨4, _, by decide, State.answered_answer ..⟩
  · rcases State.requestReset_cases s (r := ⟨_, _, _, some m.val⟩) rfl with hmem | hans
    · exact .inr ⟨_, hmem, rfl⟩
    · exact .inl ⟨9, _, by decide, hans⟩

/-! ### JOB_SUSPEND and METER_TAG, which are more than a run -/

/-- JOB_SUSPEND that begins nothing answers nothing further. -/
theorem jobSuspend_answered_state (hs : s.BeforeReady) (ht : s.kciTakes m 0x21 = true) :
    ∃ u, exec (.jobSuspend m) s = .next u ∧ u.answered m 2 [] := by
  refine ⟨s.answer m 2 [], ?_, State.answered_answer ..⟩
  change execJobSuspend m s = _
  have hrefused (f : State → KciOut) : s.kciRun m.val ⟨0x21, [1], true, false⟩ f = s.answer m.val 2 [] :=
    State.kciRun_eq_state ht hs.idle hs.stage_lt (by decide)
  simp only [execJobSuspend, hrefused, State.answer_busy, hs.idle, reduceCtorEq, false_and, if_false]

/-- METER_TAG is refused on the state with the meter's reading. -/
theorem meterTag_answered_state (r : MeterReading) (hs : s.BeforeReady) (ht : s.kciTakes m 0x80 = true) :
    ∃ u, exec (.meterTag m r) s = .next u ∧ u.answered m 2 [] := by
  have hframe := State.sansMeter_meterRead s r
  have hstage := State.stage_meterRead s r
  have hs' := hs.of_sansMeter hframe hstage
  have ht' := (State.kciTakes_eq_of_sansMeter hframe hstage m.val 0x80).trans ht
  have hrefused (f : State → KciOut) :
      (s.meterRead r).kciRun m.val ⟨0x80, [0, 1, 2], false, false⟩ f = (s.meterRead r).answer m.val 2 [] :=
    State.kciRun_eq_state ht' hs'.idle hs'.stage_lt (by decide)
  refine ⟨(s.meterRead r).answer m 2 [], ?_, State.answered_answer ..⟩
  change execMeterTag m r s = _
  rw [execMeterTag, if_pos ht, State.meterKci, hrefused]

end

/-- Settles O56: the early commands are carried out; every other command runs, and is refused with STATE. -/
theorem beforeReadyOnlySixCommandsAreAnswered : Obligations.BeforeReadyOnlySixCommandsAreAnswered := by
  intro m r form s hstage hidle hclosed
  have hs : s.BeforeReady := ⟨by omega, hidle, hclosed⟩
  refine ⟨?_, eventRingSet_answered hs, reset_answered_or_requested hs, ?_⟩
  · simp only [List.forall_mem_cons, List.not_mem_nil, false_imp_iff, implies_true, and_true]
    and_intros
    all_goals exact answeredOk_of_early hs (by decide) ⟨_, _, _, _, _, rfl, rfl, by decide, rfl⟩
  · have refused {i : Instr} {op : Nat} (hop : op ∉ earlyCmds) (hrun : s.kciTakes m op = true → RunsAs i m op s)
        (ht : s.kciTakes m op = true) : ∃ u, exec i s = .next u ∧ u.answered m 2 [] := (hrun ht).answered_state hs hop ht
    simp only [List.forall_mem_cons, List.not_mem_nil, false_imp_iff, implies_true, and_true]
    refine ⟨?mapLoad, ?jobOpen, ?jobSuspend, ?jobResume, ?jobClose, ?reseed, ?ringReform, ?queueBind, ?counterOp, ?counterWait,
      ?rangeSet, ?groupWrite, ?reflectAdd, ?reflectRemove, ?regRead, ?regWrite, ?oppWrite, ?phaseMap, ?islandSet, ?deviceState,
      ?powerLimit, ?powerRead, ?meterTag, ?meterRead, ?meterAck, ?meterIdent, ?meterAudit, ?apportionRead, ?fwLoad, ?fwCommit,
      ?keyEnrol, ?keyRemove, ?extUnload, ?capture, ?bankMode, ?bankClear⟩
    case jobSuspend => exact jobSuspend_answered_state hs
    case meterTag => exact meterTag_answered_state r hs
    case islandSet | deviceState => exact refused (by decide) (runsAs_of_kciLong rfl rfl)
    case regRead | regWrite | bankMode | bankClear => exact refused (by decide) fun _ => runsAs_of_waits hs rfl rfl
    all_goals exact refused (by decide) fun _ => ⟨_, _, rfl, rfl⟩

end Sys2Proof.Machine

/-! SUPPORT. What BANK_MODE of one bank leaves (R584, R596), and the mailbox's count of clamped fields after it (R468, R469). -/

namespace Sys2Proof.Machine

namespace State

/-! ### The mode of a bank -/

@[simp] theorem sansRegs_clearBank (s : State) (b : Nat) : (s.clearBank b).sansRegs = s.sansRegs :=
  foldS_keeps sansRegs (fun s k => sansRegs_setReg s (bBank b) .CB_CNT k 0) _ s

/-- A bank's mode stands in its registers. -/
@[simp] theorem sansRegs_bankMode (s : State) (b mode : Nat) : (s.bankMode b mode).2.sansRegs = s.sansRegs := by
  unfold bankMode
  generalize (if bankIsSc b then min 1 mode else 0) = m
  dsimp only
  split
  · rfl
  · exact (sansRegs_clearBank ..).trans (sansRegs_setF ..)

/-- A command that names one bank names that one, with nothing clamped (R469, R596). -/
theorem banksNamed_one {s : State} {m : Nat} (hcount : s.req m 4 4 = 1) : s.banksNamed m 1 = ([s.req m 0 4], 0) := by
  have hclamp : clampTo 1 (12235 - s.req m 0 4) 1 = 1 := by unfold clampTo; omega
  simp only [banksNamed, hcount, clampN, hclamp, if_true, upFrom]

/-! ### The count of clamped fields -/

/-- The fields clamped of a mailbox's command that has begun: they count with the answer OK (R468, R469). -/
def keptClamps (s : State) (m : Nat) : Nat := Tbl.get (fun _ => 0) s.job.clamps m

@[simp] theorem clamps_mbClamp (s : State) (m n : Nat) : ((s.mbClamp m n).mb m).clamps = satAdd (s.mb m).clamps n := by
  simp [mbClamp, modMb, mb]

@[simp] theorem keptClamps_mbClamp (s : State) (m n : Nat) : (s.mbClamp m n).keptClamps m = s.keptClamps m := rfl

/-- The answer OK counts the fields kept for its mailbox. -/
theorem clamps_answer_ok {s : State} {m : Nat} (p : List Byte) (hkept : s.keptClamps m ≠ 0) :
    ((s.answer m 0 p).mb m).clamps = satAdd (s.mb m).clamps (s.keptClamps m) := by
  unfold answer
  dsimp only
  rw [if_pos ⟨rfl, hkept⟩]
  exact clamps_mbClamp ..

theorem keptClamps_eq_of_sansRegs {s t : State} (h : t.sansRegs = s.sansRegs) (m : Nat) : t.keptClamps m = s.keptClamps m := by
  have hjob : t.job = s.job := congrArg (·.job) h
  rw [keptClamps, hjob, keptClamps]

theorem mb_eq_of_sansRegs {s t : State} (h : t.sansRegs = s.sansRegs) (m : Nat) : t.mb m = s.mb m := by
  have hkci : t.kci = s.kci := congrArg (·.kci) h
  rw [mb, hkci, mb]

end State

section
variable {s : State} {m : MailboxId} {b : BankIdx} (hfree : s.blkHeld (bBank b) = false) (ht : s.takes m 0xA1 [0, 1, 2])
  (hfirst : s.req m 0 4 = b) (hcount : s.req m 4 4 = 1)

include hfree ht hfirst hcount

/-- BANK_MODE of one bank sets its mode, counts a clamp where another was asked for, and answers OK with the mode in force (R584, R596). -/
theorem exec_bankMode_one : exec (.bankMode m) s = .next
      (((s.bankMode b (s.req m 8 4)).2.mbClamp m (if (s.bankMode b (s.req m 8 4)).1 = s.req m 8 4 then 0 else 1)).answer m 0
        [BitVec.ofNat 8 (s.bankMode b (s.req m 8 4)).1]) := by
  obtain ⟨htakes, hstage, hidle, hphase⟩ := ht
  have hnamed : s.banksNamed m 1 = ([b.val], 0) := hfirst ▸ State.banksNamed_one hcount
  have hheld : s.banksHeld m 1 = false := by simp [State.banksHeld, hnamed, hfree]
  have hrange : ¬ 12234 < s.req m 0 4 := by omega
  change execBankMode m s = _
  rw [execBankMode, hheld, if_neg Bool.false_ne_true, State.kciRun_eq_carriedOut htakes hidle (.inl hstage) hphase]
  simp only [hrange, hnamed, if_false, State.carriedOut, State.foldS, List.map_cons, List.map_nil, List.take, List.all_cons, List.all_nil,
    Bool.and_true, beq_iff_eq, Nat.zero_add]

/-- Fields kept for the mailbox count on top of BANK_MODE's own clamp. -/
theorem exec_bankMode_one_clamps (hkept : s.keptClamps m ≠ 0) {u : State} (hexec : exec (.bankMode m) s = .next u) :
    (u.mb m).clamps = satAdd (satAdd (s.mb m).clamps (if (s.bankMode b (s.req m 8 4)).1 = s.req m 8 4 then 0 else 1))
      (s.keptClamps m) := by
  have hframe := State.sansRegs_bankMode s b (s.req m 8 4)
  have hsame := State.keptClamps_eq_of_sansRegs hframe m
  rw [exec_bankMode_one hfree ht hfirst hcount] at hexec
  injection hexec with hu
  rw [← hu, State.clamps_answer_ok _ (by rwa [State.keptClamps_mbClamp, hsame]), State.keptClamps_mbClamp, hsame, State.clamps_mbClamp,
    State.mb_eq_of_sansRegs hframe]

end

/-- Mailbox 3 holds BANK_MODE of bank 0 with mode 0, first among the commands accepted, while one clamped field is kept for the mailbox:
what firmware needs to take a command says nothing of the fields kept. -/
def bankModeWithClampKept : State :=
  { (State.reset.setF (bFn 6) Fld.BOOT_STATUS_STAGE 6).modMb 3 fun b =>
      { b with opcode := 0xA1, length := 12, state := 1, payload := Memory.writeLE b.payload 4 4 1 } with
    job.accepted := [3], job.clamps := [(3, 1)] }

theorem bankModeWithClampKept_takes : bankModeWithClampKept.takes 3 0xA1 [0, 1, 2] := by
  unfold State.takes
  decide +kernel

/-- Refutes O55 by its last clause, which leaves out what is kept for the mailbox: BANK_MODE clamps nothing here, and its answer OK counts
the field kept (R468, R469), so that MB_CLAMPS goes from 0 to 1 where the statement has it stay 0. -/
theorem not_bankModeChangesClearTheCounters : ¬ Obligations.BankModeChangesClearTheCounters := by
  intro h
  obtain ⟨-, -, hcommand⟩ := h 0 bankModeWithClampKept
  have hfree : bankModeWithClampKept.blkHeld (bBank 0) = false := by decide +kernel
  have hfirst : bankModeWithClampKept.req 3 0 4 = 0 := by decide +kernel
  have hcount : bankModeWithClampKept.req 3 4 4 = 1 := by decide +kernel
  obtain ⟨u, hexec, -, -, hclamps⟩ := hcommand 3 hfree bankModeWithClampKept_takes (by decide) hfirst hcount
  have hcounted := exec_bankMode_one_clamps (b := 0) hfree bankModeWithClampKept_takes hfirst hcount (by decide) hexec
  exact absurd (hcounted.symm.trans hclamps) (by decide +kernel)

end Sys2Proof.Machine
